-- ==== Sys2Proof/Word.lean ====
section
/-! DEFINITION. The word types of the Talpor G9 and their plainest readings (R8, R11). -/

namespace Sys2Proof

/-- A vector register's 32 bits (R87). -/
abbrev Word := BitVec 32
/-- A scalar register's, a program counter's or an address's 64 bits (R87, R102). -/
abbrev DWord := BitVec 64
/-- One byte of memory (R8). -/
abbrev Byte := BitVec 8
/-- One bit for each lane of a group (R7). -/
abbrev LaneMask := BitVec 32
/-- The 96 bits of an instruction slot (R50). -/
abbrev SlotWord := BitVec 96

end Sys2Proof
end

