-- ==== Sys2Proof/Config.lean ====
section
/-! DEFINITION. What one GZ-9601 fixes (R1, R3) and the FREE VALUES: constants without a body, of which no proof can know more than their type. -/

namespace Sys2Proof.Config

/-- Cores of the module (R1, R3). -/
def cores : Nat := 576
/-- Cores of one compute die (R1). -/
def coresPerDie : Nat := 72
/-- User team slots of a core (R16). -/
def teamsPerCore : Nat := 16
/-- User group slots of quadrant q: 15 on quadrant 0, 16 elsewhere (R16). -/
def groupSlots (q : Nat) : Nat := if q = 0 then 15 else 16
/-- Vector registers of a quadrant, 32 lanes each: 256 KiB / 128 bytes (R16, R17). -/
def quadRegs : Nat := 2048
/-- Bytes of a scratchpad (R106). -/
def scratchBytes : Nat := 262144
/-- Lines of 128 bytes that one home slice holds: 8 MiB (R1, R3). -/
def sliceLines : Nat := 65536
/-- Entries of a core's TLB, and sets and ways of a die's (R120). -/
def tlbEntries : Nat := 256
def dieTlbSets : Nat := 4096
def dieTlbWays : Nat := 8
/-- Requests that a die's walk queue holds (R121). -/
def walkQueue : Nat := 512
/-- Frame numbers that the cold queue holds (R125). -/
def coldQueue : Nat := 262144
/-- Entries of a device's owner cache (R128). -/
def ownerCache : Nat := 65536
/-- Bytes of a vault (R1, R108). -/
def vaultBytes : Nat := 16777216
/-- Entries of a quadrant's operand log (R94). -/
def logEntries : Nat := 64
/-- Frames of 64 KiB of the module's DRAM (R124). -/
def frames : Nat := 12582912
/-- Frames of the relay buffer (R202). -/
def relayFrames : Nat := 4096
/-- Copies outstanding on one core, counted in lanes (R302). -/
def copiesPerCore : Nat := 64
/-- Value at which an outstanding-operation counter stalls the path (R91). -/
def counterFull : Nat := 1024
/-- Stubs of a device (R135). -/
def stubs : Nat := 4096
/-- Fault-queue entries for parked remote requests (R205). -/
def faultQueue : Nat := 4096
/-- Barrier timeout after reset, in cycles (R35, R88). -/
def barTimeout : Nat := 134217728
/-- Spin threshold N after reset (R40, R88). -/
def spinThreshold : Nat := 65536
/-- Plates that a Kiln chamber's buffer holds (R170). -/
def plateBuffer : Nat := 128
/-- Lines of 64 bytes of a Kiln's scale cache (R187). -/
def scaleLines : Nat := 4096
/-- Reservation entries of a Kiln chamber (R170). -/
def reservation : Nat := 64
/-- Cycles of silence after which an agent is restarted (R268). -/
def watchdogCycles : Nat := 16777216
/-- Dies of the module (R1): compute dies 0 to 7, then vault dies, DRAM dies, base dies and the host die. DESIGN CHOICE (log 100): the spec counts them and gives them no numbers. -/
def dies : Nat := 153
/-- Fused cap of the module's power, in watts (R5). -/
def powerCap : Nat := 3600
/-- Fused junction limit, in degrees Celsius (R5). -/
def junctionCap : Nat := 105

/-- FREE VALUE. The choice the hardware makes at its n-th open choice: which pending happening of the agenda comes next, and whether a cycle comes before it. The spec orders neither (R121, R137, R186, R204). -/
opaque choice : Nat → Nat
/-- FREE VALUE. The skew, in nanoseconds, of the GTIME that observer n sees; only its remainder modulo 3 is used, so two observers of the module differ by at most 2 ns (R136). -/
opaque skew : Nat → Nat
/-- FREE VALUE. Cycles of its die's clock by which core n left reset before the die's count began: the counts of different cores are unrelated (R301). -/
opaque clkStart : Nat → Nat
/-- FREE VALUE. Whether the n-th overlapped byte of a copy whose destination lies above its source ends with the newly copied value (R113). -/
opaque overlapTakesNew : Nat → Bool
/-- FREE VALUE. The n-th 64-bit word of a value whose content the spec leaves to the module: the nonces and certificates of attestation (R271), the DRAM training record (R270), and RTRAP's result for an action that R354 does not name. -/
opaque freeWord : Nat → BitVec 64

/-- FREE VALUE. The 56-byte ephemeral scalar of this module's n-th X448 agreement, which never leaves the optical engines (R216). -/
opaque ephemeral : Nat → Nat
/-- FREE VALUES. The 57-byte Ed448 public keys of the pod's device certificates, by device (R216), and of the firmware's signer, which fuses hold (R269), as little-endian numbers. -/
opaque deviceCert : Nat → Nat
opaque bootKey : Nat
/-- FREE VALUES. The 57 bytes of this device's Ed448 private key (R271), and the magic of a firmware image (R269), as little-endian numbers. -/
opaque deviceKey : Nat
opaque bootMagic : Nat
/-- FREE VALUE. Flits under a key that the receiver has not seen when a slot's connection opens (log 99): the spec says no way by which it learns that the sender has dropped them (R209, R217). -/
opaque lostFlits : Nat → Nat
/-- FREE VALUE. Measurement 1: the fuse configuration (R271). -/
opaque fuseConfig : BitVec 512

/-- FREE VALUE. The one-way delay from this module to rotor f, in nanoseconds, which link training measures (R197); its remainder modulo 751 is used, as a path of 150 m through the rotor allows. -/
opaque fibreDelay : Nat → Nat
/-- FREE VALUE. The n-th recomputed heater code (R214). -/
opaque heaterCode : Nat → BitVec 16

/-- FREE VALUE. The physical address of the table root that the driver has set up for an ASID of which no team has started yet (R115, R257): the spec says how a launch names the root, and not how the agent knows it before. -/
opaque driverRoot : Nat → Nat

end Sys2Proof.Config
end

