-- ==== Sys2Proof/Syntax.lean ====
section
/-! DEFINITION. Rhatric's instructions and the module's events: one constructor of Instr for each row of the spec's table of operations. The operand structures follow the M layouts of R55 to R61. -/

namespace Sys2Proof

/-- The guard field of a slot (R50, R53): index 15 is pt, and negated pt is the shared guard of a pair's second slot (R62). -/
structure Guard where
  neg : Bool
  idx : BitVec 4
  deriving DecidableEq, Repr

/-- The guard that every lane of the path passes. -/
def Guard.always : Guard := ⟨false, 15⟩
/-- Guard 0b1_1111 (R53, R62). -/
def Guard.shared : Guard := ⟨true, 15⟩

/-- A vector-class source: a register number, or a bypass latch (R50, R52). -/
inductive Src where
  | reg (n : BitVec 11)
  | latch (k : BitVec 2)
  deriving DecidableEq, Repr

/-- A vector-class destination: a register (or predicate) number, or NW, the latch ring alone (R52). -/
inductive Dst where
  | reg (n : BitVec 11)
  | nw
  deriving DecidableEq, Repr

/-- Type codes 0 to 14 (R57). -/
inductive Ty where
  | s8 | s16 | s32 | s64 | z8 | z16 | z32 | z64
  | f16 | bf16 | f32 | f64 | bf16x2 | f16x2 | f32x2
  deriving DecidableEq, Repr

/-- The four rounding modes (R55, R159). -/
inductive Rnd where
  | rne | rz | rup | rdn
  deriving DecidableEq, Repr

/-- Compare codes 0 to 13 (R56). -/
inductive Cmp where
  | eq | ne | lt | le | gt | ge | num | nan | equ | neu | ltu | leu | gtu | geu
  deriving DecidableEq, Repr

/-- Scope codes (R59, R142). -/
inductive Scope where
  | team | clus | dev | sys
  deriving DecidableEq, Repr

/-- The four outstanding-operation counters (R91), in WAITC's code order (R58). -/
inductive Ctr where
  | copy | kiln | atomnr | fabric
  deriving DecidableEq, Repr

/-- Register forms of classes 0x1 to 0x5 (R55, R306). `op8` is the op-specific byte M[95:88]. -/
structure VArgs where
  guard : Guard
  d : Dst
  a : Src
  b : Src
  c : Src
  ty : Ty
  rnd : Rnd
  sat : Bool
  negA : Bool
  negB : Bool
  absA : Bool
  absB : Bool
  cmp : Cmp
  op8 : BitVec 8
  deriving DecidableEq, Repr

/-- I-forms of classes 0x1 to 0x5 (R54): the immediate stands for B, C and M[72:65]. -/
structure VImm where
  guard : Guard
  d : Dst
  a : Src
  imm : Word
  ty : Ty
  rnd : Rnd
  sat : Bool
  negA : Bool
  negB : Bool
  absA : Bool
  absB : Bool
  cmp : Cmp
  op8 : BitVec 8
  deriving DecidableEq, Repr

/-- NOP, EXIT, RJOIN, YIELD (R60): the guard alone. -/
structure G0Args where
  guard : Guard
  deriving DecidableEq, Repr

/-- BRA, CALL, RCV, BRK (R60); `d` is CALL's return pair and `depth` BRK's n. -/
structure BraArgs where
  guard : Guard
  d : BitVec 11
  slot : BitVec 3
  off : BitVec 32
  depth : BitVec 4
  deriving DecidableEq, Repr

/-- BRX and RET: the pair that holds the target (R299, R370). -/
structure JmpArgs where
  guard : Guard
  a : BitVec 11
  deriving DecidableEq, Repr

/-- TRAP and BKPT with their 16-bit code (R295, R374). -/
structure CodeArgs where
  guard : Guard
  code : BitVec 16
  deriving DecidableEq, Repr

/-- PROG k (R277). -/
structure ProgArgs where
  guard : Guard
  k : BitVec 4
  deriving DecidableEq, Repr

/-- RTRAP, LNCH, PREM: two scalars (R351). -/
structure PrivArgs where
  guard : Guard
  a : BitVec 11
  b : BitVec 11
  deriving DecidableEq, Repr

/-- Register forms of class 0x6 (R61, R371). -/
structure SclArgs where
  guard : Guard
  d : BitVec 11
  a : BitVec 11
  b : BitVec 11
  ty : Ty
  cmp : Cmp
  deriving DecidableEq, Repr

/-- I-forms of class 0x6 (R54, R371). -/
structure SclImm where
  guard : Guard
  d : BitVec 11
  a : BitVec 11
  imm : Word
  ty : Ty
  deriving DecidableEq, Repr

/-- SRD, SWR and CLK: a scalar and a special register number (R61, R88). -/
structure SprArgs where
  guard : Guard
  s : BitVec 11
  num : BitVec 11
  deriving DecidableEq, Repr

/-- LD, ST, PREF, SLD, SST, LDLN, STLN (R58). -/
structure MemArgs where
  guard : Guard
  d : BitVec 11
  a : BitVec 11
  b : BitVec 11
  c : BitVec 11
  sbase : Bool
  count : BitVec 2
  size : BitVec 3
  off : BitVec 24
  deriving DecidableEq, Repr

/-- LDAQ and STRL (R142). -/
structure AcqArgs where
  guard : Guard
  d : BitVec 11
  a : BitVec 11
  b : BitVec 11
  c : BitVec 11
  sbase : Bool
  b64 : Bool
  scope : Scope
  off : BitVec 24
  deriving DecidableEq, Repr

/-- FENCE (R318). -/
structure FenceArgs where
  guard : Guard
  scope : Scope
  deriving DecidableEq, Repr

/-- WAITC (R58, R375). -/
structure WaitArgs where
  guard : Guard
  ctr : Ctr
  n : BitVec 8
  deriving DecidableEq, Repr

/-- Class 0x8 (R59, R283). -/
structure AtomArgs where
  guard : Guard
  d : BitVec 11
  a : BitVec 11
  b : BitVec 11
  c : BitVec 11
  wide : Bool
  nr : Bool
  scope : Scope
  ty : Ty
  off : BitVec 16
  deriving DecidableEq, Repr

/-- BAR, BARA, BARW, CBAR, ORDW, ORDS (R291, R360). -/
structure IdArgs where
  guard : Guard
  id : BitVec 4
  deriving DecidableEq, Repr

/-- GROW (R326). -/
structure GrowArgs where
  guard : Guard
  d : BitVec 11
  a : BitVec 11
  deriving DecidableEq, Repr

/-- QPUSH (R364): predicate, packet address pair, queue scalar. -/
structure QpushArgs where
  guard : Guard
  p : BitVec 4
  a : BitVec 11
  b : BitVec 11
  deriving DecidableEq, Repr

/-- CPY and CPYH (R112). -/
structure CpyArgs where
  guard : Guard
  h : BitVec 4
  a : BitVec 11
  b : BitVec 11
  c : BitVec 11
  deriving DecidableEq, Repr

/-- HTST, HCAN, HMOV (R328): `d` is a predicate or a handle. -/
structure HandArgs where
  guard : Guard
  d : BitVec 4
  h : BitVec 4
  deriving DecidableEq, Repr

/-- KPACK (R177). -/
structure KpackArgs where
  guard : Guard
  d : BitVec 11
  a : BitVec 11
  c : BitVec 11
  deriving DecidableEq, Repr

/-- KPASS and KWIN (R178); `conv` is KPASS's mode 1. -/
structure KpassArgs where
  guard : Guard
  h : BitVec 4
  a : BitVec 11
  b : BitVec 11
  c : BitVec 11
  conv : Bool
  dst : BitVec 11
  ss : BitVec 8
  steps : BitVec 7
  reuse : Bool
  deriving DecidableEq, Repr

/-- KEXT (R185, R335). -/
structure KextArgs where
  guard : Guard
  d : BitVec 11
  a : BitVec 11
  c : BitVec 11
  first : BitVec 11
  count : BitVec 5
  deriving DecidableEq, Repr

/-- KSTAB (R183). -/
structure KstabArgs where
  guard : Guard
  a : BitVec 11
  id : BitVec 8
  deriving DecidableEq, Repr

/-- FSEND (R233). -/
structure FsendArgs where
  guard : Guard
  h : BitVec 4
  a : BitVec 11
  b : BitVec 11
  flow : BitVec 12
  deriving DecidableEq, Repr

/-- FFENCE (R321). -/
structure FfenceArgs where
  guard : Guard
  a : BitVec 11
  c : BitVec 11
  dev : BitVec 8
  deriving DecidableEq, Repr

/-- FSYNC (R324). -/
structure FsyncArgs where
  guard : Guard
  flow : BitVec 12
  deriving DecidableEq, Repr

/-- PMIG (R363). -/
structure PmigArgs where
  guard : Guard
  h : BitVec 4
  a : BitVec 11
  deriving DecidableEq, Repr

/-- A transport packet (R203). Its payload is kept as a list of numbers, one for each field of the operation. -/
structure Pkt where
  src : Nat
  dst : Nat
  /-- 0 ordered, 1 bulk, 2 control. -/
  cls : Nat
  relayed : Bool
  op : Nat
  seq : Nat
  epoch : Nat
  asid : Nat
  va : Nat
  ack : Nat
  body : List Nat
  deriving DecidableEq, Repr

/-- A 1,088-bit flit (R206). -/
abbrev Flit := BitVec 1088

/-- What a SLOTHDR flit carries (R210). -/
structure SlotHdr where
  dev : Nat
  fibre : Nat
  slot : Nat
  set : BitVec 64
  credit : Nat
  health : BitVec 64
  deriving DecidableEq, Repr

/-- A kernel descriptor record (R80). -/
structure Kernel where
  entry : DWord
  regs : Nat
  depth : Nat
  scratch : Nat
  vault : Nat
  /-- h, w, n of `.cluster`; n = 0 for none -/
  ch : Nat
  cw : Nat
  cn : Nat
  spill : Nat
  det : Bool
  /-- the coefficient table of the code object, 16,384 bytes (R167) -/
  coef : List Byte
  deriving DecidableEq, Repr

/-- The register blocks that host and firmware write (R199, R218, R272, R275, R279). `limits` stands for the settings that the spec gives firmware or the driver without naming a register: the power and junction limits (R5), the watermark (R125), the base of the error ring (R93) and that of the action log (R268); `pages` for firmware's request to migrate the page that is written to a device, in the ASID that is the value (R129); `code` for the driver's loading of a code object, whose kernel descriptor record then stands at the address that is written (R80, R258). -/
inductive RegBlock where
  | fabric | port (p : Nat) | geyser | trial | replay | limits | pages (n : Nat) | code (k : Kernel)
  deriving DecidableEq, Repr

/-- The SPDM requests the responder supports (R271). -/
inductive SpdmReq where
  | getVersion | getCapabilities | negotiateAlgorithms | getDigests | getCertificate | challenge | getMeasurements
  deriving DecidableEq, Repr

/-- Rhatric's instruction forms, then the module's events. An event's fields say what it is about. -/
inductive Instr where
  -- class 0x0
  | nop (x : G0Args) | bra (x : BraArgs) | brx (x : JmpArgs) | call (x : BraArgs) | ret (x : JmpArgs)
  | exit (x : G0Args) | rcv (x : BraArgs) | rjoin (x : G0Args) | brk (x : BraArgs) | yield (x : G0Args)
  | trap (x : CodeArgs) | bkpt (x : CodeArgs) | prog (x : ProgArgs)
  | rtrap (x : PrivArgs) | lnch (x : PrivArgs) | prem (x : PrivArgs)
  -- class 0x1
  | iadd (x : VArgs) | iaddI (x : VImm) | isub (x : VArgs) | isubI (x : VImm) | imul (x : VArgs) | imulI (x : VImm)
  | imulh (x : VArgs) | imad (x : VArgs) | imin (x : VArgs) | iminI (x : VImm) | imax (x : VArgs) | imaxI (x : VImm)
  | iabs (x : VArgs) | ineg (x : VArgs) | isetp (x : VArgs) | isetpI (x : VImm) | lea (x : VArgs) | leaI (x : VImm)
  -- class 0x2
  | and (x : VArgs) | andI (x : VImm) | or (x : VArgs) | orI (x : VImm) | xor (x : VArgs) | xorI (x : VImm)
  | not (x : VArgs) | shl (x : VArgs) | shlI (x : VImm) | shr (x : VArgs) | shrI (x : VImm) | sar (x : VArgs) | sarI (x : VImm)
  | popc (x : VArgs) | clz (x : VArgs) | brev (x : VArgs) | bfx (x : VArgs) | bfi (x : VArgs) | sel (x : VArgs) | prmt (x : VArgs)
  -- class 0x3
  | fadd (x : VArgs) | faddI (x : VImm) | fsub (x : VArgs) | fmul (x : VArgs) | fmulI (x : VImm) | ffma (x : VArgs) | ffmaI (x : VImm)
  | fmin (x : VArgs) | fmax (x : VArgs) | fsetp (x : VArgs) | fsetpI (x : VImm) | fclass (x : VArgs)
  -- class 0x4
  | fcvt (x : VArgs) | frnd (x : VArgs) | fsqrt (x : VArgs) | frcp (x : VArgs) | frsq (x : VArgs)
  | fexp2 (x : VArgs) | flog2 (x : VArgs) | fsin (x : VArgs) | fcos (x : VArgs)
  -- class 0x5
  | mov (x : VArgs) | movH (x : VArgs) | movi (x : VImm) | movs (x : VArgs) | sget (x : VArgs) | shfl (x : VArgs)
  | vote (x : VArgs) | redux (x : VArgs) | pset (x : VArgs) | plop (x : VArgs)
  -- class 0x6
  | sadd (x : SclArgs) | saddI (x : SclImm) | ssub (x : SclArgs) | ssubI (x : SclImm) | smul (x : SclArgs) | smulI (x : SclImm)
  | sand (x : SclArgs) | sandI (x : SclImm) | sor (x : SclArgs) | sorI (x : SclImm) | sxor (x : SclArgs) | sxorI (x : SclImm)
  | sshl (x : SclArgs) | sshlI (x : SclImm) | sshr (x : SclArgs) | sshrI (x : SclImm)
  | smov (x : SclArgs) | smovi (x : SclImm) | ssetp (x : SclArgs) | srd (x : SprArgs) | swr (x : SprArgs) | clk (x : SprArgs)
  -- class 0x7
  | ld (x : MemArgs) | st (x : MemArgs) | ldaq (x : AcqArgs) | strl (x : AcqArgs) | ldln (x : MemArgs) | stln (x : MemArgs)
  | pref (x : MemArgs) | sld (x : MemArgs) | sst (x : MemArgs) | fence (x : FenceArgs) | waitc (x : WaitArgs)
  -- class 0x8
  | aadd (x : AtomArgs) | amin (x : AtomArgs) | amax (x : AtomArgs) | aand (x : AtomArgs) | aor (x : AtomArgs) | axor (x : AtomArgs)
  | axch (x : AtomArgs) | acas (x : AtomArgs) | afadd (x : AtomArgs) | afmin (x : AtomArgs) | afmax (x : AtomArgs)
  -- class 0x9
  | bar (x : IdArgs) | bara (x : IdArgs) | barw (x : IdArgs) | cbar (x : IdArgs) | ordw (x : IdArgs) | ords (x : IdArgs)
  | grow (x : GrowArgs) | qpush (x : QpushArgs)
  -- class 0xA
  | cpy (x : CpyArgs) | cpyh (x : CpyArgs) | htst (x : HandArgs) | hcan (x : HandArgs) | hmov (x : HandArgs)
  -- class 0xB
  | kpackA (x : KpackArgs) | kpackB (x : KpackArgs) | kpass (x : KpassArgs) | kwin (x : KpassArgs) | kext (x : KextArgs) | kstab (x : KstabArgs)
  -- class 0xC
  | fsend (x : FsendArgs) | ffence (x : FfenceArgs) | fsync (x : FsyncArgs) | pmig (x : PmigArgs)
  -- events of the cores and agents
  | lineFetch (core asid va : Nat) (glitch : BitVec 512)
  | barstall (team b : Nat) (clus : Bool)
  | frontierRetire (grid team : Nat)
  | trapTaken (gk cause sub : Nat) (mask : LaneMask) (pc : DWord) (detail : Nat) (addr : DWord)
  -- events of the memory system
  | loadReturn (entry : Nat)
  | storePerformed (entry lane : Nat)
  | homeRead (core pa : Nat) (row1 : Bool)
  | homeAtomic (entry lane : Nat)
  | atomicResponse (entry : Nat)
  | sliceEvictWait (slice line : Nat)
  | operandLogReplay (entry : Nat)
  | faultService (core asid va : Nat)
  | tableWalk (core asid va : Nat)
  | invalidate (asid lo hi : Nat)
  | frameEvict (asid va pa : Nat) (peer : Option Nat) (payload : Nat)
  | copyLineWrite (op line : Nat)
  | copyComplete (op : Nat)
  -- pages shared across the pod
  | ownerCacheQuery (asid vpn : Nat) (answer : Option (Nat × Nat))
  | redirect (asid vpn owner gen : Nat)
  | pendingDrain (asid vpn : Nat)
  | stubRelay (p : Pkt)
  | stale (asid vpn : Nat)
  | migrateGrant (asid vpn : Nat)
  | migrateCopy (asid vpn line : Nat)
  | switchover (asid vpn : Nat)
  | install (asid vpn : Nat)
  | done (asid vpn : Nat)
  | repoint (asid vpn : Nat) (dest : Nat × Nat)
  | abort (asid vpn : Nat)
  | reclaim (asid vpn : Nat)
  | reclaimOk (asid vpn : Nat)
  | remoteAccess (p : Pkt)
  | nackRetry (acc : Nat)
  -- the Miraux fabric
  | transportReceive (p : Pkt)
  | transportAck (peer cls : Nat) (seq : Nat × Nat)
  | retransmit (peer cls seq : Nat)
  | slothdr (fibre : Nat) (h : Option SlotHdr)
  | flitReceive (fibre : Nat) (f : Flit)
  | linkctl (fibre seq : Nat)
  | relayForward (p : Pkt)
  | poison (fibre : Nat)
  | parkWake (fibre : Nat) (wake : Bool)
  | ringTune (port w : Nat) (up : Bool)
  | rekey (key : Nat × Nat) (peer : List Byte × List Byte)
  | keystop (peer fibre : Nat)
  | linkTraining (n slotNs epoch : Nat) (phases : List Nat) (ends : List Bool × List (List Byte × List Byte))
  | healthWrite (port w : Nat)
  -- residual flows
  | flowBlockSend (flow block slot : Nat)
  | flowBlockReceive (p : Pkt)
  | flowAck (flow block slot gen : Nat)
  | resyncRequest (flow block slot : Nat)
  | flowTimeout (flow block : Nat)
  | multicastAck (flow block slot gen : Nat)
  -- queues and teams
  | kick (q : Nat) (w : DWord)
  | abortQueue (q : Nat)
  | suspend (q : Nat) (on : Bool)
  | packetClaim (core q : Nat)
  | launch (q seq : Nat) (body : List Byte)
  | wait (q seq : Nat) (body : List Byte)
  | set (q seq : Nat) (body : List Byte)
  | migrate (q seq : Nat) (body : List Byte)
  | flow (q seq : Nat) (body : List Byte)
  | packetComplete (q seq status errSeq : Nat)
  | teamTicket (core grid : Nat)
  | clusterReserve (core grid : Nat)
  | clusterRetry (core grid : Nat)
  | spillMove (grid : Nat)
  | teamRetire (team : Nat)
  | preemptionRequest (core : Nat)
  | contextSwitch (team : Nat)
  | recordComplete (rec : Nat)
  | resume (core rec : Nat)
  -- the Kiln
  | kilnEligible (req : Nat)
  | kilnFire (chamber : Nat)
  | kilnOutput (req lane : Nat)
  -- module
  | boot (header body signature : List Byte) (windows : List (Nat × Nat))
  | warmStart (spared : List (Nat × Nat))
  | backgroundZero (pa : Nat)
  | powerClamp (die watts junction : Nat)
  | cxlMemAccess (pa : Nat) (data : Option (List Byte))
  | kernelBoundary (grid : Nat)
  | geyserEnable (v : DWord)
  | trialEnable (v : DWord)
  | replayEnable (v : DWord)
  | checkpoint (grid : Nat)
  | journalEntry (asid va pa : Nat)
  | registerWrite (blk : RegBlock) (off : Nat) (v : DWord) (agent : Bool)
  | queueCreate (q : Nat) (desc : List Byte)
  | spdmRequest (r : SpdmReq) (arg : Nat)
  | ffenceFlagStore (op : Nat)
  | pageRetire (pa : Nat)
  -- events that take everything of their kind that is due
  | groupSelect | yieldExpiry | spinSwap | sweeperStep | ownerCacheExpiry | keepWaiting | responseTimeout | slotBoundary | slotEnd
  | reassemblyTimeout | waitRecheck | coreHalted | watchdog | coldStart | geyserSample | trialQuantum | stop
  deriving DecidableEq, Repr

end Sys2Proof
end

