-- ==== Sys2Proof/WellFormed.lean ====
section
/-! DEFINITION. Which operands each instruction accepts: register files and alignment (R51), modifiers (R55), types (R57), sizes (R58, R59), and every unused field zero (R282). What is not well-formed raises ILLEGAL (R68). -/

namespace Sys2Proof

/-- The types of 64 bits, which occupy an even pair (R57). -/
def Ty.wide : Ty → Bool
  | .s64 | .z64 | .f64 | .f32x2 => true
  | _ => false

def Ty.ints : List Ty := [.s8, .s16, .s32, .s64, .z8, .z16, .z32, .z64]
def Ty.words : List Ty := [.s32, .s64, .z32, .z64]
def Ty.floats : List Ty := [.f16, .bf16, .f32, .f64, .bf16x2, .f16x2]
def Ty.floats1 : List Ty := [.f16, .bf16, .f32, .f64]
def Ty.fatom : List Ty := [.bf16, .f32, .f64, .bf16x2, .f32x2]

/-- What a register field of a vector-class instruction names (R51, R52). -/
inductive Kind where
  /-- the field must be zero -/
  | none
  /-- a vector register of the type's width -/
  | vt
  /-- one 32-bit vector register -/
  | v1
  /-- an even vector pair -/
  | v2
  /-- a predicate -/
  | pred
  /-- a scalar register -/
  | scal
  /-- a scalar register, read by a handle-free move -/
  | hand
  /-- a special register number that SRD accepts -/
  | spr
  deriving DecidableEq, Repr

/-- The special register numbers of R88. -/
def sprKnown (n : Nat) : Bool := n ≤ 0x00A || n = 0x010 || n = 0x011 || n = 0x012 || n = 0x020 || n = 0x021

/-- The special registers that SWR accepts; a write to any other raises ILLEGAL (R88). -/
def sprWritable (n : Nat) : Bool := n = 0x010 || n = 0x020 || n = 0x021

/-- Is number n a legal operand of this kind for type ty? -/
def Kind.numOk (k : Kind) (ty : Ty) (n : Nat) : Bool :=
  match k with
  | .none => n = 0
  | .vt => !ty.wide || n % 2 = 0
  | .v1 => true
  | .v2 => n % 2 = 0
  | .pred => n < 16
  | .scal => n < 256
  | .hand => n < 16
  | .spr => sprKnown n

/-- May the field name a latch at all (R52)? -/
def Kind.latchOk : Kind → Bool
  | .vt | .v1 | .v2 => true
  | _ => false

def Kind.srcOk (k : Kind) (ty : Ty) : Src → Bool
  | .reg n => k.numOk ty n.toNat
  | .latch _ => k.latchOk

def Kind.dstOk (k : Kind) (ty : Ty) : Dst → Bool
  | .reg n => k.numOk ty n.toNat
  | .nw => true

/-- The compare codes an op accepts: none (the field is zero), the integer codes 0 to 5, or all (R56). -/
inductive CmpUse where
  | zero | int | all
  deriving DecidableEq, Repr

def CmpUse.ok (u : CmpUse) (c : Cmp) : Bool :=
  match u with
  | .zero => c = .eq
  | .int => c ∈ [Cmp.eq, .ne, .lt, .le, .gt, .ge]
  | .all => true

/-- What one vector-class op accepts (R306, the entries of the reference). -/
structure VSpec where
  d : Kind := .vt
  a : Kind := .vt
  b : Kind := .none
  c : Kind := .none
  tys : List Ty
  rnd : Bool := false
  sat : Bool := false
  modA : Bool := false
  modB : Bool := false
  cmp : CmpUse := .zero
  op8 : BitVec 8 → Bool := fun o => o = 0

def VSpec.ok (p : VSpec) (x : VArgs) : Bool :=
  p.d.dstOk x.ty x.d && p.a.srcOk x.ty x.a && p.b.srcOk x.ty x.b && p.c.srcOk x.ty x.c &&
  x.ty ∈ p.tys && (p.rnd || x.rnd = .rne) && (p.sat || !x.sat) &&
  (p.modA || (!x.negA && !x.absA)) && (p.modB || (!x.negB && !x.absB)) && p.cmp.ok x.cmp && p.op8 x.op8

def VSpec.okI (p : VSpec) (x : VImm) : Bool :=
  p.d.dstOk x.ty x.d && p.a.srcOk x.ty x.a &&
  x.ty ∈ p.tys && (p.rnd || x.rnd = .rne) && (p.sat || !x.sat) &&
  (p.modA || (!x.negA && !x.absA)) && (p.modB || (!x.negB && !x.absB)) && p.cmp.ok x.cmp && p.op8 x.op8

namespace VSpec
def intArith : VSpec := { b := .vt, tys := Ty.ints, sat := true, modA := true, modB := true }
def intNoSat : VSpec := { b := .vt, tys := Ty.ints, modA := true, modB := true }
def intMad : VSpec := { b := .vt, c := .vt, tys := Ty.ints, sat := true, modA := true, modB := true }
def intUnary : VSpec := { tys := Ty.ints, sat := true }
def intSetp : VSpec := { d := .pred, b := .vt, tys := Ty.ints, modA := true, modB := true, cmp := .int }
def leaR : VSpec := { d := .v2, a := .v2, b := .v1, tys := [.s32, .z32], op8 := fun o => o.toNat < 8 }
def leaIm : VSpec := { d := .v2, a := .v2, tys := [.s32], op8 := fun o => o.toNat < 8 }
def logic : VSpec := { b := .vt, tys := Ty.ints }
def logicNot : VSpec := { tys := Ty.ints }
def shift : VSpec := { b := .v1, tys := Ty.ints }
def count : VSpec := { d := .v1, tys := Ty.words }
def reverse : VSpec := { tys := Ty.words }
def field : VSpec := { b := .v1, tys := Ty.words }
def insert : VSpec := { b := .v1, c := .vt, tys := Ty.words }
def select : VSpec := { b := .vt, tys := Ty.ints, op8 := fun o => o.toNat < 32 }
def permute : VSpec := { d := .v1, a := .v1, b := .v1, c := .v1, tys := [.s32, .z32], op8 := fun o => o.toNat < 2 }
def float2 : VSpec := { b := .vt, tys := Ty.floats, rnd := true, sat := true, modA := true, modB := true }
def float3 : VSpec := { b := .vt, c := .vt, tys := Ty.floats, rnd := true, sat := true, modA := true, modB := true, op8 := fun o => o.toNat < 2 }
def floatMin : VSpec := { b := .vt, tys := Ty.floats, modA := true, modB := true }
def floatSetp : VSpec := { d := .pred, b := .vt, tys := Ty.floats1, modA := true, modB := true, cmp := .all }
def floatClass : VSpec := { d := .v1, tys := Ty.floats1 }
def floatRound : VSpec := { tys := Ty.floats, rnd := true, modA := true }
def floatSqrt : VSpec := { tys := Ty.floats1, rnd := true, modA := true }
def function : VSpec := { tys := [.f16, .bf16, .f32], sat := true, modA := true }
def moveV : VSpec := { tys := Ty.words }
def moveH : VSpec := { a := .hand, tys := [.z32], op8 := fun o => o = 1 }
def moveS : VSpec := { a := .scal, tys := Ty.words }
def moveI : VSpec := { a := .none, tys := Ty.words }
def getSpr : VSpec := { a := .spr, tys := [.z32, .z64] }
def shuffle : VSpec := { b := .v1, tys := Ty.words, op8 := fun o => o.toNat < 4 || o.toNat = 5 || o.toNat = 6 }
def voteP : VSpec := { d := .pred, a := .pred, tys := [.z32], op8 := fun o => o.toNat < 3 }
def voteM : VSpec := { d := .v1, a := .pred, tys := [.z32], op8 := fun o => o.toNat = 3 || o.toNat = 7 }
def reduce : VSpec := { tys := Ty.ints ++ Ty.floats, op8 := fun o => o.toNat < 3 }
def setBit : VSpec := { d := .pred, a := .v1, tys := [.z32], op8 := fun o => o.toNat < 32 }
def lookup : VSpec := { d := .pred, a := .pred, b := .pred, c := .pred, tys := [.z32], op8 := fun _ => true }
end VSpec

/-- The format codes of FCVT (R162). -/
inductive Fmt where
  | int (ty : Ty) | flt (ty : Ty) | e4m3 | e5m2 | e2m1 | e8m0
  deriving DecidableEq, Repr

def fmtOf (n : Nat) : Fmt :=
  match n with
  | 0 => .int .s8 | 1 => .int .s16 | 2 => .int .s32 | 3 => .int .s64
  | 4 => .int .z8 | 5 => .int .z16 | 6 => .int .z32 | 7 => .int .z64
  | 8 => .flt .f16 | 9 => .flt .bf16 | 10 => .flt .f32 | 11 => .flt .f64
  | 12 => .e4m3 | 13 => .e5m2 | 14 => .e2m1 | _ => .e8m0

def Fmt.isInt : Fmt → Bool
  | .int _ => true
  | _ => false
def Fmt.narrow : Fmt → Bool
  | .e4m3 | .e5m2 | .e2m1 | .e8m0 => true
  | _ => false
/-- The type whose width a format's register takes. -/
def Fmt.regTy : Fmt → Ty
  | .int t | .flt t => t
  | _ => .s8

def cvtDst (x : VArgs) : Fmt := fmtOf (x.op8.toNat / 16)
def cvtSrc (x : VArgs) : Fmt := fmtOf (x.op8.toNat % 16)

/-- FCVT's legal forms (R162, R313). -/
def cvtOk (x : VArgs) : Bool :=
  let d := cvtDst x
  let s := cvtSrc x
  Kind.vt.dstOk d.regTy x.d && Kind.vt.srcOk s.regTy x.a && x.b = .reg 0 && x.c = .reg 0 &&
  x.ty = .s8 && x.cmp = .eq && !x.negB && !x.absB &&
  !(d.isInt && s.narrow) && !(s.isInt && d.narrow) &&
  (!(s.isInt || s = .e8m0) || (!x.negA && !x.absA))

/-- Registers of a memory access: 1, 2, 4 or 8 (R58). -/
def countOf (c : BitVec 2) : Nat := 2 ^ c.toNat

/-- The legal size and count combinations (R58). -/
def sizeOk (size : BitVec 3) (count : BitVec 2) : Bool :=
  match size.toNat with
  | 0 | 1 => count = 0
  | 2 => true
  | 3 => count ≠ 0
  | 4 => count = 2 || count = 3
  | _ => false

/-- The alignment that a run of 1, 2, 4 or 8 registers needs (R341). -/
def runOk (n : BitVec 11) (count : BitVec 2) : Bool :=
  match count.toNat with
  | 0 => true
  | 1 => n.toNat % 2 = 0
  | _ => n.toNat % 4 = 0

def baseOk (a : BitVec 11) (sbase : Bool) : Bool := if sbase then a.toNat < 256 else a.toNat % 2 = 0

namespace MemArgs
def ldOk (x : MemArgs) : Bool := sizeOk x.size x.count && baseOk x.a x.sbase && x.b.toNat < 256 && runOk x.d x.count && x.c = 0
def stOk (x : MemArgs) : Bool := sizeOk x.size x.count && baseOk x.a x.sbase && x.b.toNat < 256 && runOk x.c x.count && x.d = 0
def prefOk (x : MemArgs) : Bool := sizeOk x.size x.count && baseOk x.a x.sbase && x.b.toNat < 256 && x.c = 0 && x.d = 0
def sclSize (x : MemArgs) : Bool := x.sbase && x.a.toNat < 256 && x.b.toNat < 256 && ((x.size.toNat < 3 && x.count = 0) || (x.size = 3 && x.count = 1))
def sldOk (x : MemArgs) : Bool := x.sclSize && x.d.toNat < 256 && x.c = 0
def sstOk (x : MemArgs) : Bool := x.sclSize && x.c.toNat < 256 && x.d = 0
def lineOk (x : MemArgs) : Bool := x.size = 2 && x.count = 0 && !x.sbase && x.a.toNat % 2 = 0 && x.b.toNat < 256
def ldlnOk (x : MemArgs) : Bool := x.lineOk && x.c = 0
def stlnOk (x : MemArgs) : Bool := x.lineOk && x.d = 0
end MemArgs

namespace AcqArgs
def baseFine (x : AcqArgs) : Bool := baseOk x.a x.sbase && x.b.toNat < 256
def ldaqOk (x : AcqArgs) : Bool := x.baseFine && (!x.b64 || x.d.toNat % 2 = 0) && x.c = 0
def strlOk (x : AcqArgs) : Bool := x.baseFine && (!x.b64 || x.c.toNat % 2 = 0) && x.d = 0
end AcqArgs

namespace AtomArgs
def regOk (x : AtomArgs) (n : BitVec 11) : Bool :=
  if x.wide then n.toNat % 4 = 0 else !x.ty.wide || n.toNat % 2 = 0
def common (x : AtomArgs) : Bool := x.a.toNat % 2 = 0 && x.regOk x.b && x.regOk x.d && (!x.nr || x.d = 0)
/-- AADD, AMIN, AMAX, AAND, AOR, AXOR (R148, R283). -/
def intOk (x : AtomArgs) : Bool := x.common && x.ty ∈ Ty.words && !x.wide && x.c = 0
def xchOk (x : AtomArgs) : Bool := x.intOk && !x.nr
/-- ACAS (R288). -/
def casOk (x : AtomArgs) : Bool :=
  x.common && x.ty ∈ Ty.words && !x.nr && x.regOk x.c && (!x.wide || x.ty = .s64 || x.ty = .z64)
/-- AFADD, AFMIN, AFMAX (R289). -/
def fltOk (x : AtomArgs) : Bool := x.common && x.ty ∈ Ty.fatom && !x.wide && x.c = 0
end AtomArgs

namespace SclArgs
def bin (x : SclArgs) : Bool := x.d.toNat < 256 && x.a.toNat < 256 && x.b.toNat < 256 && x.ty ∈ Ty.words && x.cmp = .eq
def mov (x : SclArgs) : Bool := x.bin && x.b = 0
def setp (x : SclArgs) : Bool := x.d.toNat < 16 && x.a.toNat < 256 && x.b.toNat < 256 && x.ty ∈ Ty.words && CmpUse.int.ok x.cmp
end SclArgs

namespace SclImm
def bin (x : SclImm) : Bool := x.d.toNat < 256 && x.a.toNat < 256 && x.ty ∈ Ty.words
def movi (x : SclImm) : Bool := x.bin && x.a = 0
end SclImm

namespace BraArgs
def plain (x : BraArgs) : Bool := x.slot.toNat < 5 && x.d = 0 && x.depth = 0
def callOk (x : BraArgs) : Bool := x.slot.toNat < 5 && x.d.toNat % 2 = 0 && x.depth = 0
def brkOk (x : BraArgs) : Bool := x.slot.toNat < 5 && x.d = 0 && x.depth ≠ 0
end BraArgs

def KpassArgs.ok (x : KpassArgs) : Bool := x.b.toNat % 2 = 0 && x.dst.toNat % 2 = 0
def PrivArgs.ok (x : PrivArgs) : Bool := x.a.toNat < 256 && x.b.toNat < 256

/-- A packet that the fabric can carry (R203). -/
def Pkt.ok (p : Pkt) : Bool := p.src < 256 && p.dst < 256 && p.cls < 3 && p.asid < 65536

namespace Instr
open VSpec

/-- The operands that the spec's encodings admit; for an event, the ranges of what it names. DESIGN CHOICE (log 125): in FFMA's I-form, which has no C, the bit that negates C in the register form (M[88], R54, R306, R308) must be zero. -/
def wf : Instr → Bool
  | .nop _ | .exit _ | .rjoin _ | .yield _ => true
  | .bra x | .rcv x => x.plain
  | .brx x | .ret x => x.a.toNat % 2 = 0
  | .call x => x.callOk
  | .brk x => x.brkOk
  | .trap _ | .bkpt _ | .prog _ => true
  | .rtrap x | .lnch x | .prem x => x.ok
  | .iadd x | .isub x | .imul x => intArith.ok x
  | .iaddI x | .isubI x | .imulI x => intArith.okI x
  | .imulh x | .imin x | .imax x => intNoSat.ok x
  | .iminI x | .imaxI x => intNoSat.okI x
  | .imad x => intMad.ok x
  | .iabs x | .ineg x => intUnary.ok x
  | .isetp x => intSetp.ok x
  | .isetpI x => intSetp.okI x
  | .lea x => leaR.ok x
  | .leaI x => leaIm.okI x
  | .and x | .or x | .xor x => logic.ok x
  | .andI x | .orI x | .xorI x => logic.okI x
  | .not x => logicNot.ok x
  | .shl x | .shr x | .sar x => shift.ok x
  | .shlI x | .shrI x | .sarI x => shift.okI x
  | .popc x | .clz x => count.ok x
  | .brev x => reverse.ok x
  | .bfx x => field.ok x
  | .bfi x => insert.ok x
  | .sel x => select.ok x
  | .prmt x => permute.ok x
  | .fadd x | .fsub x | .fmul x => float2.ok x
  | .faddI x | .fmulI x => float2.okI x
  | .ffma x => float3.ok x
  | .ffmaI x => float2.okI x && x.d ≠ .nw
  | .fmin x | .fmax x => floatMin.ok x
  | .fsetp x => floatSetp.ok x
  | .fsetpI x => floatSetp.okI x
  | .fclass x => floatClass.ok x
  | .fcvt x => cvtOk x
  | .frnd x => floatRound.ok x
  | .fsqrt x => floatSqrt.ok x
  | .frcp x | .frsq x | .fexp2 x | .flog2 x | .fsin x | .fcos x => function.ok x
  | .mov x => moveV.ok x
  | .movH x => moveH.ok x
  | .movi x => moveI.okI x
  | .movs x => moveS.ok x
  | .sget x => getSpr.ok x
  | .shfl x => shuffle.ok x
  | .vote x => voteP.ok x || voteM.ok x
  | .redux x => reduce.ok x
  | .pset x => setBit.ok x
  | .plop x => lookup.ok x
  | .sadd x | .ssub x | .smul x | .sand x | .sor x | .sxor x | .sshl x | .sshr x => x.bin
  | .saddI x | .ssubI x | .smulI x | .sandI x | .sorI x | .sxorI x | .sshlI x | .sshrI x => x.bin
  | .smov x => x.mov
  | .smovi x => x.movi
  | .ssetp x => x.setp
  | .srd x => x.s.toNat < 256 && sprKnown x.num.toNat
  | .swr x => x.s.toNat < 256 && sprWritable x.num.toNat
  | .clk x => x.s.toNat < 256 && x.num = 0
  | .ld x => x.ldOk
  | .st x => x.stOk
  | .ldaq x => x.ldaqOk
  | .strl x => x.strlOk
  | .ldln x => x.ldlnOk
  | .stln x => x.stlnOk
  | .pref x => x.prefOk
  | .sld x => x.sldOk
  | .sst x => x.sstOk
  | .fence _ | .waitc _ => true
  | .aadd x | .amin x | .amax x | .aand x | .aor x | .axor x => x.intOk
  | .axch x => x.xchOk
  | .acas x => x.casOk
  | .afadd x | .afmin x | .afmax x => x.fltOk
  | .bar _ | .bara _ | .barw _ | .ordw _ | .ords _ => true
  | .cbar x => x.id.toNat < 4
  | .grow x => x.d.toNat < 256 && x.a.toNat < 256
  | .qpush x => x.a.toNat % 2 = 0 && x.b.toNat < 256
  | .cpy x => x.a.toNat % 2 = 0 && x.b.toNat % 2 = 0
  | .cpyh x => x.a.toNat % 2 = 0 && x.b.toNat % 2 = 0 && x.c.toNat % 4 = 0
  | .htst _ | .hmov _ => true
  | .hcan x => x.d = 0
  | .kpackA _ => true
  | .kpackB x => x.d.toNat % 4 = 0
  | .kpass x => x.ok
  | .kwin x => x.ok && !x.conv
  | .kext x => x.a.toNat % 2 = 0
  | .kstab x => x.a.toNat % 2 = 0
  | .fsend x => x.a.toNat % 2 = 0 && x.b.toNat < 255
  | .ffence x => x.a.toNat % 2 = 0
  | .fsync _ => true
  | .pmig x => x.a.toNat % 2 = 0
  | .lineFetch c asid _ _ => c < 576 && asid ≤ 65536
  | .faultService c asid _ | .tableWalk c asid _ => c < 576 && asid ≤ 65536
  | .homeRead c _ _ => c < 576
  | .preemptionRequest c => c < 576
  | .packetClaim c q => c < 576 && q < 4096
  | .teamTicket c _ | .clusterReserve c _ | .clusterRetry c _ | .resume c _ => c < 576
  | .stubRelay p | .remoteAccess p | .transportReceive p | .relayForward p | .flowBlockReceive p => p.ok
  | .transportAck p c _ | .retransmit p c _ => p < 256 && c < 3
  | .slothdr f _ | .flitReceive f _ | .linkctl f _ | .poison f | .parkWake f _ => f < 64
  | .ringTune p w _ | .healthWrite p w => p < 128 && w < 64
  | .rekey k _ => k.1 < 512 && k.2 < 64
  | .keystop p f => p < 256 && f < 64
  | .boot h _ g w => h.length = 64 && g.length = 114 && w.length ≤ 16
  | .linkTraining n s _ ph e => 2 ≤ n && n ≤ 256 && 2000 ≤ s && s ≤ 20000 && ph.length = 64 && e.1.length = 64
  | .kick q _ | .abortQueue q | .suspend q _ | .queueCreate q _ => q < 4096
  | .launch q _ b | .wait q _ b | .set q _ b | .migrate q _ b | .flow q _ b => q < 4096 && b.length = 128
  | .powerClamp d _ _ => d < Config.dies
  | .frameEvict a _ _ _ _ => a < 65536
  | _ => true

/-- Is this row an instruction form, which has an encoding (R67), rather than an event? -/
def encoded : Instr → Bool
  | .groupSelect | .lineFetch .. | .barstall .. | .yieldExpiry | .spinSwap | .frontierRetire .. | .trapTaken ..
  | .loadReturn .. | .storePerformed .. | .homeRead .. | .homeAtomic .. | .atomicResponse .. | .sliceEvictWait ..
  | .operandLogReplay .. | .faultService .. | .tableWalk .. | .invalidate .. | .sweeperStep | .frameEvict ..
  | .copyLineWrite .. | .copyComplete .. | .ownerCacheQuery .. | .ownerCacheExpiry | .redirect .. | .pendingDrain ..
  | .stubRelay .. | .stale .. | .migrateGrant .. | .migrateCopy .. | .switchover .. | .install .. | .done .. | .repoint ..
  | .abort .. | .reclaim .. | .reclaimOk .. | .remoteAccess .. | .keepWaiting | .responseTimeout | .nackRetry ..
  | .transportReceive .. | .transportAck .. | .retransmit .. | .slotBoundary | .slothdr .. | .flitReceive .. | .linkctl ..
  | .slotEnd | .relayForward .. | .poison .. | .parkWake .. | .ringTune .. | .rekey .. | .keystop .. | .linkTraining ..
  | .healthWrite .. | .flowBlockSend .. | .flowBlockReceive .. | .flowAck .. | .resyncRequest .. | .flowTimeout ..
  | .reassemblyTimeout | .multicastAck .. | .kick .. | .abortQueue .. | .suspend .. | .packetClaim .. | .launch ..
  | .wait .. | .waitRecheck | .set .. | .migrate .. | .flow .. | .packetComplete .. | .teamTicket .. | .clusterReserve ..
  | .clusterRetry .. | .spillMove .. | .teamRetire .. | .preemptionRequest .. | .coreHalted | .contextSwitch ..
  | .recordComplete .. | .resume .. | .kilnEligible .. | .kilnFire .. | .kilnOutput .. | .watchdog | .boot .. | .coldStart
  | .warmStart .. | .backgroundZero .. | .powerClamp .. | .cxlMemAccess .. | .kernelBoundary .. | .geyserEnable .. | .geyserSample
  | .trialEnable .. | .trialQuantum | .replayEnable .. | .checkpoint .. | .journalEntry .. | .stop | .registerWrite ..
  | .queueCreate .. | .spdmRequest .. | .ffenceFlagStore .. | .pageRetire .. => false
  | _ => true

end Instr

/-- A register number of the vector file that the instruction names, for the REGRANGE check: base and count (R51, R28). -/
abbrev Run := Nat × Nat

def srcRun (k : Kind) (ty : Ty) : Src → List Run
  | .latch _ => []
  | .reg n => match k with
    | .vt => [(n.toNat, if ty.wide then 2 else 1)]
    | .v1 => [(n.toNat, 1)]
    | .v2 => [(n.toNat, 2)]
    | _ => []

def dstRun (k : Kind) (ty : Ty) : Dst → List Run
  | .nw => []
  | .reg n => srcRun k ty (.reg n)

def VSpec.runs (p : VSpec) (x : VArgs) : List Run :=
  dstRun p.d x.ty x.d ++ srcRun p.a x.ty x.a ++ srcRun p.b x.ty x.b ++ srcRun p.c x.ty x.c

def VSpec.runsI (p : VSpec) (x : VImm) : List Run := dstRun p.d x.ty x.d ++ srcRun p.a x.ty x.a

end Sys2Proof
end

