-- ==== Sys2Proof/Machine/Flags.lean ====
section
/-! DEFINITION. The sticky flags of STATUS (R89), and integer values with their ranges and saturation (R307, R333). -/

namespace Sys2Proof

/-- Width in bits of a value of the type (R57). -/
def Ty.bits : Ty → Nat
  | .s8 | .z8 => 8
  | .s16 | .z16 | .f16 | .bf16 => 16
  | .s32 | .z32 | .f32 | .bf16x2 | .f16x2 => 32
  | .s64 | .z64 | .f64 | .f32x2 => 64

def Ty.signed : Ty → Bool
  | .s8 | .s16 | .s32 | .s64 => true
  | _ => false

end Sys2Proof

namespace Sys2Proof.Machine

namespace Flag
/-- An integer `.sat` result was clamped. -/
def isat : DWord := 1
/-- A floating result overflowed. -/
def fsat : DWord := 2
/-- A NaN came from operands without a NaN. -/
def inv : DWord := 4
/-- A block scale was clamped to code 0x00. -/
def sclamp : DWord := 8
/-- A block scale exceeded code 0xFE. -/
def ssat : DWord := 16
/-- A Kiln I32 output saturated. -/
def ksat : DWord := 32
/-- The bits of STATUS that SWR writes (R89). -/
def all : DWord := 63
end Flag

/-- Flags of a condition. -/
def flagIf (b : Bool) (f : DWord) : DWord := if b then f else 0

/-- The low 32 bits, zero-extended. -/
def low32 (x : DWord) : DWord := (x.setWidth 32).setWidth 64
/-- The low n bits of a value as a number. -/
def lowNat (n : Nat) (x : DWord) : Nat := x.toNat % 2 ^ n
/-- A number of n bits read as two's complement. -/
def toSigned (n x : Nat) : Int := if x < 2 ^ (n - 1) then (x : Int) else (x : Int) - (2 ^ n : Nat)
/-- The exact value of an integer operand (R307). -/
def intVal (ty : Ty) (x : DWord) : Int := if ty.signed then toSigned ty.bits (lowNat ty.bits x) else (lowNat ty.bits x : Int)
/-- Absolute, then negate (R307). -/
def intMod (abs neg : Bool) (z : Int) : Int :=
  let a := if abs then (z.natAbs : Int) else z
  if neg then -a else a
/-- An integer modulo 2^n. -/
def wrapNat (n : Nat) (z : Int) : Nat := (z % (2 ^ n : Nat)).toNat
/-- A result of the type as its register holds it: 8 and 16 bits are extended to 32 by the type's signedness (R57). -/
def putInt (ty : Ty) (z : Int) : DWord :=
  let w := wrapNat ty.bits z
  if ty.bits < 32 then BitVec.ofNat 64 (if ty.signed then wrapNat 32 (toSigned ty.bits w) else w) else BitVec.ofNat 64 w
def intLo (ty : Ty) : Int := if ty.signed then -((2 ^ (ty.bits - 1) : Nat) : Int) else 0
def intHi (ty : Ty) : Int := if ty.signed then (2 ^ (ty.bits - 1) : Nat) - 1 else (2 ^ ty.bits : Nat) - 1
def clampInt (lo hi z : Int) : Int := if z < lo then lo else if hi < z then hi else z
/-- A vector value as its register holds it, and the flags it raises. -/
abbrev LaneOut := DWord × DWord
/-- The write-back of R333: clamp and ISAT with Saturate, wrap without. -/
def intOut (ty : Ty) (sat : Bool) (z : Int) : LaneOut :=
  if sat then
    let r := clampInt (intLo ty) (intHi ty) z
    (putInt ty r, flagIf (r ≠ z) Flag.isat)
  else (putInt ty z, 0)

/-- Codes 0 to 5 of R56 on exact values. -/
def cmpInt (c : Cmp) (a b : Int) : Bool :=
  match c with
  | .eq => a = b
  | .ne => a ≠ b
  | .lt => a < b
  | .le => a ≤ b
  | .gt => a > b
  | .ge => a ≥ b
  | _ => false

end Sys2Proof.Machine
end

