-- ==== Sys2Proof/Machine/Float.lean ====
section
/-! DEFINITION. Floating formats, exact values, the one rounding of each instruction, and the operations of R156 to R169. -/

namespace Sys2Proof.Machine

/-- The special codes of a format (R156). -/
inductive Special where
  | ieee | e4m3 | e2m1
  deriving DecidableEq, Repr

/-- A floating format: exponent and fraction widths, bias, special codes (R156). -/
structure FloatFmt where
  eb : Nat
  fb : Nat
  bias : Nat
  special : Special
  deriving DecidableEq, Repr

namespace FloatFmt
def fp64 : FloatFmt := ⟨11, 52, 1023, .ieee⟩
def fp32 : FloatFmt := ⟨8, 23, 127, .ieee⟩
def fp16 : FloatFmt := ⟨5, 10, 15, .ieee⟩
def bf16 : FloatFmt := ⟨8, 7, 127, .ieee⟩
def e4m3 : FloatFmt := ⟨4, 3, 7, .e4m3⟩
def e5m2 : FloatFmt := ⟨5, 2, 15, .ieee⟩
def e2m1 : FloatFmt := ⟨2, 1, 1, .e2m1⟩

variable (f : FloatFmt)
/-- Bits below the sign. -/
def mag : Nat := f.eb + f.fb
/-- Exponent of a subnormal's last place. -/
def minUlp : Int := 1 - (f.bias : Int) - f.fb
/-- Code of the largest finite magnitude. -/
def maxCode : Nat :=
  match f.special with
  | .ieee => (2 ^ f.eb - 1) * 2 ^ f.fb - 1
  | .e4m3 => 0x7E
  | .e2m1 => 7
/-- The canonical NaN; E2M1 has none and takes +0 (R156, R163). -/
def nan : Nat :=
  match f.special with
  | .ieee => (2 ^ f.eb - 1) * 2 ^ f.fb + 2 ^ (f.fb - 1)
  | .e4m3 => 0x7F
  | .e2m1 => 0
def infCode : Nat := (2 ^ f.eb - 1) * 2 ^ f.fb
def withSign (neg : Bool) (code : Nat) : Nat := if neg then 2 ^ f.mag + code else code
end FloatFmt

end Sys2Proof.Machine

namespace Sys2Proof

/-- The format of a type's element: of one half, for the packed types. -/
def Ty.fmt : Ty → Machine.FloatFmt
  | .f16 | .f16x2 => .fp16
  | .bf16 | .bf16x2 => .bf16
  | .f64 => .fp64
  | _ => .fp32

end Sys2Proof

namespace Sys2Proof.Machine

/-- An exact floating value: ± mant · 2^exp, an infinity, or a NaN. -/
inductive FVal where
  | nan
  | inf (neg : Bool)
  | fin (neg : Bool) (mant : Nat) (exp : Int)
  deriving DecidableEq, Repr

namespace FVal
def isNan : FVal → Bool
  | .nan => true
  | _ => false
def isInf : FVal → Bool
  | .inf _ => true
  | _ => false
def isZero : FVal → Bool
  | .fin _ m _ => m = 0
  | _ => false
def neg : FVal → Bool
  | .nan => false
  | .inf n => n
  | .fin n _ _ => n
/-- Absolute, then negate: the sign alone changes (R161). -/
def modify (abs negate : Bool) : FVal → FVal
  | .nan => .nan
  | .inf n => .inf ((n && !abs) != negate)
  | .fin n m e => .fin ((n && !abs) != negate) m e
end FVal

/-- The value of a code (R156). -/
def decodeFloat (f : FloatFmt) (x : Nat) : FVal :=
  let neg := x / 2 ^ f.mag % 2 = 1
  let c := x % 2 ^ f.mag
  let e := c / 2 ^ f.fb
  let m := c % 2 ^ f.fb
  if f.special = .ieee && e = 2 ^ f.eb - 1 then (if m = 0 then .inf neg else .nan)
  else if f.special = .e4m3 && c = 0x7F then .nan
  else if e = 0 then .fin neg m f.minUlp
  else .fin neg (2 ^ f.fb + m) (f.minUlp + (e - 1 : Nat))

/-- Round m · 2^(−sh) to an integer in the mode; `neg` is the sign of the value (R159). -/
def roundShift (r : Rnd) (neg : Bool) (m sh : Nat) : Nat :=
  let q := m / 2 ^ sh
  let rem := m % 2 ^ sh
  let up := match r with
    | .rne => decide (2 ^ sh < 2 * rem) || (decide (2 * rem = 2 ^ sh) && decide (q % 2 = 1))
    | .rz => false
    | .rup => !neg && decide (rem ≠ 0)
    | .rdn => neg && decide (rem ≠ 0)
  if up then q + 1 else q

/-- m · 2^e rounded to an integer magnitude. -/
def roundToInt (r : Rnd) (neg : Bool) (m : Nat) (e : Int) : Nat :=
  if 0 ≤ e then m * 2 ^ e.toNat else roundShift r neg m (-e).toNat

/-- Exponent of the leading bit of a nonzero m · 2^e. -/
def topExp (m : Nat) (e : Int) : Int := e + (Nat.log2 m : Int)

/-- An infinite result as the format and Saturate write it (R160). -/
def putInf (f : FloatFmt) (sat neg : Bool) : LaneOut :=
  match f.special with
  | .ieee => if sat then (BitVec.ofNat 64 (f.withSign neg f.maxCode), Flag.fsat) else (BitVec.ofNat 64 (f.withSign neg f.infCode), 0)
  | .e4m3 => if sat then (BitVec.ofNat 64 (f.withSign neg f.maxCode), Flag.fsat) else (BitVec.ofNat 64 f.nan, Flag.fsat)
  | .e2m1 => (BitVec.ofNat 64 (f.withSign neg f.maxCode), Flag.fsat)

/-- An overflowing result (R160). -/
def putOverflow (f : FloatFmt) (r : Rnd) (sat neg : Bool) : LaneOut :=
  let largest := BitVec.ofNat 64 (f.withSign neg f.maxCode)
  match f.special with
  | .ieee =>
    let toInf := match r with | .rne => true | .rz => false | .rup => !neg | .rdn => neg
    (if sat || !toInf then largest else BitVec.ofNat 64 (f.withSign neg f.infCode), Flag.fsat)
  | .e4m3 => (if sat then largest else BitVec.ofNat 64 f.nan, Flag.fsat)
  | .e2m1 => (largest, Flag.fsat)

/-- The one rounding of an exact finite value, with overflow (R159, R160). -/
def roundFin (f : FloatFmt) (r : Rnd) (sat neg : Bool) (m : Nat) (e : Int) : LaneOut :=
  if m = 0 then (BitVec.ofNat 64 (f.withSign neg 0), 0) else
  let top := topExp m e
  let ulp := max (top - f.fb) f.minUlp
  let q := if ulp ≤ e then m * 2 ^ (e - ulp).toNat else roundShift r neg m (ulp - e).toNat
  let code := (ulp - f.minUlp).toNat * 2 ^ f.fb + q
  if f.maxCode < code then putOverflow f r sat neg else (BitVec.ofNat 64 (f.withSign neg code), 0)

/-- Write a value in a format; `inv` marks a NaN of an invalid operation (R161). -/
def putFloat (f : FloatFmt) (r : Rnd) (sat : Bool) (v : FVal) (inv : Bool := false) : LaneOut :=
  match v with
  | .nan => (BitVec.ofNat 64 f.nan, flagIf inv Flag.inv ||| flagIf (f.special = .e2m1) Flag.fsat)
  | .inf n => putInf f sat n
  | .fin n m e => roundFin f r sat n m e

/-- A signed exact value. -/
def sgn (neg : Bool) (m : Nat) : Int := if neg then -(m : Int) else m

/-- The exact sum, with the sign of an exact zero (R161); the Bool is INV. -/
def addVal (r : Rnd) (a b : FVal) : FVal × Bool :=
  match a, b with
  | .nan, _ | _, .nan => (.nan, false)
  | .inf n, .inf n' => if n = n' then (.inf n, false) else (.nan, true)
  | .inf n, .fin .. => (.inf n, false)
  | .fin .., .inf n => (.inf n, false)
  | .fin n m e, .fin n' m' e' =>
    let lo := min e e'
    let z := sgn n m * (2 ^ (e - lo).toNat : Nat) + sgn n' m' * (2 ^ (e' - lo).toNat : Nat)
    if z = 0 then (.fin (if n = n' then n else decide (r = .rdn)) 0 0, false) else (.fin (z < 0) z.natAbs lo, false)

/-- The exact product. -/
def mulVal (a b : FVal) : FVal × Bool :=
  match a, b with
  | .nan, _ | _, .nan => (.nan, false)
  | .inf n, .inf n' => (.inf (n != n'), false)
  | .inf n, .fin n' m' _ => if m' = 0 then (.nan, true) else (.inf (n != n'), false)
  | .fin n m _, .inf n' => if m = 0 then (.nan, true) else (.inf (n != n'), false)
  | .fin n m e, .fin n' m' e' => (.fin (n != n') (m * m') (e + e'), false)

/-- The exact product-sum (R309). -/
def fmaVal (r : Rnd) (a b c : FVal) : FVal × Bool :=
  let p := mulVal a b
  if c.isNan then (.nan, false) else if p.1.isNan then p else addVal r p.1 c

/-- a < b on finite and infinite values, where −0 and +0 are equal. -/
def ltVal (a b : FVal) : Bool :=
  match a, b with
  | .nan, _ | _, .nan => false
  | .inf n, .inf n' => n && !n'
  | .inf n, .fin .. => n
  | .fin .., .inf n => !n
  | .fin n m e, .fin n' m' e' =>
    let lo := min e e'
    decide (sgn n m * (2 ^ (e - lo).toNat : Nat) < sgn n' m' * (2 ^ (e' - lo).toNat : Nat))

/-- R56 on floating values. -/
def cmpVal (c : Cmp) (a b : FVal) : Bool :=
  let un := a.isNan || b.isNan
  let lt := ltVal a b
  let gt := ltVal b a
  let eq := !un && !lt && !gt
  match c with
  | .eq => eq
  | .ne => !un && !eq
  | .lt => lt
  | .le => lt || eq
  | .gt => gt
  | .ge => gt || eq
  | .num => !un
  | .nan => un
  | .equ => eq || un
  | .neu => !eq
  | .ltu => lt || un
  | .leu => lt || eq || un
  | .gtu => gt || un
  | .geu => gt || eq || un

/-- minimumNumber (least) or maximumNumber of two codes with −0 < +0 (R149, R310): one NaN gives the other operand, two the canonical NaN. -/
def minMax (f : FloatFmt) (least : Bool) (x y : Nat) : Nat :=
  let a := decodeFloat f x
  let b := decodeFloat f y
  if a.isNan && b.isNan then f.nan else if a.isNan then y else if b.isNan then x else
  let first := if ltVal a b then true else if ltVal b a then false else (a.neg || !b.neg)
  if first = least then x else y

/-- A code with its sign changed by absolute and negate. -/
def modCode (f : FloatFmt) (abs neg : Bool) (x : Nat) : Nat :=
  let c := x % 2 ^ f.mag
  let s := x / 2 ^ f.mag % 2 = 1
  f.withSign (decide ((s && !abs) != neg)) c

/-- Apply an operation on the low half, or on both halves of a packed type. -/
def halves (ty : Ty) (k : Nat → LaneOut) : LaneOut :=
  match ty with
  | .bf16x2 | .f16x2 =>
    let lo := k 0
    let hi := k 1
    (BitVec.ofNat 64 (lo.1.toNat % 2 ^ 16 + 2 ^ 16 * (hi.1.toNat % 2 ^ 16)), lo.2 ||| hi.2)
  | .f32x2 =>
    let lo := k 0
    let hi := k 1
    (BitVec.ofNat 64 (lo.1.toNat % 2 ^ 32 + 2 ^ 32 * (hi.1.toNat % 2 ^ 32)), lo.2 ||| hi.2)
  | _ => k 0

/-- The k-th element of a register's value. -/
def elem (ty : Ty) (x : DWord) (k : Nat) : Nat :=
  let w := ty.fmt.mag + 1
  x.toNat / 2 ^ (w * k) % 2 ^ w

/-- The modified operand's k-th element. -/
def floatOperand (ty : Ty) (abs neg : Bool) (x : DWord) (k : Nat) : FVal := (decodeFloat ty.fmt (elem ty x k)).modify abs neg

def outOf (f : FloatFmt) (r : Rnd) (sat : Bool) (p : FVal × Bool) : LaneOut := putFloat f r sat p.1 p.2

/-- Integer square root by bits from the top. -/
def isqrtAux (n : Nat) : Nat → Nat → Nat
  | 0, r => r
  | k + 1, r => let t := r + 2 ^ k; isqrtAux n k (if t * t ≤ n then t else r)
def isqrt (n : Nat) : Nat := isqrtAux n (Nat.log2 n / 2 + 1) 0

/-- FSQRT (R161, R315): the root with three spare bits and a sticky bit, rounded once. -/
def sqrtOut (f : FloatFmt) (r : Rnd) (v : FVal) : LaneOut :=
  match v with
  | .nan => putFloat f r false .nan
  | .inf n => if n then putFloat f r false .nan true else putFloat f r false (.inf false)
  | .fin n m e =>
    if m = 0 then putFloat f r false (.fin n 0 0) else if n then putFloat f r false .nan true else
    let odd := e % 2 ≠ 0
    let m1 := (if odd then 2 * m else m) * 4 ^ (f.fb + 4)
    let e1 := ((if odd then e - 1 else e) - 2 * (f.fb + 4 : Nat)) / 2
    let q := isqrt m1
    roundFin f r false false (2 * q + if q * q = m1 then 0 else 1) (e1 - 1)

/-- FRND on one code (R314). -/
def rndOut (f : FloatFmt) (r : Rnd) (v : FVal) : LaneOut :=
  match v with
  | .fin n m e => roundFin f r false n (roundToInt r n m e) 0
  | _ => putFloat f r false v

/-- FCLASS (R312). -/
def classOf (f : FloatFmt) (x : Nat) : Nat :=
  let n := x / 2 ^ f.mag % 2 = 1
  let c := x % 2 ^ f.mag
  if c = 0 then (if n then 8 else 16)
  else if c < 2 ^ f.fb then (if n then 4 else 32)
  else if c < f.infCode then (if n then 2 else 64)
  else if c = f.infCode then (if n then 1 else 128)
  else if c / 2 ^ (f.fb - 1) % 2 = 1 then 512 else 256

/-- The floor of log2 of a positive exact value and whether it is a power of two, for E8M0 (R163). -/
def toE8m0 (r : Rnd) (sat : FVal) : LaneOut :=
  match sat with
  | .nan => (0xFF, 0)
  | .inf _ => (0xFF, Flag.inv)
  | .fin n m e =>
    if n then (0xFF, Flag.inv) else if m = 0 then (0, Flag.fsat) else
    let k := Nat.log2 m
    let top := topExp m e
    let up := match r with
      | .rz | .rdn => false
      | .rup => decide (m ≠ 2 ^ k)
      | .rne =>
        let twice := 2 * m
        decide (3 * 2 ^ k < twice) || (decide (twice = 3 * 2 ^ k) && decide ((top + 127) % 2 ≠ 0))
    let x := if up then top + 1 else top
    if x < -127 then (0, Flag.fsat) else if 127 < x then (0xFE, Flag.fsat) else (BitVec.ofNat 64 (x + 127).toNat, 0)

end Sys2Proof.Machine

namespace Sys2Proof

/-- The float format of an FCVT code. -/
def Fmt.floatFmt : Fmt → Machine.FloatFmt
  | .flt t => t.fmt
  | .e4m3 => .e4m3
  | .e5m2 => .e5m2
  | _ => .e2m1

end Sys2Proof

namespace Sys2Proof.Machine

/-- The value of an FCVT source that is not an integer (R162, R163). -/
def cvtVal (s : Fmt) (x : DWord) : FVal :=
  match s with
  | .e8m0 => let c := lowNat 8 x; if c = 0xFF then .nan else .fin false 1 ((c : Int) - 127)
  | .int _ => .nan
  | s => decodeFloat s.floatFmt (lowNat (s.floatFmt.mag + 1) x)

/-- FCVT (R163, R313). -/
def cvtOut (d s : Fmt) (r : Rnd) (sat abs neg : Bool) (x : DWord) : LaneOut :=
  match d, s with
  | .int dt, .int st =>
    if dt = st then (putInt dt (intVal dt x), 0) else intOut dt sat (intVal st x)
  | .int dt, _ =>
    match (cvtVal s x).modify abs neg with
    | .nan => (0, Flag.isat)
    | .inf n => (putInt dt (if n then intLo dt else intHi dt), Flag.isat)
    | .fin n m e => intOut dt true (sgn n (roundToInt r n m e))
  | _, .int st =>
    let z := intVal st x
    roundFin d.floatFmt r sat (decide (z < 0)) z.natAbs 0
  | .e8m0, s =>
    if s = .e8m0 then (BitVec.ofNat 64 (lowNat 8 x), 0) else toE8m0 r ((cvtVal s x).modify abs neg)
  | d, s =>
    if d = s then
      -- the operand, with any NaN replaced by the canonical one, and no flag (R313); with Saturate no infinity is written (R160)
      let v := (cvtVal s x).modify abs neg
      if sat && v.isInf then putFloat d.floatFmt r sat v else
      (BitVec.ofNat 64 (if v.isNan then d.floatFmt.nan else modCode d.floatFmt abs neg (lowNat (d.floatFmt.mag + 1) x)), 0)
    else putFloat d.floatFmt r sat ((cvtVal s x).modify abs neg)

/-- Bytes of a table as a number, little-endian, from an offset; a byte past the end reads zero. -/
def tableNat (t : List Byte) (off n : Nat) : Nat :=
  ((t.drop off).take n).foldr (fun b acc => b.toNat + 256 * acc) 0

/-- The cubic of R169 on record j of function f, with the FSAT and INV its steps raise. -/
def cubic (t : List Byte) (f j : Nat) (x : FVal) : LaneOut :=
  let at0 := 1024 + 2560 * f + 10 * j
  let c0 := decodeFloat .fp32 (tableNat t at0 4)
  let c1 := decodeFloat .fp16 (tableNat t (at0 + 4) 2)
  let c2 := decodeFloat .fp16 (tableNat t (at0 + 6) 2)
  let c3 := decodeFloat .fp16 (tableNat t (at0 + 8) 2)
  let step (y c : FVal) : LaneOut := outOf .fp32 .rne false (fmaVal .rne y x c)
  let y1 := step c3 c2
  let y2 := step (decodeFloat .fp32 y1.1.toNat) c1
  let p := step (decodeFloat .fp32 y2.1.toNat) c0
  (p.1, y1.2 ||| y2.2 ||| p.2)

/-- A nonzero finite magnitude as 2^e · m with m in [1, 2): e, and m's fraction as (numerator, bits). -/
def normal (m : Nat) (e : Int) : Int × Nat × Nat :=
  let k := Nat.log2 m
  (topExp m e, m - 2 ^ k, k)

/-- floor(256·frac) and the exact remainder as an offset, for a fraction num / 2^bits and a scale 2^s. -/
def segment (num bits s : Nat) : Nat × FVal :=
  let z := num * 2 ^ s
  (z / 2 ^ bits, .fin false (z % 2 ^ bits) (-(bits : Int)))

/-- Scale a value by a power of two and give it a sign. -/
def FVal.scale (v : FVal) (flip : Bool) (k : Int) : FVal :=
  match v with
  | .nan => .nan
  | .inf n => .inf (n != flip)
  | .fin n m e => .fin (n != flip) m (e + k)

inductive Func where
  | rcp | rsq | exp2 | log2 | sin | cos
  deriving DecidableEq, Repr

/-- FSIN and FCOS: quadrant, table and sign (R169). -/
def trigOut (t : List Byte) (isSin : Bool) (n : Bool) (m : Nat) (e : Int) : FVal × DWord :=
  -- u = x mod 2 as num / 2^bits
  let bits := if e < 0 then (-e).toNat else 0
  let num := if e < 0 then m else m * 2 ^ e.toNat
  let u := (sgn n num % (2 ^ (bits + 1) : Nat)).toNat
  let q := 2 * u / 2 ^ bits
  let f := 2 * u % 2 ^ bits
  let sg := segment f bits 8
  let useSin := if isSin then q % 2 = 0 else q % 2 = 1
  let negate := if isSin then 2 ≤ q else q = 1 || q = 2
  let p := cubic t (if useSin then 2 else 3) sg.1 sg.2
  let v := (decodeFloat .fp32 p.1.toNat).scale negate 0
  ((if v.isZero then .fin false 0 0 else v), p.2)

/-- The value of a function instruction before its final write in f32, the flags so far, and whether an invalid operation made it a NaN (R169). -/
def funcVal (t : List Byte) (g : Func) (x : FVal) : FVal × DWord × Bool :=
  match g, x with
  | _, .nan => (.nan, 0, false)
  | .exp2, .inf n => (if n then .fin false 0 0 else .inf false, 0, false)
  | .exp2, .fin n m e =>
    let bits := if e < 0 then (-e).toNat else 0
    let num := if e < 0 then sgn n m else sgn n (m * 2 ^ e.toNat)
    let fl := num / (2 ^ bits : Nat)
    let fr := (num % (2 ^ bits : Nat)).toNat
    let sg := segment fr bits 8
    let p := cubic t 0 sg.1 sg.2
    -- beyond this range every scaled value overflows or is below every subnormal
    ((decodeFloat .fp32 p.1.toNat).scale false (clampInt (-100000) 100000 fl), p.2, false)
  | .log2, .inf n => if n then (.nan, 0, true) else (.inf false, 0, false)
  | .log2, .fin n m e =>
    if m = 0 then (.inf true, 0, false) else if n then (.nan, 0, true) else
    let w := normal m e
    let sg := segment w.2.1 w.2.2 8
    let p := cubic t 1 sg.1 sg.2
    let a := addVal .rne (.fin (decide (w.1 < 0)) w.1.natAbs 0) (decodeFloat .fp32 p.1.toNat)
    (a.1, p.2, a.2)
  | .rcp, .inf n => (.fin n 0 0, 0, false)
  | .rcp, .fin n m e =>
    if m = 0 then (.inf n, 0, false) else
    let w := normal m e
    let sg := segment w.2.1 w.2.2 8
    let p := cubic t 4 sg.1 sg.2
    ((decodeFloat .fp32 p.1.toNat).scale n (-w.1), p.2, false)
  | .rsq, .inf n => if n then (.nan, 0, true) else (.fin false 0 0, 0, false)
  | .rsq, .fin n m e =>
    if m = 0 then (.inf n, 0, false) else if n then (.nan, 0, true) else
    let w := normal m e
    let odd := w.1 % 2
    let sg := segment w.2.1 w.2.2 7
    let p := cubic t 5 (128 * odd.toNat + sg.1) sg.2
    ((decodeFloat .fp32 p.1.toNat).scale false (-((w.1 - odd) / 2)), p.2, false)
  | .sin, .inf _ | .cos, .inf _ => (.nan, 0, true)
  | .sin, .fin n m e => if m = 0 then (.fin n 0 0, 0, false) else let r := trigOut t true n m e; (r.1, r.2, false)
  | .cos, .fin n m e => let r := trigOut t false n m e; (r.1, r.2, false)

/-- A function instruction on one operand (R169): one f32 rounding of the scaled value, then a final rne to f16 or bf16. -/
def funcOut (t : List Byte) (g : Func) (ty : Ty) (sat : Bool) (x : FVal) : LaneOut :=
  let v := funcVal t g x
  let r := putFloat .fp32 .rne (sat && ty = .f32) v.1 v.2.2
  if ty = .f32 then (r.1, r.2 ||| v.2.1) else
  let w := decodeFloat .fp32 r.1.toNat
  let q := putFloat ty.fmt .rne sat w
  -- a result of FSIN or FCOS that the final rounding makes zero is +0
  let plus := (g = .sin || g = .cos) && !w.isZero && (decodeFloat ty.fmt q.1.toNat).isZero
  (if plus then 0 else q.1, q.2 ||| r.2 ||| v.2.1)

/-- The operations of REDUX (R166). -/
inductive RedOp where
  | add | min | max
  deriving DecidableEq, Repr

def redOpOf (n : Nat) : RedOp := match n with | 0 => .add | 1 => .min | _ => .max

end Sys2Proof.Machine

namespace Sys2Proof

def Ty.isFloat : Ty → Bool
  | .f16 | .bf16 | .f32 | .f64 | .bf16x2 | .f16x2 | .f32x2 => true
  | _ => false

end Sys2Proof

namespace Sys2Proof.Machine

/-- The neutral value of R166. -/
def redNeutral (ty : Ty) (o : RedOp) : DWord :=
  if ty.isFloat then
    let f := ty.fmt
    let c := match o with
      | .add => f.withSign true 0
      | .min => f.infCode
      | .max => f.withSign true f.infCode
    (halves ty fun _ => (BitVec.ofNat 64 c, 0)).1
  else putInt ty (match o with | .add => 0 | .min => intHi ty | .max => intLo ty)

/-- One step of the tree, with its flags. -/
def redStep (ty : Ty) (o : RedOp) (x y : LaneOut) : LaneOut :=
  if ty.isFloat then
    let r := halves ty fun k => match o with
      | .add => outOf ty.fmt .rne false (addVal .rne (floatOperand ty false false x.1 k) (floatOperand ty false false y.1 k))
      | .min => (BitVec.ofNat 64 (minMax ty.fmt true (elem ty x.1 k) (elem ty y.1 k)), 0)
      | .max => (BitVec.ofNat 64 (minMax ty.fmt false (elem ty x.1 k) (elem ty y.1 k)), 0)
    (r.1, r.2 ||| x.2 ||| y.2)
  else
    let a := intVal ty x.1
    let b := intVal ty y.1
    (putInt ty (match o with | .add => a + b | .min => min a b | .max => max a b), 0)

/-- One level of the tree: neighbours combine. -/
def redLevel (ty : Ty) (o : RedOp) : List LaneOut → List LaneOut
  | x :: y :: l => redStep ty o x y :: redLevel ty o l
  | l => l

/-- The fixed tree over 32 values (R166). -/
def redTree (ty : Ty) (o : RedOp) (l : List LaneOut) : LaneOut :=
  let lv := redLevel ty o
  (lv (lv (lv (lv (lv l))))).headD (0, 0)

end Sys2Proof.Machine
end

