-- ==== Sys2Proof/Decode.lean ====
section
/-! DEFINITION. From the 96 bits of a slot (R50) to an instruction, total and rejecting by name, and back. -/

namespace Sys2Proof

/-- The seven fields of a slot (R50). -/
structure Raw where
  op : BitVec 12
  g : BitVec 5
  d : BitVec 12
  a : BitVec 12
  b : BitVec 12
  c : BitVec 12
  m : BitVec 31
  deriving DecidableEq, Repr

/-- The slot's bits cut at the boundaries of R50. -/
def unpack (w : SlotWord) : Raw :=
  { op := w.extractLsb' 0 12, g := w.extractLsb' 12 5, d := w.extractLsb' 17 12, a := w.extractLsb' 29 12,
    b := w.extractLsb' 41 12, c := w.extractLsb' 53 12, m := w.extractLsb' 65 31 }

def pack (r : Raw) : SlotWord := r.m ++ r.c ++ r.b ++ r.a ++ r.d ++ r.g ++ r.op

/-- What a slot decodes to (R68, R69): an instruction; an instruction whose only fault is a set latch select bit on a field of a class that has no latches, which raises LATCH after the checks of orders 6 and 7; or ILLEGAL. -/
inductive Dec where
  | ok (i : Instr)
  | latched (i : Instr)
  | illegal
  deriving DecidableEq, Repr

def tyOf (n : BitVec 4) : Option Ty :=
  match n.toNat with
  | 0 => some .s8 | 1 => some .s16 | 2 => some .s32 | 3 => some .s64
  | 4 => some .z8 | 5 => some .z16 | 6 => some .z32 | 7 => some .z64
  | 8 => some .f16 | 9 => some .bf16 | 10 => some .f32 | 11 => some .f64
  | 12 => some .bf16x2 | 13 => some .f16x2 | 14 => some .f32x2 | _ => none

def tyCode : Ty → BitVec 4
  | .s8 => 0 | .s16 => 1 | .s32 => 2 | .s64 => 3 | .z8 => 4 | .z16 => 5 | .z32 => 6 | .z64 => 7
  | .f16 => 8 | .bf16 => 9 | .f32 => 10 | .f64 => 11 | .bf16x2 => 12 | .f16x2 => 13 | .f32x2 => 14

def rndOf (n : BitVec 2) : Rnd := match n.toNat with | 0 => .rne | 1 => .rz | 2 => .rup | _ => .rdn
def rndCode : Rnd → BitVec 2 | .rne => 0 | .rz => 1 | .rup => 2 | .rdn => 3

def cmpOf (n : BitVec 4) : Option Cmp :=
  match n.toNat with
  | 0 => some .eq | 1 => some .ne | 2 => some .lt | 3 => some .le | 4 => some .gt | 5 => some .ge
  | 6 => some .num | 7 => some .nan | 8 => some .equ | 9 => some .neu | 10 => some .ltu | 11 => some .leu
  | 12 => some .gtu | 13 => some .geu | _ => none
def cmpCode : Cmp → BitVec 4
  | .eq => 0 | .ne => 1 | .lt => 2 | .le => 3 | .gt => 4 | .ge => 5 | .num => 6 | .nan => 7
  | .equ => 8 | .neu => 9 | .ltu => 10 | .leu => 11 | .gtu => 12 | .geu => 13

def scopeOf (n : BitVec 2) : Scope := match n.toNat with | 0 => .team | 1 => .clus | 2 => .dev | _ => .sys
def scopeCode : Scope → BitVec 2 | .team => 0 | .clus => 1 | .dev => 2 | .sys => 3
def ctrOf (n : BitVec 2) : Ctr := match n.toNat with | 0 => .copy | 1 => .kiln | 2 => .atomnr | _ => .fabric
def ctrCode : Ctr → BitVec 2 | .copy => 0 | .kiln => 1 | .atomnr => 2 | .fabric => 3

def guardOf (g : BitVec 5) : Guard := ⟨g.getLsbD 4, g.extractLsb' 0 4⟩
def guardCode (g : Guard) : BitVec 5 := BitVec.ofBool g.neg ++ g.idx

/-- A source field of classes 0x1 to 0x5: bit 11 selects a latch, whose other number bits must be zero (R52). -/
def srcOf (f : BitVec 12) : Option Src :=
  if f.getLsbD 11 then (if f.extractLsb' 2 9 = 0 then some (.latch (f.extractLsb' 0 2)) else none)
  else some (.reg (f.extractLsb' 0 11))
def srcCode : Src → BitVec 12
  | .reg n => (0 : BitVec 1) ++ n
  | .latch k => (1 : BitVec 1) ++ (0 : BitVec 9) ++ k

/-- A destination field of classes 0x1 to 0x5: NW with a zero number, or a number (R52). -/
def dstOf (f : BitVec 12) : Option Dst :=
  if f.getLsbD 11 then (if f.extractLsb' 0 11 = 0 then some .nw else none) else some (.reg (f.extractLsb' 0 11))
def dstCode : Dst → BitVec 12
  | .reg n => (0 : BitVec 1) ++ n
  | .nw => (1 : BitVec 1) ++ (0 : BitVec 11)

/-- The number of a field of another class, where bit 11 is the latch select bit that raises LATCH (R52). -/
def num (f : BitVec 12) : BitVec 11 := f.extractLsb' 0 11
def latchBit (f : BitVec 12) : Bool := f.getLsbD 11
/-- A field without a latch bit. -/
def field (n : BitVec 11) : BitVec 12 := (0 : BitVec 1) ++ n

/-- The vector M layout of a register form (R55). -/
def vargsOf (r : Raw) : Option VArgs := do
  let d ← dstOf r.d
  let a ← srcOf r.a
  let b ← srcOf r.b
  let c ← srcOf r.c
  let ty ← tyOf (r.m.extractLsb' 8 4)
  let cmp ← cmpOf (r.m.extractLsb' 19 4)
  if r.m.extractLsb' 0 8 = 0 then
    some { guard := guardOf r.g, d, a, b, c, ty, rnd := rndOf (r.m.extractLsb' 12 2), sat := r.m.getLsbD 14,
           negA := r.m.getLsbD 15, negB := r.m.getLsbD 16, absA := r.m.getLsbD 17, absB := r.m.getLsbD 18,
           cmp, op8 := r.m.extractLsb' 23 8 }
  else none

/-- The immediate of an I-form: slot bits [72:41] (R54). -/
def immOf (r : Raw) : Word := r.m.extractLsb' 0 8 ++ r.c ++ r.b

def vimmOf (r : Raw) : Option VImm := do
  let d ← dstOf r.d
  let a ← srcOf r.a
  let ty ← tyOf (r.m.extractLsb' 8 4)
  let cmp ← cmpOf (r.m.extractLsb' 19 4)
  some { guard := guardOf r.g, d, a, imm := immOf r, ty, rnd := rndOf (r.m.extractLsb' 12 2), sat := r.m.getLsbD 14,
         negA := r.m.getLsbD 15, negB := r.m.getLsbD 16, absA := r.m.getLsbD 17, absB := r.m.getLsbD 18,
         cmp, op8 := r.m.extractLsb' 23 8 }

/-- The upper M bits of a vector-class slot. -/
def vmHigh (op8 : BitVec 8) (cmp : Cmp) (absB absA negB negA sat : Bool) (rnd : Rnd) (ty : Ty) : BitVec 23 :=
  op8 ++ cmpCode cmp ++ BitVec.ofBool absB ++ BitVec.ofBool absA ++ BitVec.ofBool negB ++ BitVec.ofBool negA ++
    BitVec.ofBool sat ++ rndCode rnd ++ tyCode ty

/-- FCVT's abs A stands at slot bit 83, where the other instructions have abs B (R162, R306). -/
def VArgs.swapAbs (x : VArgs) : VArgs := { x with absA := x.absB, absB := x.absA }

def vargsRaw (op : BitVec 12) (x : VArgs) : Raw :=
  { op, g := guardCode x.guard, d := dstCode x.d, a := srcCode x.a, b := srcCode x.b, c := srcCode x.c,
    m := vmHigh x.op8 x.cmp x.absB x.absA x.negB x.negA x.sat x.rnd x.ty ++ (0 : BitVec 8) }

def vimmRaw (op : BitVec 12) (x : VImm) : Raw :=
  { op, g := guardCode x.guard, d := dstCode x.d, a := srcCode x.a, b := x.imm.extractLsb' 0 12, c := x.imm.extractLsb' 12 12,
    m := vmHigh x.op8 x.cmp x.absB x.absA x.negB x.negA x.sat x.rnd x.ty ++ x.imm.extractLsb' 24 8 }

/-- A parsed slot and whether one of its used fields carries a latch select bit it may not have. -/
abbrev Parsed := Option (Instr × Bool)

def vec (r : Raw) (k : VArgs → Instr) : Parsed := (vargsOf r).map fun x => (k x, false)
def vecI (r : Raw) (k : VImm → Instr) : Parsed := (vimmOf r).map fun x => (k x, false)

/-- Parse under the condition that the fields the instruction does not name are zero. -/
def only (zero : Bool) (i : Instr) (latch : Bool) : Parsed := if zero then some (i, latch) else none

def dNum (r : Raw) : BitVec 11 := num r.d
/-- D of a class without NW: bit 28 must be zero (R52). -/
def dOk (r : Raw) : Bool := !latchBit r.d
/-- D that holds a predicate or a handle in [20:17], with [28:21] zero (R61). -/
def d4Ok (r : Raw) : Bool := r.d.extractLsb' 4 8 = 0
def d4 (r : Raw) : BitVec 4 := r.d.extractLsb' 0 4
def d4Field (n : BitVec 4) : BitVec 12 := (0 : BitVec 8) ++ n

def g0 (r : Raw) (k : G0Args → Instr) : Parsed :=
  only (r.d = 0 && r.a = 0 && r.b = 0 && r.c = 0 && r.m = 0) (k ⟨guardOf r.g⟩) false
def g0Raw (op : BitVec 12) (x : G0Args) : Raw := ⟨op, guardCode x.guard, 0, 0, 0, 0, 0⟩

/-- The branch layout (R60). -/
def braArgs (r : Raw) : BraArgs :=
  { guard := guardOf r.g, d := dNum r, slot := r.m.extractLsb' 8 3, off := immOf r, depth := r.m.extractLsb' 11 4 }
def braP (r : Raw) (k : BraArgs → Instr) : Parsed :=
  only (dOk r && r.a = 0 && r.m.extractLsb' 15 16 = 0) (k (braArgs r)) false
def braRaw (op : BitVec 12) (x : BraArgs) : Raw :=
  { op, g := guardCode x.guard, d := field x.d, a := 0, b := x.off.extractLsb' 0 12, c := x.off.extractLsb' 12 12,
    m := (0 : BitVec 16) ++ x.depth ++ x.slot ++ x.off.extractLsb' 24 8 }

def jmpP (r : Raw) (k : JmpArgs → Instr) : Parsed :=
  only (r.d = 0 && r.b = 0 && r.c = 0 && r.m = 0) (k ⟨guardOf r.g, num r.a⟩) (latchBit r.a)
def jmpRaw (op : BitVec 12) (x : JmpArgs) : Raw := ⟨op, guardCode x.guard, 0, field x.a, 0, 0, 0⟩

/-- TRAP and BKPT: the code in slot bits [56:41] (R295). -/
def codeP (r : Raw) (k : CodeArgs → Instr) : Parsed :=
  only (r.d = 0 && r.a = 0 && r.c.extractLsb' 4 8 = 0 && r.m = 0) (k ⟨guardOf r.g, r.c.extractLsb' 0 4 ++ r.b⟩) false
def codeRaw (op : BitVec 12) (x : CodeArgs) : Raw :=
  ⟨op, guardCode x.guard, 0, 0, x.code.extractLsb' 0 12, (0 : BitVec 8) ++ x.code.extractLsb' 12 4, 0⟩

def progP (r : Raw) : Parsed :=
  only (r.d = 0 && r.a = 0 && r.b.extractLsb' 4 8 = 0 && r.c = 0 && r.m = 0) (.prog ⟨guardOf r.g, r.b.extractLsb' 0 4⟩) false
def progRaw (x : ProgArgs) : Raw := ⟨0x00C, guardCode x.guard, 0, 0, (0 : BitVec 8) ++ x.k, 0, 0⟩

def privP (r : Raw) (k : PrivArgs → Instr) : Parsed :=
  only (r.d = 0 && r.c = 0 && r.m = 0) (k ⟨guardOf r.g, num r.a, num r.b⟩) (latchBit r.a || latchBit r.b)
def privRaw (op : BitVec 12) (x : PrivArgs) : Raw := ⟨op, guardCode x.guard, 0, field x.a, field x.b, 0, 0⟩

/-- Class 0x6 register forms: only type and compare code (R371). -/
def sclP (r : Raw) (k : SclArgs → Instr) : Parsed := do
  let ty ← tyOf (r.m.extractLsb' 8 4)
  let cmp ← cmpOf (r.m.extractLsb' 19 4)
  only (dOk r && r.c = 0 && r.m.extractLsb' 0 8 = 0 && r.m.extractLsb' 12 7 = 0 && r.m.extractLsb' 23 8 = 0)
    (k ⟨guardOf r.g, dNum r, num r.a, num r.b, ty, cmp⟩) (latchBit r.a || latchBit r.b)
def sclRaw (op : BitVec 12) (x : SclArgs) : Raw :=
  { op, g := guardCode x.guard, d := field x.d, a := field x.a, b := field x.b, c := 0,
    m := (0 : BitVec 8) ++ cmpCode x.cmp ++ (0 : BitVec 7) ++ tyCode x.ty ++ (0 : BitVec 8) }

def sclIP (r : Raw) (k : SclImm → Instr) : Parsed := do
  let ty ← tyOf (r.m.extractLsb' 8 4)
  only (dOk r && r.m.extractLsb' 12 19 = 0) (k ⟨guardOf r.g, dNum r, num r.a, immOf r, ty⟩) (latchBit r.a)
def sclIRaw (op : BitVec 12) (x : SclImm) : Raw :=
  { op, g := guardCode x.guard, d := field x.d, a := field x.a, b := x.imm.extractLsb' 0 12, c := x.imm.extractLsb' 12 12,
    m := (0 : BitVec 19) ++ tyCode x.ty ++ x.imm.extractLsb' 24 8 }

/-- SRD takes the number from A, SWR from M[76:65] and its scalar from A, CLK has D alone (R61, R88). -/
def srdP (r : Raw) : Parsed :=
  only (dOk r && r.b = 0 && r.c = 0 && r.m = 0) (.srd ⟨guardOf r.g, dNum r, num r.a⟩) (latchBit r.a)
def srdRaw (x : SprArgs) : Raw := ⟨0x60A, guardCode x.guard, field x.s, field x.num, 0, 0, 0⟩
def swrP (r : Raw) : Parsed :=
  only (r.d = 0 && r.b = 0 && r.c = 0 && r.m.extractLsb' 11 20 = 0) (.swr ⟨guardOf r.g, num r.a, r.m.extractLsb' 0 11⟩) (latchBit r.a)
def swrRaw (x : SprArgs) : Raw := ⟨0x60B, guardCode x.guard, 0, field x.s, 0, 0, (0 : BitVec 20) ++ x.num⟩
def clkP (r : Raw) : Parsed :=
  only (dOk r && r.a = 0 && r.b = 0 && r.c = 0 && r.m = 0) (.clk ⟨guardOf r.g, dNum r, 0⟩) false
def clkRaw (x : SprArgs) : Raw := ⟨0x60C, guardCode x.guard, field x.s, 0, 0, 0, 0⟩

/-- The memory layout (R58, R341); `usesC` and `usesD` say which data field the instruction names. -/
def memP (r : Raw) (usesC usesD : Bool) (k : MemArgs → Instr) : Parsed :=
  only (dOk r && !r.m.getLsbD 29 && (usesC || r.c = 0) && (usesD || r.d = 0))
    (k { guard := guardOf r.g, d := dNum r, a := num r.a, b := num r.b, c := num r.c, sbase := r.m.getLsbD 30,
         count := r.m.extractLsb' 27 2, size := r.m.extractLsb' 24 3, off := r.m.extractLsb' 0 24 })
    (latchBit r.a || latchBit r.b || latchBit r.c)
def memRaw (op : BitVec 12) (x : MemArgs) : Raw :=
  { op, g := guardCode x.guard, d := field x.d, a := field x.a, b := field x.b, c := field x.c,
    m := BitVec.ofBool x.sbase ++ (0 : BitVec 1) ++ x.count ++ x.size ++ x.off }

/-- LDAQ and STRL: bits [94:92] are zero (R142, R347). -/
def acqP (r : Raw) (usesC usesD : Bool) (k : AcqArgs → Instr) : Parsed :=
  only (dOk r && r.m.extractLsb' 27 3 = 0 && (usesC || r.c = 0) && (usesD || r.d = 0))
    (k { guard := guardOf r.g, d := dNum r, a := num r.a, b := num r.b, c := num r.c, sbase := r.m.getLsbD 30,
         b64 := r.m.getLsbD 26, scope := scopeOf (r.m.extractLsb' 24 2), off := r.m.extractLsb' 0 24 })
    (latchBit r.a || latchBit r.b || latchBit r.c)
def acqRaw (op : BitVec 12) (x : AcqArgs) : Raw :=
  { op, g := guardCode x.guard, d := field x.d, a := field x.a, b := field x.b, c := field x.c,
    m := BitVec.ofBool x.sbase ++ (0 : BitVec 3) ++ BitVec.ofBool x.b64 ++ scopeCode x.scope ++ x.off }

def fenceP (r : Raw) : Parsed :=
  only (r.d = 0 && r.a = 0 && r.b = 0 && r.c = 0 && r.m.extractLsb' 0 24 = 0 && r.m.extractLsb' 26 5 = 0)
    (.fence ⟨guardOf r.g, scopeOf (r.m.extractLsb' 24 2)⟩) false
def fenceRaw (x : FenceArgs) : Raw :=
  ⟨0x709, guardCode x.guard, 0, 0, 0, 0, (0 : BitVec 5) ++ scopeCode x.scope ++ (0 : BitVec 24)⟩

def waitcP (r : Raw) : Parsed :=
  only (r.d = 0 && r.a = 0 && r.b = 0 && r.c = 0 && r.m.extractLsb' 10 21 = 0)
    (.waitc ⟨guardOf r.g, ctrOf (r.m.extractLsb' 0 2), r.m.extractLsb' 2 8⟩) false
def waitcRaw (x : WaitArgs) : Raw :=
  ⟨0x70A, guardCode x.guard, 0, 0, 0, 0, (0 : BitVec 21) ++ x.n ++ ctrCode x.ctr⟩

/-- The atomic layout (R59). -/
def atomP (r : Raw) (usesC : Bool) (k : AtomArgs → Instr) : Parsed := do
  let ty ← tyOf (r.m.extractLsb' 16 4)
  only (dOk r && r.m.extractLsb' 24 7 = 0 && (usesC || r.c = 0))
    (k { guard := guardOf r.g, d := dNum r, a := num r.a, b := num r.b, c := num r.c, wide := r.m.getLsbD 23,
         nr := r.m.getLsbD 22, scope := scopeOf (r.m.extractLsb' 20 2), ty, off := r.m.extractLsb' 0 16 })
    (latchBit r.a || latchBit r.b || latchBit r.c)
def atomRaw (op : BitVec 12) (x : AtomArgs) : Raw :=
  { op, g := guardCode x.guard, d := field x.d, a := field x.a, b := field x.b, c := field x.c,
    m := (0 : BitVec 7) ++ BitVec.ofBool x.wide ++ BitVec.ofBool x.nr ++ scopeCode x.scope ++ tyCode x.ty ++ x.off }

def idP (r : Raw) (k : IdArgs → Instr) : Parsed :=
  only (r.d = 0 && r.a = 0 && r.b = 0 && r.c = 0 && r.m.extractLsb' 4 27 = 0) (k ⟨guardOf r.g, r.m.extractLsb' 0 4⟩) false
def idRaw (op : BitVec 12) (x : IdArgs) : Raw := ⟨op, guardCode x.guard, 0, 0, 0, 0, (0 : BitVec 27) ++ x.id⟩

def growP (r : Raw) : Parsed :=
  only (dOk r && r.b = 0 && r.c = 0 && r.m = 0) (.grow ⟨guardOf r.g, dNum r, num r.a⟩) (latchBit r.a)
def growRaw (x : GrowArgs) : Raw := ⟨0x906, guardCode x.guard, field x.d, field x.a, 0, 0, 0⟩

def qpushP (r : Raw) : Parsed :=
  only (d4Ok r && r.c = 0 && r.m = 0) (.qpush ⟨guardOf r.g, d4 r, num r.a, num r.b⟩) (latchBit r.a || latchBit r.b)
def qpushRaw (x : QpushArgs) : Raw := ⟨0x907, guardCode x.guard, d4Field x.p, field x.a, field x.b, 0, 0⟩

def cpyP (r : Raw) (k : CpyArgs → Instr) : Parsed :=
  only (d4Ok r && r.m = 0) (k ⟨guardOf r.g, d4 r, num r.a, num r.b, num r.c⟩) (latchBit r.a || latchBit r.b || latchBit r.c)
def cpyRaw (op : BitVec 12) (x : CpyArgs) : Raw := ⟨op, guardCode x.guard, d4Field x.h, field x.a, field x.b, field x.c, 0⟩

/-- HTST, HCAN, HMOV: a handle in A[32:29], with A[39:33] zero (R328). -/
def handP (r : Raw) (k : HandArgs → Instr) : Parsed :=
  only (d4Ok r && r.a.extractLsb' 4 7 = 0 && r.b = 0 && r.c = 0 && r.m = 0) (k ⟨guardOf r.g, d4 r, r.a.extractLsb' 0 4⟩) (latchBit r.a)
def handRaw (op : BitVec 12) (x : HandArgs) : Raw := ⟨op, guardCode x.guard, d4Field x.d, d4Field x.h, 0, 0, 0⟩

/-- KPACK: M[65] is the operand side (R177). -/
def kpackP (r : Raw) : Parsed :=
  only (dOk r && r.b = 0 && r.m.extractLsb' 1 30 = 0)
    ((if r.m.getLsbD 0 then Instr.kpackB else Instr.kpackA) ⟨guardOf r.g, dNum r, num r.a, num r.c⟩) (latchBit r.a || latchBit r.c)
def kpackRaw (side : BitVec 1) (x : KpackArgs) : Raw :=
  ⟨0xB00, guardCode x.guard, field x.d, field x.a, 0, field x.c, (0 : BitVec 30) ++ side⟩

/-- KPASS (modes 0 and 1) and KWIN (mode 2) (R178). -/
def kpassArgs (r : Raw) (conv : Bool) : KpassArgs :=
  { guard := guardOf r.g, h := d4 r, a := num r.a, b := num r.b, c := num r.c, conv, dst := r.m.extractLsb' 17 11,
    ss := r.m.extractLsb' 9 8, steps := r.m.extractLsb' 2 7, reuse := r.m.getLsbD 0 }
def kpassP (r : Raw) (win : Bool) : Parsed :=
  let mode := (r.m.extractLsb' 28 3).toNat
  let l := latchBit r.a || latchBit r.b || latchBit r.c
  if win then only (mode = 2 && d4Ok r && !r.m.getLsbD 1) (.kwin (kpassArgs r false)) l
  else only (mode < 2 && d4Ok r && !r.m.getLsbD 1) (.kpass (kpassArgs r (mode = 1))) l
def kpassRaw (op : BitVec 12) (mode : BitVec 3) (x : KpassArgs) : Raw :=
  { op, g := guardCode x.guard, d := d4Field x.h, a := field x.a, b := field x.b, c := field x.c,
    m := mode ++ x.dst ++ x.ss ++ x.steps ++ (0 : BitVec 1) ++ BitVec.ofBool x.reuse }

def kextP (r : Raw) : Parsed :=
  only (dOk r && r.b = 0 && r.m.extractLsb' 0 8 = 0 && r.m.extractLsb' 24 7 = 0)
    (.kext ⟨guardOf r.g, dNum r, num r.a, num r.c, r.m.extractLsb' 22 2 ++ r.m.extractLsb' 8 9, r.m.extractLsb' 17 5⟩)
    (latchBit r.a || latchBit r.c)
def kextRaw (x : KextArgs) : Raw :=
  { op := 0xB03, g := guardCode x.guard, d := field x.d, a := field x.a, b := 0, c := field x.c,
    m := (0 : BitVec 7) ++ x.first.extractLsb' 9 2 ++ x.count ++ x.first.extractLsb' 0 9 ++ (0 : BitVec 8) }

def kstabP (r : Raw) : Parsed :=
  only (r.d = 0 && r.b = 0 && r.c = 0 && r.m.extractLsb' 8 23 = 0) (.kstab ⟨guardOf r.g, num r.a, r.m.extractLsb' 0 8⟩) (latchBit r.a)
def kstabRaw (x : KstabArgs) : Raw := ⟨0xB04, guardCode x.guard, 0, field x.a, 0, 0, (0 : BitVec 23) ++ x.id⟩

def fsendP (r : Raw) : Parsed :=
  only (d4Ok r && r.c = 0 && r.m.extractLsb' 12 19 = 0) (.fsend ⟨guardOf r.g, d4 r, num r.a, num r.b, r.m.extractLsb' 0 12⟩)
    (latchBit r.a || latchBit r.b)
def fsendRaw (x : FsendArgs) : Raw :=
  ⟨0xC00, guardCode x.guard, d4Field x.h, field x.a, field x.b, 0, (0 : BitVec 19) ++ x.flow⟩

def ffenceP (r : Raw) : Parsed :=
  only (r.d = 0 && r.b = 0 && r.m.extractLsb' 0 12 = 0 && r.m.extractLsb' 20 11 = 0)
    (.ffence ⟨guardOf r.g, num r.a, num r.c, r.m.extractLsb' 12 8⟩) (latchBit r.a || latchBit r.c)
def ffenceRaw (x : FfenceArgs) : Raw :=
  ⟨0xC01, guardCode x.guard, 0, field x.a, 0, field x.c, (0 : BitVec 11) ++ x.dev ++ (0 : BitVec 12)⟩

def fsyncP (r : Raw) : Parsed :=
  only (r.d = 0 && r.a = 0 && r.b = 0 && r.c = 0 && r.m.extractLsb' 12 19 = 0) (.fsync ⟨guardOf r.g, r.m.extractLsb' 0 12⟩) false
def fsyncRaw (x : FsyncArgs) : Raw := ⟨0xC02, guardCode x.guard, 0, 0, 0, 0, (0 : BitVec 19) ++ x.flow⟩

def pmigP (r : Raw) : Parsed :=
  only (d4Ok r && r.b = 0 && r.c = 0 && r.m = 0) (.pmig ⟨guardOf r.g, d4 r, num r.a⟩) (latchBit r.a)
def pmigRaw (x : PmigArgs) : Raw := ⟨0xC03, guardCode x.guard, d4Field x.h, field x.a, 0, 0, 0⟩

/-- The opcode map (R67), class by class. -/
def parse0 (r : Raw) (op : Nat) : Parsed :=
  match op with
  | 0x00 => g0 r .nop | 0x01 => braP r .bra | 0x02 => jmpP r .brx | 0x03 => braP r .call | 0x04 => jmpP r .ret
  | 0x05 => g0 r .exit | 0x06 => braP r .rcv | 0x07 => g0 r .rjoin | 0x08 => braP r .brk | 0x09 => g0 r .yield
  | 0x0A => codeP r .trap | 0x0B => codeP r .bkpt | 0x0C => progP r
  | 0x0D => privP r .rtrap | 0x0E => privP r .lnch | 0x0F => privP r .prem
  | _ => none

def parse1 (r : Raw) (op : Nat) : Parsed :=
  match op with
  | 0x00 => vec r .iadd | 0x01 => vec r .isub | 0x02 => vec r .imul | 0x03 => vec r .imulh | 0x04 => vec r .imad
  | 0x05 => vec r .imin | 0x06 => vec r .imax | 0x07 => vec r .iabs | 0x08 => vec r .ineg | 0x09 => vec r .isetp | 0x0A => vec r .lea
  | 0x80 => vecI r .iaddI | 0x81 => vecI r .isubI | 0x82 => vecI r .imulI | 0x85 => vecI r .iminI | 0x86 => vecI r .imaxI
  | 0x89 => vecI r .isetpI | 0x8A => vecI r .leaI
  | _ => none

def parse2 (r : Raw) (op : Nat) : Parsed :=
  match op with
  | 0x00 => vec r .and | 0x01 => vec r .or | 0x02 => vec r .xor | 0x03 => vec r .not | 0x04 => vec r .shl | 0x05 => vec r .shr
  | 0x06 => vec r .sar | 0x07 => vec r .popc | 0x08 => vec r .clz | 0x09 => vec r .brev | 0x0A => vec r .bfx | 0x0B => vec r .bfi
  | 0x0C => vec r .sel | 0x0D => vec r .prmt
  | 0x80 => vecI r .andI | 0x81 => vecI r .orI | 0x82 => vecI r .xorI | 0x84 => vecI r .shlI | 0x85 => vecI r .shrI | 0x86 => vecI r .sarI
  | _ => none

def parse3 (r : Raw) (op : Nat) : Parsed :=
  match op with
  | 0x00 => vec r .fadd | 0x01 => vec r .fsub | 0x02 => vec r .fmul | 0x03 => vec r .ffma | 0x04 => vec r .fmin | 0x05 => vec r .fmax
  | 0x06 => vec r .fsetp | 0x07 => vec r .fclass
  | 0x80 => vecI r .faddI | 0x82 => vecI r .fmulI | 0x83 => vecI r .ffmaI | 0x86 => vecI r .fsetpI
  | _ => none

def parse4 (r : Raw) (op : Nat) : Parsed :=
  match op with
  | 0x00 => vec r fun x => .fcvt x.swapAbs | 0x01 => vec r .frnd | 0x02 => vec r .fsqrt | 0x03 => vec r .frcp | 0x04 => vec r .frsq
  | 0x05 => vec r .fexp2 | 0x06 => vec r .flog2 | 0x07 => vec r .fsin | 0x08 => vec r .fcos
  | _ => none

def parse5 (r : Raw) (op : Nat) : Parsed :=
  match op with
  | 0x00 => if r.m.getLsbD 23 then vec r .movH else vec r .mov
  | 0x01 => vec r .movs | 0x02 => vec r .sget | 0x03 => vec r .shfl | 0x04 => vec r .vote | 0x05 => vec r .redux
  | 0x06 => vec r .pset | 0x07 => vec r .plop | 0x80 => vecI r .movi
  | _ => none

def parse6 (r : Raw) (op : Nat) : Parsed :=
  match op with
  | 0x00 => sclP r .sadd | 0x01 => sclP r .ssub | 0x02 => sclP r .smul | 0x03 => sclP r .sand | 0x04 => sclP r .sor | 0x05 => sclP r .sxor
  | 0x06 => sclP r .sshl | 0x07 => sclP r .sshr | 0x08 => sclP r .smov | 0x09 => sclP r .ssetp
  | 0x0A => srdP r | 0x0B => swrP r | 0x0C => clkP r
  | 0x80 => sclIP r .saddI | 0x81 => sclIP r .ssubI | 0x82 => sclIP r .smulI | 0x83 => sclIP r .sandI | 0x84 => sclIP r .sorI
  | 0x85 => sclIP r .sxorI | 0x86 => sclIP r .sshlI | 0x87 => sclIP r .sshrI | 0x88 => sclIP r .smovi
  | _ => none

def parse7 (r : Raw) (op : Nat) : Parsed :=
  match op with
  | 0x00 => memP r false true .ld | 0x01 => memP r true false .st | 0x02 => acqP r false true .ldaq | 0x03 => acqP r true false .strl
  | 0x04 => memP r false true .ldln | 0x05 => memP r true false .stln | 0x06 => memP r false false .pref
  | 0x07 => memP r false true .sld | 0x08 => memP r true false .sst | 0x09 => fenceP r | 0x0A => waitcP r
  | _ => none

def parse8 (r : Raw) (op : Nat) : Parsed :=
  match op with
  | 0x00 => atomP r false .aadd | 0x01 => atomP r false .amin | 0x02 => atomP r false .amax | 0x03 => atomP r false .aand
  | 0x04 => atomP r false .aor | 0x05 => atomP r false .axor | 0x06 => atomP r false .axch | 0x07 => atomP r true .acas
  | 0x08 => atomP r false .afadd | 0x09 => atomP r false .afmin | 0x0A => atomP r false .afmax
  | _ => none

def parse9 (r : Raw) (op : Nat) : Parsed :=
  match op with
  | 0x00 => idP r .bar | 0x01 => idP r .bara | 0x02 => idP r .barw | 0x03 => idP r .cbar | 0x04 => idP r .ordw | 0x05 => idP r .ords
  | 0x06 => growP r | 0x07 => qpushP r
  | _ => none

def parseHigh (r : Raw) (cls op : Nat) : Parsed :=
  match cls, op with
  | 0xA, 0x00 => cpyP r .cpy | 0xA, 0x01 => cpyP r .cpyh | 0xA, 0x02 => handP r .htst | 0xA, 0x03 => handP r .hcan | 0xA, 0x04 => handP r .hmov
  | 0xB, 0x00 => kpackP r | 0xB, 0x01 => kpassP r false | 0xB, 0x02 => kpassP r true | 0xB, 0x03 => kextP r | 0xB, 0x04 => kstabP r
  | 0xC, 0x00 => fsendP r | 0xC, 0x01 => ffenceP r | 0xC, 0x02 => fsyncP r | 0xC, 0x03 => pmigP r
  | _, _ => none

def parse (r : Raw) : Parsed :=
  let op := r.op.toNat % 256
  match r.op.toNat / 256 with
  | 0x0 => parse0 r op | 0x1 => parse1 r op | 0x2 => parse2 r op | 0x3 => parse3 r op | 0x4 => parse4 r op
  | 0x5 => parse5 r op | 0x6 => parse6 r op | 0x7 => parse7 r op | 0x8 => parse8 r op | 0x9 => parse9 r op
  | cls => parseHigh r cls op

/-- The instruction of a slot: what R67 and the layouts name, when its operands are well-formed; ILLEGAL otherwise (R68). -/
def decodeRaw (r : Raw) : Dec :=
  match parse r with
  | none => .illegal
  | some (i, l) => if i.wf then (if l then .latched i else .ok i) else .illegal

def decodeSlot (w : SlotWord) : Dec := decodeRaw (unpack w)

/-- The slot of an instruction form; events have none. -/
def encodeRaw : Instr → Option Raw
  | .nop x => some (g0Raw 0x000 x) | .bra x => some (braRaw 0x001 x) | .brx x => some (jmpRaw 0x002 x) | .call x => some (braRaw 0x003 x)
  | .ret x => some (jmpRaw 0x004 x) | .exit x => some (g0Raw 0x005 x) | .rcv x => some (braRaw 0x006 x) | .rjoin x => some (g0Raw 0x007 x)
  | .brk x => some (braRaw 0x008 x) | .yield x => some (g0Raw 0x009 x) | .trap x => some (codeRaw 0x00A x) | .bkpt x => some (codeRaw 0x00B x)
  | .prog x => some (progRaw x) | .rtrap x => some (privRaw 0x00D x) | .lnch x => some (privRaw 0x00E x) | .prem x => some (privRaw 0x00F x)
  | .iadd x => some (vargsRaw 0x100 x) | .isub x => some (vargsRaw 0x101 x) | .imul x => some (vargsRaw 0x102 x) | .imulh x => some (vargsRaw 0x103 x)
  | .imad x => some (vargsRaw 0x104 x) | .imin x => some (vargsRaw 0x105 x) | .imax x => some (vargsRaw 0x106 x) | .iabs x => some (vargsRaw 0x107 x)
  | .ineg x => some (vargsRaw 0x108 x) | .isetp x => some (vargsRaw 0x109 x) | .lea x => some (vargsRaw 0x10A x)
  | .iaddI x => some (vimmRaw 0x180 x) | .isubI x => some (vimmRaw 0x181 x) | .imulI x => some (vimmRaw 0x182 x) | .iminI x => some (vimmRaw 0x185 x)
  | .imaxI x => some (vimmRaw 0x186 x) | .isetpI x => some (vimmRaw 0x189 x) | .leaI x => some (vimmRaw 0x18A x)
  | .and x => some (vargsRaw 0x200 x) | .or x => some (vargsRaw 0x201 x) | .xor x => some (vargsRaw 0x202 x) | .not x => some (vargsRaw 0x203 x)
  | .shl x => some (vargsRaw 0x204 x) | .shr x => some (vargsRaw 0x205 x) | .sar x => some (vargsRaw 0x206 x) | .popc x => some (vargsRaw 0x207 x)
  | .clz x => some (vargsRaw 0x208 x) | .brev x => some (vargsRaw 0x209 x) | .bfx x => some (vargsRaw 0x20A x) | .bfi x => some (vargsRaw 0x20B x)
  | .sel x => some (vargsRaw 0x20C x) | .prmt x => some (vargsRaw 0x20D x)
  | .andI x => some (vimmRaw 0x280 x) | .orI x => some (vimmRaw 0x281 x) | .xorI x => some (vimmRaw 0x282 x)
  | .shlI x => some (vimmRaw 0x284 x) | .shrI x => some (vimmRaw 0x285 x) | .sarI x => some (vimmRaw 0x286 x)
  | .fadd x => some (vargsRaw 0x300 x) | .fsub x => some (vargsRaw 0x301 x) | .fmul x => some (vargsRaw 0x302 x) | .ffma x => some (vargsRaw 0x303 x)
  | .fmin x => some (vargsRaw 0x304 x) | .fmax x => some (vargsRaw 0x305 x) | .fsetp x => some (vargsRaw 0x306 x) | .fclass x => some (vargsRaw 0x307 x)
  | .faddI x => some (vimmRaw 0x380 x) | .fmulI x => some (vimmRaw 0x382 x) | .ffmaI x => some (vimmRaw 0x383 x) | .fsetpI x => some (vimmRaw 0x386 x)
  | .fcvt x => some (vargsRaw 0x400 x.swapAbs) | .frnd x => some (vargsRaw 0x401 x) | .fsqrt x => some (vargsRaw 0x402 x) | .frcp x => some (vargsRaw 0x403 x)
  | .frsq x => some (vargsRaw 0x404 x) | .fexp2 x => some (vargsRaw 0x405 x) | .flog2 x => some (vargsRaw 0x406 x) | .fsin x => some (vargsRaw 0x407 x)
  | .fcos x => some (vargsRaw 0x408 x)
  | .mov x => some (vargsRaw 0x500 x) | .movH x => some (vargsRaw 0x500 x) | .movs x => some (vargsRaw 0x501 x) | .sget x => some (vargsRaw 0x502 x)
  | .shfl x => some (vargsRaw 0x503 x) | .vote x => some (vargsRaw 0x504 x) | .redux x => some (vargsRaw 0x505 x) | .pset x => some (vargsRaw 0x506 x)
  | .plop x => some (vargsRaw 0x507 x) | .movi x => some (vimmRaw 0x580 x)
  | .sadd x => some (sclRaw 0x600 x) | .ssub x => some (sclRaw 0x601 x) | .smul x => some (sclRaw 0x602 x) | .sand x => some (sclRaw 0x603 x)
  | .sor x => some (sclRaw 0x604 x) | .sxor x => some (sclRaw 0x605 x) | .sshl x => some (sclRaw 0x606 x) | .sshr x => some (sclRaw 0x607 x)
  | .smov x => some (sclRaw 0x608 x) | .ssetp x => some (sclRaw 0x609 x) | .srd x => some (srdRaw x) | .swr x => some (swrRaw x) | .clk x => some (clkRaw x)
  | .saddI x => some (sclIRaw 0x680 x) | .ssubI x => some (sclIRaw 0x681 x) | .smulI x => some (sclIRaw 0x682 x) | .sandI x => some (sclIRaw 0x683 x)
  | .sorI x => some (sclIRaw 0x684 x) | .sxorI x => some (sclIRaw 0x685 x) | .sshlI x => some (sclIRaw 0x686 x) | .sshrI x => some (sclIRaw 0x687 x)
  | .smovi x => some (sclIRaw 0x688 x)
  | .ld x => some (memRaw 0x700 x) | .st x => some (memRaw 0x701 x) | .ldaq x => some (acqRaw 0x702 x) | .strl x => some (acqRaw 0x703 x)
  | .ldln x => some (memRaw 0x704 x) | .stln x => some (memRaw 0x705 x) | .pref x => some (memRaw 0x706 x) | .sld x => some (memRaw 0x707 x)
  | .sst x => some (memRaw 0x708 x) | .fence x => some (fenceRaw x) | .waitc x => some (waitcRaw x)
  | .aadd x => some (atomRaw 0x800 x) | .amin x => some (atomRaw 0x801 x) | .amax x => some (atomRaw 0x802 x) | .aand x => some (atomRaw 0x803 x)
  | .aor x => some (atomRaw 0x804 x) | .axor x => some (atomRaw 0x805 x) | .axch x => some (atomRaw 0x806 x) | .acas x => some (atomRaw 0x807 x)
  | .afadd x => some (atomRaw 0x808 x) | .afmin x => some (atomRaw 0x809 x) | .afmax x => some (atomRaw 0x80A x)
  | .bar x => some (idRaw 0x900 x) | .bara x => some (idRaw 0x901 x) | .barw x => some (idRaw 0x902 x) | .cbar x => some (idRaw 0x903 x)
  | .ordw x => some (idRaw 0x904 x) | .ords x => some (idRaw 0x905 x) | .grow x => some (growRaw x) | .qpush x => some (qpushRaw x)
  | .cpy x => some (cpyRaw 0xA00 x) | .cpyh x => some (cpyRaw 0xA01 x) | .htst x => some (handRaw 0xA02 x) | .hcan x => some (handRaw 0xA03 x)
  | .hmov x => some (handRaw 0xA04 x)
  | .kpackA x => some (kpackRaw 0 x) | .kpackB x => some (kpackRaw 1 x) | .kpass x => some (kpassRaw 0xB01 (if x.conv then 1 else 0) x)
  | .kwin x => some (kpassRaw 0xB02 2 x) | .kext x => some (kextRaw x) | .kstab x => some (kstabRaw x)
  | .fsend x => some (fsendRaw x) | .ffence x => some (ffenceRaw x) | .fsync x => some (fsyncRaw x) | .pmig x => some (pmigRaw x)
  | _ => none

/-- The words of a well-formed instruction. -/
def encode (i : Instr) : Option SlotWord := (encodeRaw i).map pack

/-- The instruction the decoder reads from a slot whose low nbits are w and whose other bits are zero. -/
def decodeTableWord (nbits w : Nat) : Option Instr :=
  match decodeSlot (BitVec.ofNat 96 (w % 2 ^ nbits)) with
  | .ok i => some i
  | _ => none

/-- Scalar-class: class 0x6, SLD and SST, which may stand in a pair (R62). -/
def scalarOp (op : BitVec 12) : Bool := op.toNat / 256 = 6 || op = 0x707 || op = 0x708
/-- Vector-class: classes 0x1 to 0x5 (R62). -/
def vectorOp (op : BitVec 12) : Bool := 1 ≤ op.toNat / 256 && op.toNat / 256 ≤ 5

/-- A fetch line: 512 bits (R44). -/
abbrev Line := BitVec 512

/-- Slot k of a line (R44). -/
def slotOf (l : Line) (k : Nat) : SlotWord := l.extractLsb' (32 + 96 * k) 96
def lineWord (l : Line) : Word := l.extractLsb' 0 32

/-- The XOR of the bits of a word. -/
def parity (w : Nat) (x : BitVec w) : Bool := (List.range w).foldl (fun p i => xor p (x.getLsbD i)) false

/-- The parity bits that disagree: bit i for slice i, bit 15 for the line word (R48, R92). -/
def parityMask (l : Line) : Nat :=
  ((List.range 15).foldl (fun m i => if xor (parity 32 (l.extractLsb' (32 + 32 * i) 32)) ((lineWord l).getLsbD (16 + i)) then m + 2 ^ i else m) 0) +
  (if parity 32 (lineWord l) then 2 ^ 15 else 0)

/-- Slots k and k+1 form a pair (R48). -/
def pairAt (l : Line) (k : Nat) : Bool := k < 4 && (lineWord l).getLsbD (5 + k)
/-- Slot k may be entered by a transfer (R46, R48). -/
def markedAt (l : Line) (k : Nat) : Bool := k < 5 && (lineWord l).getLsbD k

/-- A template pair that R49 and R62 allow: one scalar-class and one vector-class slot, the second with the shared guard and unmarked. -/
def pairOk (l : Line) (k : Nat) : Bool :=
  let x := unpack (slotOf l k)
  let y := unpack (slotOf l (k + 1))
  ((scalarOp x.op && vectorOp y.op) || (vectorOp x.op && scalarOp y.op)) && y.g = 0x1F && !markedAt l (k + 1) && !pairAt l (k + 1)

/-- The line-word faults of R49 that raise ILLEGAL for every path that enters the line. -/
def lineIllegal (l : Line) : Bool :=
  (lineWord l).extractLsb' 9 7 ≠ 0 || (List.range 4).any fun k => pairAt l k && !pairOk l k

/-- A valid PC: line base + 4 + 12k (R44). -/
def pcSlot (pc : DWord) : Option Nat :=
  match pc.toNat % 64 with
  | 4 => some 0 | 16 => some 1 | 28 => some 2 | 40 => some 3 | 52 => some 4 | _ => none

/-- The next slot in sequence (R45, R300). -/
def nextPc (pc : DWord) : DWord := if pc.toNat % 64 = 52 then pc + 16 else pc + 12

/-- The branch target of R60. -/
def braTarget (pc : DWord) (x : BraArgs) : DWord :=
  BitVec.ofNat 64 (pc.toNat - pc.toNat % 64) + (x.off.signExtend 64) * 64 + 4 + 12 * BitVec.ofNat 64 x.slot.toNat

/-- A line with the parity bits of R48 computed. -/
def withParity (l : Line) : Line :=
  let slices := (List.range 15).foldl (fun m i => if parity 32 (l.extractLsb' (32 + 32 * i) 32) then m + 2 ^ i else m) 0
  let low := (l.extractLsb' 0 16).toNat + 2 ^ 16 * slices
  let w := low + (if parity 32 (BitVec.ofNat 32 low) then 2 ^ 31 else 0)
  l.extractLsb' 32 480 ++ BitVec.ofNat 32 w

end Sys2Proof
end

