-- ==== Sys2Proof/Machine/Tab.lean ====
section
/-! DEFINITION. Sparse tables: lists of (key, entry) with strictly rising keys. Registers and memory use the canonical form, in which no entry equals what an unlisted key reads as. -/

namespace Sys2Proof.Machine

/-- A sparse table. -/
abbrev Tab (α : Type) := List (Nat × α)

/-- The entry at a key, or the default. -/
def tabGet {α : Type} (d : α) : Tab α → Nat → α
  | [], _ => d
  | (k, v) :: t, i => if k = i then v else tabGet d t i

/-- The entry at a key, if there is one. -/
def tabFind {α : Type} : Tab α → Nat → Option α
  | [], _ => none
  | (k, v) :: t, i => if k = i then some v else tabFind t i

/-- Remove the entry at a key. -/
def tabDel {α : Type} : Tab α → Nat → Tab α
  | [], _ => []
  | (k, v) :: t, i => if k = i then tabDel t i else (k, v) :: tabDel t i

/-- Insert or replace, keeping the keys rising. -/
def tabPut {α : Type} : Tab α → Nat → α → Tab α
  | [], i, x => [(i, x)]
  | (k, v) :: t, i, x =>
    if k = i then (i, x) :: t else if i < k then (i, x) :: (k, v) :: t else (k, v) :: tabPut t i x

/-- Write keeping the canonical form: the default removes the entry. -/
def tabSet {α : Type} [DecidableEq α] (d : α) (t : Tab α) (i : Nat) (x : α) : Tab α :=
  if x = d then tabDel t i else tabPut t i x

/-- Entries in which two tables differ, with the first table's values. -/
def tabDiff {α : Type} [DecidableEq α] (d : α) (a b : Tab α) : Tab α :=
  let val (t : Tab α) (k : Nat) : α := tabGet d t k
  (a.filter fun e => val b e.1 ≠ e.2) ++ (b.filterMap fun e => if (tabFind a e.1).isNone && e.2 ≠ d then some (e.1, d) else none)

/-- Keys strictly rising above a bound. -/
def tabSorted {α : Type} : Nat → Tab α → Bool
  | _, [] => true
  | lo, (k, _) :: t => decide (lo ≤ k) && tabSorted (k + 1) t

/-- The canonical form: keys strictly rising, and no entry equal to the default. -/
def tabWf {α : Type} [DecidableEq α] (d : α) (t : Tab α) : Bool := tabSorted 0 t && t.all fun e => decide (e.2 ≠ d)

/-- Insert into a sorted list, behind what is not above it. -/
def insertBy {α : Type} (le : α → α → Bool) (x : α) : List α → List α
  | [] => [x]
  | y :: l => if le y x then y :: insertBy le x l else x :: y :: l
/-- Sort a list by a test of "not above"; equals keep their order. -/
def sortBy {α : Type} (le : α → α → Bool) (l : List α) : List α := l.foldl (fun t x => insertBy le x t) []

end Sys2Proof.Machine
end

