-- ==== Sys2Proof/Machine/State.lean ====
section
/-! DEFINITION. The state of one GZ-9601 module as plain data: the groups and teams resident on its cores, its memories and their metadata, its agents' tables, its engines, its fabric and its registers. -/

namespace Sys2Proof.Machine

/-- What stops the machine. -/
inductive Fault where
  /-- Raised by an event that names an object (a queue, an operation, an entry, a grid) which the module does not hold. Safe: the spec gives no such event an effect, and no run makes one. -/
  | noSuchObject
  deriving DecidableEq, Repr

/-- What has no meaning. -/
inductive Refusal where
  /-- Raised by an arm of exec whose instruction has no meaning yet, by the mnemonic of the table. Safe: nothing follows. -/
  | notModelled (mnemonic : String)
  deriving DecidableEq, Repr

/-- Why a lane is not runnable (R21). -/
inductive Wait where
  | run
  | exited
  /-- at the RJOIN of reconvergence entry e (R29) -/
  | rjoin (e : Nat)
  /-- at BAR b (R33) -/
  | bar (b : Nat)
  /-- held while arriving again at b; `again` says whether at BAR or BARA (R33) -/
  | barAgain (b : Nat) (atBar : Bool)
  /-- at BARW b (R33) -/
  | barw (b : Nat)
  /-- at CBAR b (R36) -/
  | cbar (b : Nat)
  /-- held while arriving again at CBAR b -/
  | cbarAgain (b : Nat)
  /-- at ORDW k (R41) -/
  | ordw (k : Nat)
  /-- on a handle: the operation that the lane waits for (R90) -/
  | handle (op : Nat)
  /-- parked on an absent scratchpad line by log entry e (R107) -/
  | parked (e : Nat)
  /-- parked at KEXT with the other lanes of its path, whose image, if it reads one, touches an absent line (R107, R339) -/
  | image (path : LaneMask) (addr : Option Nat)
  /-- stopped by a trap under policy 1, until RTRAP (R92, R354) -/
  | held
  deriving DecidableEq, Repr

/-- A latch chain in progress on a path (R64, R66). -/
structure Chain where
  first : DWord
  /-- members so far; 16 when the chain has committed with its 16th (R64) -/
  members : Nat
  /-- vector registers before the chain wrote them: key 32·register + lane, newest first -/
  undoV : List (Nat × Word)
  /-- predicates before the chain wrote them, by lane, newest first -/
  undoP : List (Nat × BitVec 16)
  flags : DWord
  deriving DecidableEq, Repr

/-- A path's bypass ring (R63): latch k of lane i at key 32·k + i. -/
structure Ring where
  mask : LaneMask
  vals : Tab DWord
  chain : Option Chain
  deriving DecidableEq, Repr

/-- A group's registers and path state (R87 to R91). -/
structure Group where
  /-- vector registers, key 32·register + lane (R87) -/
  v : Tab Word
  /-- scalar registers (R87) -/
  sr : Tab DWord
  /-- predicates p0 to p14 by lane; bit 15 stays zero (R87) -/
  p : Tab (BitVec 16)
  /-- handles' operation tags, key 16·lane + handle; 0 is idle (R87, R90) -/
  h : Tab Nat
  /-- handles whose operation's failure has been reported, so that they are complete (R90), by the same key -/
  told : Tab Bool
  /-- program counters by lane (R7) -/
  pc : Tab DWord
  /-- why a lane does not run (R21) -/
  wait : Tab Wait
  /-- innermost reconvergence entry by lane, plus one; 0 for none (R27) -/
  inner : Tab Nat
  /-- RETIRED by lane (R88) -/
  retired : Tab Nat
  rings : List Ring
  /-- STATUS (R89) -/
  status : DWord
  /-- outstanding event marks of COPY, KILN, ATOMNR, FABRIC, oldest first (R91) -/
  ctr : Tab (List Nat)
  /-- greatest performed time of the lane's own stores (R137) -/
  storeP : Tab Nat
  /-- greatest performed time plus ε(scope) of the lane's own atomics (R137) -/
  atomP : Tab Nat
  /-- greatest performed time of the lane's stores and atomics that device d performed (R155): key 1,024·lane + d -/
  farP : Tab Nat
  /-- marked as spinning (R39) -/
  yieldMark : Bool
  /-- the first cycle in which YIELD's exclusion has ended (R39) -/
  yieldUntil : Nat
  /-- the first cycle in which a causal trial's hold has ended (R276) -/
  trialUntil : Nat
  /-- issued outside the trial's range in this quantum (R276) -/
  trialOut : Bool
  /-- lowest lane, plus one, of the path that issued last (R280) -/
  rot : Nat
  deriving DecidableEq, Repr

def Group.empty : Group :=
  { v := [], sr := [], p := [], h := [], told := [], pc := [], wait := [], inner := [], retired := [], rings := [], status := 0, ctr := [],
    storeP := [], atomP := [], farP := [], yieldMark := false, yieldUntil := 0, trialUntil := 0, trialOut := false, rot := 0 }

/-- A barrier id of a team or cluster (R33): the sets are bit masks over thread indices. -/
structure Barrier where
  phase : Bool
  arrived : Nat
  marks : Nat
  /-- of the marked threads, those whose phase has not completed yet -/
  markOpen : Nat
  timer : Nat
  deriving DecidableEq, Repr

def Barrier.empty : Barrier := ⟨false, 0, 0, 0, 0⟩

/-- A resident team (R16, R17, R100). Key: 16·core + slot. -/
structure Team where
  grid : Nat
  index : Nat
  x : Nat
  y : Nat
  z : Nat
  groups : Nat
  q0 : Nat
  prio : Nat
  det : Bool
  clrank : Nat
  regs : Nat
  depth : Nat
  scratch : Nat
  /-- first byte of the allocation in the core's scratchpad -/
  scratchAt : Nat
  /-- vault allocation, as a VAULT offset -/
  vaultAt : Nat
  vault : Nat
  privSize : Nat
  bartmo : Nat
  ctx : Nat
  asid : Nat
  /-- cycle of the LNCH that started or resumed it (R22) -/
  age : Nat
  /-- cycle of its last issue of a non-spinning instruction (R40) -/
  lastWork : Nat
  bars : Tab Barrier
  /-- held under trap policy 1 (R92) -/
  held : Bool
  /-- halted by pre-emption (R98) -/
  halted : Bool
  /-- cluster number, when the grid is clustered -/
  cluster : Nat
  deriving DecidableEq, Repr

/-- A replay checkpoint of a grid (R280): GTIME, the teams' context records, and the grid's own counts then. -/
structure Ckpt where
  gtime : Nat
  records : List Nat
  next : Nat
  nextCluster : Nat
  count : Nat
  nx : Nat
  retired : Tab Nat
  ords : Tab Nat
  signalled : Tab Nat
  cbars : Tab Barrier
  deriving DecidableEq, Repr

/-- An active grid (R15, R259). -/
structure Grid where
  queue : Nat
  seq : Nat
  kernel : Kernel
  nx : Nat
  ny : Nat
  nz : Nat
  /-- current team count, as raised by GROW (R38) -/
  count : Nat
  /-- next ticket (R263) -/
  next : Nat
  groups : Nat
  prio : Nat
  policy : Nat
  privSize : Nat
  bartmo : Nat
  spinth : Nat
  save : Nat
  saveSize : Nat
  root : Nat
  esum : Nat
  scales : Nat
  spillAt : Nat
  spill : List (Nat × Nat)
  /-- packets spilled so far, which gives the next one its place in the spill area; `spill` holds each waiting packet's queue and place (R262) -/
  spilled : Nat
  ctx : Nat
  asid : Nat
  /-- teams retired, with the time from which they count for the frontiers (R41) -/
  retired : Tab Nat
  /-- ORDS signals: key 16·team + k, the lanes that executed it, as a bit mask over TIDs (R41) -/
  ords : Tab Nat
  /-- teams that have signalled section k: key 16·team + k, the performed time of the last signalling fence -/
  signalled : Tab Nat
  /-- aborted by a trap or by QCTL: the completion status, and the error record's sequence -/
  aborted : Option (Nat × Nat)
  held : Bool
  suspended : Bool
  /-- teams waiting to resume: numbers of context records (R267) -/
  resume : List Nat
  /-- replay mode (R279) -/
  replay : Bool
  /-- number of the next cluster ticket -/
  nextCluster : Nat
  /-- checkpoints taken, oldest first (R280) -/
  checkpoints : List Ckpt
  /-- a replay stop is being approached (R281) -/
  stopping : Bool
  /-- its teams are being switched out for a replay stop (R281) -/
  halting : Bool
  /-- error record of the first team that RTRAP aborted, or 0 (R264, R354) -/
  trapped : Nat
  /-- GTIME before which a failed cluster reservation is not tried again (R263) -/
  retryAt : Nat
  deriving DecidableEq, Repr

/-- What one operand-log entry is to do (R94). -/
inductive LogKind where
  | load | store | acquire | release | lineLoad | lineStore | prefetch | atomic
  deriving DecidableEq, Repr

/-- How far one part of a log entry has come. -/
inductive LaneSt where
  /-- not performed -/
  | todo
  /-- waiting for the service of a page (R95): VA[56:16] -/
  | faulted (page : Nat)
  /-- sent to another device (R205), or waiting for its owner's answer -/
  | sent
  /-- performed -/
  | done
  deriving DecidableEq, Repr

/-- An operand-log entry (R94): the instruction's lanes, captured at issue. A part is one single-copy unit of one lane's access, at key 64·lane + k (R147, R343). -/
structure Log where
  gk : Nat
  pc : DWord
  /-- the instruction's 96 bits -/
  slot : BitVec 96
  kind : LogKind
  mask : LaneMask
  /-- lanes whose guard was true -/
  lanes : LaneMask
  /-- bytes of one lane's access, and of one part -/
  width : Nat
  unit : Nat
  /-- address by lane -/
  addr : Tab Nat
  /-- store data and operands by part; an atomic's comparand at key 64·lane + 32 -/
  data : Tab Nat
  /-- first destination register and its count; scalar says whether it is a scalar register and one access serves every lane (R346) -/
  dst : Nat
  cnt : Nat
  scalar : Bool
  /-- returned bytes by lane, kept until all are written at once (R97) -/
  got : Tab Nat
  st : Tab LaneSt
  /-- some part has waited for service (R96) -/
  waited : Bool
  scope : Scope
  /-- the atomic, for kind atomic -/
  atom : Option Instr
  nr : Bool
  /-- the mark under which a no-return atomic counts (R91) -/
  mark : Nat
  /-- the greatest GTIME of an acquiring read at its slice or array (R146), or performed time of a no-return atomic (R150) -/
  tr : Nat
  /-- the path is parked until every scratchpad line is present (R107) -/
  parked : Bool
  /-- cycle of issue: entries of one group and cycle are one combined event (R344) -/
  cycle : Nat
  /-- instructions the group issued after this one faulted (R93) -/
  after : Nat
  /-- of a pair's SLD or SST, what undoes its vector slot, should the access trap (R62): vector registers and predicates before and after the slot, its new flags, and its path's latches before and after; what a later slot writes is taken out -/
  undoV : List (Nat × Word × Word)
  undoP : List (Nat × BitVec 16 × BitVec 16)
  undoF : DWord
  undoL : Tab DWord × Tab DWord
  deriving DecidableEq, Repr

def Log.empty : Log :=
  { gk := 0, pc := 0, slot := 0, kind := .load, mask := 0, lanes := 0, width := 1, unit := 1, addr := [], data := [], dst := 0, cnt := 0, scalar := false,
    got := [], st := [], waited := false, scope := .team, atom := none, nr := false, mark := 0, tr := 0, parked := false, cycle := 0, after := 0, undoV := [], undoP := [], undoF := 0, undoL := ([], []) }

/-- An exact-sum region of a context (R151), as the agent loaded it; `block` is the GLOBAL address of its descriptor. -/
structure Esum where
  backing : Nat
  size : Nat
  base : Nat
  f64 : Bool
  lsb : Int
  block : Nat
  deriving DecidableEq, Repr

/-- What an engine operation is (R90, R91). -/
inductive OpKind where
  | copy | tile | kpass | kwin | fsend | pmig | atomNr | ffence | fsync
  deriving DecidableEq, Repr

inductive OpSt where
  | pending | complete | failed
  deriving DecidableEq, Repr

/-- An engine operation, which handles follow by its tag (R90). -/
structure Op where
  kind : OpKind
  gk : Nat
  lane : Nat
  mark : Nat
  st : OpSt
  /-- result code of the status word -/
  result : Nat
  detail : Nat
  /-- address at which it failed (R93) -/
  badAt : Nat
  /-- greatest performed time of its writes (R154), and of those that each device has performed (R155) -/
  perf : Nat
  far : Tab Nat
  /-- PC that issued it (R90) -/
  pc : DWord
  asid : Nat
  ctx : Nat
  /-- operands captured at issue: for a copy destination, source, length; for a tile destination, source, source pitch, H, W, element size, hy, hx, destination pitch; for PMIG the page; for FFENCE device, address, value; for flows flow, transfer, offset, bytes, source -/
  args : List Nat
  /-- source bytes read so far (copies): list position is the byte's index -/
  src : List Byte
  /-- destination lines still to be written (copies), output elements (passes), blocks still to be queued (flows), and prior stores that a trap has taken (FFENCE) -/
  todo : List Nat
  /-- bytes that other devices have returned for it, by address -/
  got : Tab Nat
  /-- its failure has been raised (R90) -/
  reported : Bool
  deriving DecidableEq, Repr

/-- One line of an L1 cache (R138). -/
structure L1Line where
  data : List Byte
  expiry : Nat
  /-- a row-1 lease, until the kernel boundary, of this context (R138, R140) -/
  row1 : Bool
  ctx : Nat
  /-- fetched from another device -/
  remote : Bool
  deriving DecidableEq, Repr

/-- One TLB entry (R120): page size in bytes and the entry's 64 bits. -/
structure TlbEntry where
  asid : Nat
  base : Nat
  size : Nat
  entry : DWord
  deriving DecidableEq, Repr

/-- A request of a die's walk queue (R121). -/
structure Walk where
  asid : Nat
  vpn : Nat
  /-- the walk has returned an entry that no TLB holds, which waits for its requester -/
  back : Bool
  deriving DecidableEq, Repr

/-- A core (R16, R106, R120). -/
structure Core where
  /-- the idle count of R40 -/
  idle : Nat
  tlb : List TlbEntry
  /-- L1 by physical line number -/
  l1 : Tab L1Line
  /-- instruction cache: key is the line's physical number, the line, and whether it failed parity twice -/
  icache : Tab (BitVec 512 × Bool)
  /-- lines of other devices whose fetch has failed, by the key of the instruction cache: cause, subcode and detail of the trap at the first PC that issues from it (R47) -/
  noLine : Tab (Nat × Nat × Nat)
  /-- the coefficient memory (R168); a byte beyond the list reads zero -/
  coef : List Byte
  /-- a latched pre-emption request and the team it is for (R98) -/
  preempt : Option Nat
  /-- memory instructions stall until a place of the die's walk queue frees (R121) -/
  walkStall : Bool
  /-- the request comes from the SUSPEND of a queue (R261) -/
  forSusp : Bool
  /-- the cycle in which the core halts for it -/
  haltAt : Nat
  /-- error records written when the request was latched (R99) -/
  haltErr : Nat
  /-- how the halt that PREM waits for has ended, until PREM has read it (R353) -/
  premOut : Option Nat
  /-- PREM waits for the halt's decision -/
  premWait : Bool
  /-- the agent's heartbeat: cycle of its last sign of life (R268) -/
  beat : Nat
  deriving DecidableEq, Repr

def Core.empty : Core :=
  { idle := 0, tlb := [], l1 := [], icache := [], noLine := [], coef := [], preempt := none, walkStall := false, forSusp := false, haltAt := 0, haltErr := 0, premOut := none, premWait := false, beat := 0 }

/-- A frame table entry (R124). -/
structure Frame where
  ctx : Nat
  q : Bool
  p : Bool
  f : Bool
  d : Bool
  a : Bool
  deriving DecidableEq, Repr

/-- Frame table entry after reset: F set (R124). -/
def Frame.free : Frame := ⟨0, false, false, true, false, false⟩

/-- A frame on its way out (R125): where its leaf lies, the leaf itself, whether the page has been sent to a peer, and which. -/
structure Evict where
  at_ : Nat
  leaf : DWord
  sent : Bool
  peer : Nat
  deriving DecidableEq, Repr

/-- A page on its way back from a peer (R119): its lines so far, and whether the peer holds no such frame. -/
structure Pull where
  lines : Tab Nat
  missing : Bool
  deriving DecidableEq, Repr

/-- An entry of the origin directory (R127). -/
structure DirEntry where
  /-- 0 to 255, or 256 for HOST -/
  owner : Nat
  gen : Nat
  /-- the granted migration: old and new owner -/
  migrating : Option (Nat × Nat)
  stubs : List (Nat × Nat)
  /-- waiting requests: destination device and operation tag (0 when from the host) -/
  queue : List (Nat × Nat)
  /-- REPOINTs that have not been acknowledged, each by its device and generation (R134, R135) -/
  repoints : List (Nat × Nat)
  /-- a page whose owner is another device: 0, 1 while the owner is asked whether a running grid maps it with K, 2 once it has answered that none does (R129) -/
  asked : Nat
  /-- for owner HOST: the lease horizon that host memory has inherited (R132) -/
  horizon : Nat
  deriving DecidableEq, Repr

/-- An owner-cache entry (R128); owner 256 is HOST, and 512 marks a query to the origin that is under way. -/
structure OwnerEntry where
  owner : Nat
  gen : Nat
  pending : Bool
  expiry : Nat
  through : Nat
  /-- accesses held at the port while PENDING (R133) -/
  held : List Pkt
  deriving DecidableEq, Repr

/-- This device's part in one migration, as old or as new owner (R130). -/
structure Mig where
  /-- true when this device is the old owner -/
  old : Bool
  /-- true when the old owner is HOST: the lines are the origin's host memory, and there is no frame -/
  host : Bool
  /-- true when the new owner is HOST: the lines go to the origin's host memory -/
  toHost : Bool
  peer : Nat
  origin : Nat
  pa : Nat
  /-- the old owner's leaf, whose permissions and attributes the new owner's leaf takes -/
  leaf : DWord
  /-- generation after the move -/
  gen : Nat
  /-- the request's operation tag at the new owner -/
  tag : Nat
  /-- lines sent so far (old owner), or arrived so far (new owner) -/
  copied : Nat
  /-- lines written after they were sent (old owner) -/
  dirty : List Nat
  switched : Bool
  /-- accesses held at the port from the switchover on (R130) -/
  held : List Pkt
  horizon : Nat
  /-- the new owner has written its leaf -/
  installed : Bool
  /-- the old owner has answered that it has the acknowledgement of the installation, and is a stub (R380) -/
  acked : Bool
  /-- the move stands, and DONE is on its way (R380) -/
  stood : Bool
  deriving DecidableEq, Repr

/-- A forwarding stub (R133 to R135). -/
structure Stub where
  target : Nat
  gen : Nat
  /-- time of the directory update, once the origin has told it -/
  td : Option Nat
  deriving DecidableEq, Repr

/-- An access of this device to a page of another (R205). -/
structure Remote where
  entry : Nat
  lane : Nat
  peer : Nat
  pkt : Pkt
  /-- the response timer's stamp -/
  stamp : Nat
  resent : Nat
  through : Bool
  deriving DecidableEq, Repr

/-- A sent, unacknowledged packet (R204). -/
structure Sent where
  pkt : Pkt
  time : Nat
  tries : Nat
  deriving DecidableEq, Repr

/-- What the module keeps for one peer (R200 to R204). -/
structure Peer where
  down : Bool
  /-- next sequence number to send, by class -/
  nextSeq : Tab Nat
  /-- next sequence number to deliver, by class -/
  expect : Tab Nat
  sent : List Sent
  /-- early ordered packets (R203) -/
  reorder : List Pkt
  /-- FIFOs: link control, relayed, ordered, bulk (R200) -/
  link : List Pkt
  relay : List Pkt
  ordered : List Pkt
  bulk : List Pkt
  /-- bytes of relay credit left of the peer's grant for this slot (R202) -/
  credit : Nat
  /-- coded blocks the peer lets this device have unacknowledged (R225) -/
  flowCredit : Nat
  /-- requests of this peer parked in the fault queue (R205) -/
  parked : List Pkt
  deriving DecidableEq, Repr

def Peer.empty : Peer :=
  { down := false, nextSeq := [], expect := [], sent := [], reorder := [], link := [], relay := [], ordered := [],
    bulk := [], credit := 0, flowCredit := 64, parked := [] }

/-- A port's link and status (R208 to R214, R218). Ports 0 to 63 transmit, 64 to 127 receive. -/
structure Port where
  set : BitVec 64
  parked : BitVec 64
  keystop : Bool
  down : Bool
  peer : Nat
  handoffs : Nat
  uncorrectable : Nat
  corrected : Nat
  /-- health score by wavelength (R211) -/
  health : Tab Nat
  /-- unhealthy wavelengths: from the slot boundary after their score exceeded the threshold until the agent writes it to 0 (R211) -/
  sick : BitVec 64
  /-- corrected bits of this slot by wavelength -/
  bits : Tab Nat
  /-- heater drive code by wavelength (R214) -/
  heater : Tab Nat
  /-- flits sent and unacknowledged, by link sequence (R209) -/
  replay : Tab Flit
  nextLink : Nat
  /-- next link sequence to pass on, and the flits held for it -/
  expectLink : Nat
  early : Tab Flit
  /-- the failed copies of named flits (R209) -/
  failed : Tab Flit
  /-- payload bytes of the packet being received -/
  partialPkt : List Flit
  /-- the receive-health mask that each peer last sent for the fibre (R212) -/
  peerHealth : Tab (BitVec 64)
  /-- parked wavelengths on their way back, each with the GTIME from which they may join (R213) -/
  wakes : List (BitVec 64 × Nat)
  /-- the fibre carries no traffic in this slot: its bank shifts (R214), or no copy of its SLOTHDR passed (R210) -/
  dark : Bool
  /-- traffic allowed in this slot: a SLOTHDR was received (R210) -/
  live : Bool
  /-- a packet is being relayed cut-through (R215): on a receive port, the transmit fibre it goes to; on a transmit port, the receive fibre it comes from -/
  cutting : Option Nat
  /-- on a transmit port: the flit counter of the cut-through packet's first flit (R217) -/
  cutAt : Nat
  /-- when the fibre's transmitter is free again, in 1/64 ns (R200, R208) -/
  freeAt : Nat
  /-- relayed packets on their way out: last link sequence number and bytes of relay buffer (R202) -/
  relayOut : List (Nat × Nat)
  /-- the ring bank is to shift at the next slot boundary (R214) -/
  shift : Bool
  /-- ring i works at wavelength (i + bank) mod 64 (R214) -/
  bank : Nat
  deriving DecidableEq, Repr

def Port.empty : Port :=
  { set := 0, parked := 0, keystop := false, down := true, peer := 0, handoffs := 0, uncorrectable := 0, corrected := 0, health := [],
    sick := 0, bits := [], heater := [], replay := [], nextLink := 0, expectLink := 0, early := [], failed := [], partialPkt := [],
    peerHealth := [], wakes := [], dark := false, live := false, cutting := none, cutAt := 0,
    freeAt := 0, relayOut := [], shift := false, bank := 0 }

/-- A fabric key (R216, R217): the epoch, the flit counter, and the pair's secret under which it stands; a receiver holds the secret of the epoch that comes next, and how many flits have been sent under it, until a packet under it has arrived. -/
structure Key where
  epoch : Nat
  counter : Nat
  rekeying : Bool
  stopped : Bool
  secret : Option Nat
  next : Option (Nat × Nat)
  deriving DecidableEq, Repr

/-- What a receiver has seen of an open transfer (R229): its number, its first and last block (2^40 until known), the blocks applied, how many bytes of its last block it covers, and the latest performed time of their writes. -/
structure Xfer where
  t : Nat
  first : Nat
  last : Nat
  seen : List Nat
  cover : Nat
  perf : Nat
  deriving DecidableEq, Repr

/-- What a block was last sent for: the transfer, 2·first + last, and how many bytes of the block it covers. -/
structure SendTag where
  t : Nat
  flags : Nat
  cover : Nat
  deriving DecidableEq, Repr

/-- One end of a residual flow (R219 to R221). -/
structure Flow where
  sender : Bool
  multi : Bool
  ctx : Nat
  mirror : Nat
  deliver : Nat
  table : Nat
  record : Nat
  frame : Nat
  esize : Nat
  source : Nat
  dests : List Nat
  asid : Nat
  nextTransfer : Nat
  /-- sender: what each block's latest state was sent for, and, for multicast, what its base was sent for -/
  lastSent : Tab SendTag
  baseSent : Tab SendTag
  /-- receiver: transfers completed, and raw blocks applied -/
  done : Nat
  raws : Nat
  /-- receiver: the open transfers, and the latest performed time of any write of the completed ones -/
  running : List Xfer
  perf : Nat
  /-- sender: when each block was last queued (R226) -/
  queuedAt : Tab Nat
  /-- mirror planes by block, kept by the engine: the latest values sent or received; a block not listed is zero -/
  plane0 : Tab (List Byte)
  plane1 : Tab (List Byte)
  /-- generation table by block: base or G_r or plane 0, and latest or plane 1 -/
  gen0 : Tab Nat
  gen1 : Tab Nat
  inflight : Tab Bool
  owed : Tab Bool
  /-- receiver: the arrival records still to be written: count, bytes, and the time before which the release waits (R229) -/
  records : List (Nat × Nat × Nat)
  /-- multicast, key 16·block + slot -/
  ackGen : Tab Nat
  slotFlight : Tab Bool
  slotQueued : Tab Bool
  slotBehind : Tab Bool
  /-- the block in flight for a slot is the raw base that it gets for being behind (R232) -/
  slotRaw : Tab Bool
  /-- sender: segments of a block still to be queued, key 16·block + slot (R225, R235) -/
  rest : Tab (List (List Nat))
  /-- multicast receiver: the number after that of the latest transfer applied, by block; and the spans of transfers in which a block has skipped states: first number, number after the last, and how many states (R229, R230) -/
  latestT : Tab Nat
  spans : List (Nat × Nat × Nat)
  deriving DecidableEq, Repr

/-- A reassembly buffer (R225): its flow's source, flow, block (none until its first segment, which names it, has arrived), transfer, raw bit, length, and bytes by offset; `starts` are the transport sequence numbers of its first segments, one for each time that it has been sent. -/
structure Reasm where
  src : Nat
  flow : Nat
  block : Option Nat
  starts : List Nat
  transfer : Nat
  raw : Bool
  len : Nat
  bytes : Tab Nat
  first : Bool
  last : Bool
  stamp : Nat
  deriving DecidableEq, Repr

/-- QSTATE codes (R261). -/
inductive QState where
  | idle | running | waiting | suspended | seqerr | overrun | ringfault
  deriving DecidableEq, Repr

/-- A queue (R255, R256, R261). -/
structure Queue where
  ring : Nat
  log2 : Nat
  prio : Nat
  devWrite : Bool
  asid : Nat
  ctx : Nat
  compRing : Nat
  status : Nat
  write : Nat
  read : Nat
  state : QState
  /-- producer sequence last accepted, and last completed in order -/
  accepted : Nat
  completed : Nat
  /-- sequences completed out of order -/
  doneSet : List Nat
  nextSeq : Nat
  /-- a WAIT that holds the queue: its sequence, address and value -/
  waiting : Option (Nat × Nat × Nat)
  /-- GTIME since which its head has been claimable -/
  since : Nat
  /-- GTIME of the last check of the WAIT that holds it (R260) -/
  checkAt : Nat
  /-- its head has BARRIER and waits for the earlier packets (R257) -/
  barrier : Bool
  /-- index of a packet whose KICK disagreed with it (R261) -/
  badAt : Option Nat
  /-- signals of accepted packets that have not completed, by sequence; those in place of which an update is barred are absent (R257, R259) -/
  signals : Tab Nat
  /-- completion records written to its ring (R255) -/
  compCount : Nat
  workPending : Bool
  /-- SUSPEND of QCTL (R261) -/
  susp : Bool
  deriving DecidableEq, Repr

/-- A pass request of one quarter (R186). -/
structure Kreq where
  gk : Nat
  chamber : Nat
  /-- operation tag by lane 0 to 31; 0 for a lane without a part -/
  ops : Tab Nat
  mode : Nat
  fmt : Word
  steps : Nat
  base : DWord
  ss : DWord
  sel : DWord
  /-- digit stream bytes by lane -/
  digits : Tab (List Nat)
  /-- A scale word by lane -/
  ascale : Tab Word
  dst : Tab DWord
  /-- plates once fetched, as signed numbers -/
  plates : List Int
  /-- B scales once fetched, by slot -/
  scales : List Nat
  eligible : Bool
  /-- a line of its scales has missed the scale cache and is on its way, which stalls the chamber (R187) -/
  miss : Bool
  issued : Nat
  /-- cycle of firing, once fired -/
  fired : Option Nat
  /-- accumulator by lane once fired -/
  acc : Tab Int
  prio : Nat
  deriving DecidableEq, Repr

/-- A line of a Kiln's scale cache (R187): the context and tensor id, its address, and its 64 bytes as a number. -/
structure ScaleLine where
  ctx : Nat
  id : Nat
  at_ : Nat
  data : Nat
  deriving DecidableEq, Repr

/-- A context record (R100), held whole. A team that is switched out stands in the tables of teams, groups, log entries and operations under a key above every core's (`tk`), and the record keeps what belonged to its place. A checkpoint's record keeps copies of those too. -/
structure Record where
  tk : Nat
  grid : Nat
  /-- bytes that it takes in the save area -/
  size : Nat
  team : Team
  groups : List (Nat × Group)
  logs : Tab Log
  ops : Tab Op
  kreqs : Tab Kreq
  /-- bytes of the scratchpad allocation -/
  scratch : List Byte
  /-- absent lines of the allocation with the copies that are to fill them -/
  filling : Tab (List Nat)
  complete : Bool
  /-- bytes of it that the agent has written into the save area -/
  wrote : Nat
  /-- GTIME before which the team may not resume (R320) -/
  notBefore : Nat
  /-- number of the first grid that became active after the team was switched out: the tickets of older grids waited before it (R40) -/
  after : Nat
  deriving DecidableEq, Repr

/-- The traps' fields of R93, kept to be written to the error ring. -/
structure ErrRec where
  seq : Nat
  packet : Nat
  team : Nat
  gid : Nat
  cause : Nat
  sub : Nat
  pc : DWord
  restart : DWord
  mask : LaneMask
  causeMask : LaneMask
  pc2 : DWord
  mask2 : LaneMask
  detail : Nat
  gtime : Nat
  addr : DWord
  retired : Nat
  after : Nat
  issuePc : DWord
  arrived : Nat
  gk : Nat
  deriving DecidableEq, Repr

/-- What became of the slot that last issued. -/
inductive Verdict where
  | done | stalled | trapped
  deriving DecidableEq, Repr

/-- What a pair's slots share (R62): the first slot's true-guard lanes, and what the state held before either slot wrote. -/
structure PairSt where
  mask : LaneMask
  sr : Tab DWord
  p : Tab (BitVec 16)
  /-- the next operand-log entry's number: an entry from there on is the pair's own -/
  nextLog : Nat
  /-- the special register that a vector slot SGET reads, by lane -/
  spr : Tab DWord
  deriving DecidableEq, Repr

/-- The issuing path: which group, which lanes, at which PC (R21 to R23), and the other path of a combined event (R26). -/
structure Issue where
  gk : Nat
  mask : LaneMask
  pc : DWord
  pc2 : DWord
  mask2 : LaneMask
  /-- the bits of the slot that issues (R94) -/
  word : BitVec 96
  /-- set while the slot is one of a pair's two (R62) -/
  pair : Option PairSt
  verdict : Verdict
  deriving DecidableEq, Repr

def Issue.none : Issue := ⟨0, 0, 0, 0, 0, 0, Option.none, .done⟩

/-- Memories and their metadata. Memory bytes are canonical: no listed byte is zero (R101, R379). -/
structure MemSt where
  /-- device DRAM by physical address (R111, R379) -/
  dram : List Host.Cell
  /-- vaults by VAULT offset (R108) -/
  vault : List Host.Cell
  /-- scratchpads: 262,144·core + byte (R106) -/
  scratch : List Host.Cell
  /-- host memory as the module reaches it over CXL.cache (R271) -/
  host : List Host.Cell
  /-- scratchpad lines whose presence bit is clear: 2,048·core + line (R106, R107) -/
  absent : Tab Bool
  /-- pending copies by scratchpad line, newest first: 2,048·core + line (R113) -/
  filling : Tab (List Nat)
  /-- latest expiry of any lease, by physical line (R137, R138) -/
  horizon : Tab Nat
  /-- GTIME of the last store or atomic, by physical line (R138) -/
  lastWrite : Tab Nat
  /-- lines resident in the home slices (R111) -/
  resident : Tab Bool
  frames : Tab Frame
  coldQueue : List Nat
  /-- sweeper hand by tower (R125) -/
  hands : Tab Nat
  /-- watermark M in tenths of a percent (R125) -/
  watermark : Nat
  /-- frames retired (R2) -/
  retired : List Nat
  /-- which context last held a scratchpad line: 2,048·core + line (R101) -/
  holder : Tab Nat
  /-- vault bytes held: offset ↦ (size, context) (R105, R108) -/
  vaultAlloc : Tab (Nat × Nat)
  /-- context, plus one, that held a 64 KiB block of a vault last (R101) -/
  vaultHolder : Tab Nat
  /-- exact-sum regions loaded for a context: 8·ASID + descriptor (R151) -/
  esums : Tab Esum
  /-- indexes of the host pages held for the module (R119) -/
  hostPages : List Nat
  /-- frames that firmware is evicting (R125) -/
  evicting : Tab Evict
  /-- pages that the agent pulls back from a peer: key 2^40·peer + frame there (R119) -/
  away : Tab Pull
  /-- frames held for pages of other devices: the device, its own frame number, and the lines that have arrived (R125) -/
  guests : Tab (Nat × Nat × Nat)
  /-- frames that firmware has pinned by ranges: first frame, count and context (R124) -/
  pinned : List (Nat × Nat × Nat)
  /-- what the host's reads over CXL.mem have answered, newest last: the address of the 64-byte line and its bytes as a number (R379) -/
  hostReads : List (Nat × Nat)
  deriving DecidableEq, Repr

/-- The answer of another device to an access that takes no log entry and is no engine's (KSTAB's, the agent's): who waits for it, which access it was, the bytes it read, its performed time, the device that performed it, and the cause, subcode and detail of its failure. -/
structure Reply where
  waiter : Nat
  place : Nat
  value : Nat
  time : Nat
  dev : Nat
  fails : Option (Nat × Nat × Nat)
  deriving DecidableEq, Repr

/-- Pages of the pod (R127 to R135). Keys: 2^41·asid + VA[56:16]. -/
structure ShareSt where
  dir : Tab DirEntry
  owners : Tab OwnerEntry
  migs : Tab Mig
  stubs : Tab Stub
  /-- outstanding accesses to other devices -/
  remote : Tab Remote
  nextRemote : Nat
  /-- GTIME of the last keep-waiting notices (R205) -/
  notice : Nat
  /-- answers of other devices that KSTAB or the agent has still to take -/
  answers : List Reply
  deriving DecidableEq, Repr

/-- The Miraux port (R195 to R218). -/
structure FabSt where
  slotNs : Nat
  epoch : Nat
  n : Nat
  slot : Nat
  relayTh : Nat
  bulkTh : Nat
  phases : Tab Nat
  inService : Tab Bool
  peers : Tab Peer
  ports : Tab Port
  /-- keys: 64·peer + fibre -/
  keys : Tab Key
  /-- bytes of the relay buffer in use (R202) -/
  relayUsed : Nat
  /-- pair secrets in the key store, by peer, and the peers whose signature has failed (R216) -/
  secrets : Tab Nat
  refused : List Nat
  /-- relay credit that this module's SLOTHDRs of the slot grant, by peer, in units of 64 KiB (R202) -/
  granted : Tab Nat
  /-- a slot is open: its boundary has been taken and its end has not -/
  slotOpen : Bool
  trained : Bool
  deriving DecidableEq, Repr

/-- A journal entry (R280). -/
structure JEntry where
  asid : Nat
  va : Nat
  pa : Nat
  ckpt : Nat
  old : List Host.Cell
  deriving DecidableEq, Repr

/-- Geyser, trials and replay (R272 to R281). -/
structure ObsSt where
  gctl : DWord
  gring : DWord
  gsize : DWord
  gread : Nat
  gwrite : Nat
  gdrop : Nat
  gsela : DWord
  gselb : DWord
  gnext : Nat
  gt0 : Nat
  gpend : Nat
  /-- event counts by code (R273); 16 + k is progress counter k (R277) -/
  counts : Tab Nat
  trlo : DWord
  trhi : DWord
  trdq : DWord
  trctl : DWord
  /-- the cycle with which the running trial's quantum ends on every core (R276) -/
  trialNext : Nat
  rpctl : DWord
  rpjrn : DWord
  rpjsz : DWord
  rpcki : DWord
  rpstop : DWord
  rpcnt : DWord
  /-- journal entries: ASID, VA, physical page, checkpoint index, old bytes (R280) -/
  journal : List JEntry
  /-- pages journaled since the last checkpoint -/
  journaled : List Nat
  /-- LAUNCHes, by queue and sequence, that RPCTL named when they were claimed and that have not started yet (R279) -/
  named : List (Nat × Nat)
  deriving DecidableEq, Repr

inductive BootSt where
  /-- waiting for the image (R269) -/
  | waiting
  | verified
  | bootfail
  /-- ready reported (R270) -/
  | ready
  deriving DecidableEq, Repr

/-- Boot, power, attestation and firmware bounds (R5, R268 to R271). -/
structure SysSt where
  boot : BootSt
  measurement : BitVec 512
  fuseSec : Nat
  /-- the verified image's entry, from which a restarted agent runs (R268, R269) -/
  entry : DWord
  /-- clock divisor by die: 1 at full speed (R5) -/
  slow : Tab Nat
  /-- cycles of each die's clock since reset (R5, R301) -/
  clk : Tab Nat
  fwPower : Nat
  fwJunction : Nat
  /-- the memory windows that the boot ROM has set and locked: first byte and length, at most 16 (R268) -/
  windows : List (Nat × Nat)
  /-- action log records: sequence and kind, and the host address of their ring (R268) -/
  actions : List (Nat × Nat)
  actionRing : Nat
  /-- frames are still to be zeroed in the background, from frame zeroAt on (R270) -/
  zeroing : Bool
  zeroAt : Nat
  spared : List (Nat × Nat)
  trainRecord : BitVec 512
  spdm : List (Nat × List (BitVec 64))
  deriving DecidableEq, Repr

/-- The module. -/
structure State where
  /-- cycles of the module's clock since reset (R10, R22) -/
  cycle : Nat
  /-- GTIME in thirds of a nanosecond (R136) -/
  third : Nat
  /-- this module's number in the pod (R88, R196) -/
  devid : Nat
  /-- paths selected in this cycle that have not issued yet (R22, R23) -/
  issue : List Issue
  /-- the path that issues -/
  cur : Issue
  /-- happenings that are due or that the outside has brought, in arrival order: the MODEL's own field -/
  agenda : List Instr
  /-- open choices taken so far: the MODEL's own field -/
  ticks : Nat
  groups : Tab Group
  teams : Tab Team
  cores : Tab Core
  /-- kernel descriptors of the loaded code objects, by descriptor address (R80, R258) -/
  kernels : Tab Kernel
  grids : Tab Grid
  nextGrid : Nat
  logs : Tab Log
  nextLog : Nat
  ops : Tab Op
  nextOp : Nat
  /-- die TLBs (R120): key 4,096·die + set -/
  dieTlb : Tab (List TlbEntry)
  /-- walk queues by die, in arrival order (R121) -/
  walks : Tab (List Walk)
  /-- invalidate operations under way: ASID, first byte, end, and the accesses to other devices for which each waits (R122) -/
  invals : List (Nat × Nat × Nat × List Nat)
  /-- physical table roots by ASID (R115) -/
  roots : Tab Nat
  mem : MemSt
  share : ShareSt
  fab : FabSt
  flows : Tab Flow
  reasm : Tab Reasm
  nextReasm : Nat
  queues : Tab Queue
  /-- completion records written: the module's completion sequence (R264) -/
  completions : Nat
  compLog : List (Nat × Nat × Nat × Nat × Nat)
  errors : List ErrRec
  errSeq : Nat
  /-- host address of the error ring (R93) -/
  errRing : Nat
  /-- rotating pointer of the packet round-robin (R263) -/
  rotate : Nat
  /-- occupancy bands, key 2·die + band: 12-bit-per-row counts as a number, and version (R263) -/
  bands : Tab (Nat × Nat)
  cbars : Tab Barrier
  kreqs : Tab Kreq
  nextKreq : Nat
  /-- scale caches by Kiln, newest line first (R187) -/
  scaleCache : Tab (List ScaleLine)
  records : Tab Record
  nextRecord : Nat
  obs : ObsSt
  sys : SysSt
  deriving DecidableEq, Repr

def Team.empty : Team :=
  { grid := 0, index := 0, x := 0, y := 0, z := 0, groups := 0, q0 := 0, prio := 0, det := false, clrank := 0, regs := 0, depth := 0,
    scratch := 0, scratchAt := 0, vaultAt := 0, vault := 0, privSize := 0, bartmo := 0, ctx := 0, asid := 0, age := 0, lastWork := 0,
    bars := [], held := false, halted := false, cluster := 0 }

def Kernel.empty : Kernel :=
  { entry := 0, regs := 0, depth := 0, scratch := 0, vault := 0, ch := 0, cw := 0, cn := 0, spill := 0, det := false, coef := [] }

def Grid.empty : Grid :=
  { queue := 0, seq := 0, kernel := Kernel.empty, nx := 0, ny := 0, nz := 0, count := 0, next := 0, groups := 0, prio := 0, policy := 1,
    privSize := 0, bartmo := 0, spinth := 0, save := 0, saveSize := 0, root := 0, esum := 0, scales := 0, spillAt := 0, spill := [], spilled := 0,
    ctx := 0, asid := 0, retired := [], ords := [], signalled := [], aborted := none, held := false, suspended := false, resume := [],
    replay := false, nextCluster := 0, checkpoints := [], stopping := false, halting := false, trapped := 0, retryAt := 0 }

def Op.none : Op :=
  { kind := .copy, gk := 0, lane := 0, mark := 0, st := .complete, result := 0, detail := 0, badAt := 0, perf := 0, far := [], pc := 0, asid := 0, ctx := 0,
    args := [], src := [], todo := [], got := [], reported := false }

def MemSt.reset : MemSt :=
  { dram := [], vault := [], scratch := [], host := [], absent := [], filling := [], horizon := [], lastWrite := [], resident := [],
    frames := [], coldQueue := [], hands := [], watermark := 10, retired := [], holder := [], vaultAlloc := [], vaultHolder := [], esums := [], hostPages := [], evicting := [], away := [], guests := [],
    pinned := [(Config.frames - Config.relayFrames, Config.relayFrames, 0)], hostReads := [] }

def ShareSt.reset : ShareSt := { dir := [], owners := [], migs := [], stubs := [], remote := [], nextRemote := 1, notice := 0, answers := [] }

def FabSt.reset : FabSt :=
  { slotNs := 10000, epoch := 0, n := 0, slot := 0, relayTh := 1, bulkTh := 15, phases := [], inService := [], peers := [], ports := [],
    keys := [], relayUsed := 0, secrets := [], refused := [], granted := [], slotOpen := false, trained := false }

def ObsSt.reset : ObsSt :=
  { gctl := 0x03E80000, gring := 0, gsize := 4, gread := 0, gwrite := 0, gdrop := 0, gsela := 0, gselb := 0, gnext := 0, gt0 := 0,
    gpend := 0, counts := [], trlo := 0, trhi := 0, trdq := 0x000003E800000000, trctl := 0, trialNext := 0, rpctl := 0, rpjrn := 0, rpjsz := 0,
    rpcki := 0, rpstop := 0, rpcnt := 0, journal := [], journaled := [], named := [] }

def SysSt.reset : SysSt :=
  { boot := .waiting, measurement := 0, fuseSec := 0, entry := 0, slow := [], clk := [], fwPower := 3600, fwJunction := 105, windows := [], actions := [], actionRing := 0, zeroing := true, zeroAt := 0,
    spared := [], trainRecord := 0, spdm := [] }

/-- The module right after reset: no work, no image, memory with nothing listed (R14, R269, R270). -/
def State.reset : State :=
  { cycle := 0, third := 0, devid := 0, issue := [], cur := Issue.none, agenda := [], ticks := 0, groups := [], teams := [],
    cores := [], kernels := [], grids := [], nextGrid := 1, logs := [], nextLog := 1, ops := [], nextOp := 1, dieTlb := [], walks := [], invals := [], roots := [],
    mem := MemSt.reset, share := ShareSt.reset, fab := FabSt.reset, flows := [], reasm := [], nextReasm := 1, queues := [],
    completions := 0, compLog := [], errors := [], errSeq := 0, errRing := 0, rotate := 0, bands := [], cbars := [], kreqs := [],
    nextKreq := 1, scaleCache := [], records := [], nextRecord := 1, obs := ObsSt.reset, sys := SysSt.reset }

end Sys2Proof.Machine
end

