-- ==== Sys2Proof/Machine/Ops.lean ====
section
/-! DEFINITION. The named operations over the issuing path, its registers, its chains, and the taking of a trap (R21 to R32, R63 to R66, R87 to R93). -/

namespace Sys2Proof.Machine

/-- What a step answers. -/
abbrev Out := Host.Outcome State Fault Refusal

/-- n bytes from address a as a little-endian number (R8); an unlisted byte reads zero (R101, R379). -/
def memNat (t : List Host.Cell) (a : Nat) : Nat → Nat
  | 0 => 0
  | n + 1 => (tabGet (0 : Byte) t a).toNat + 256 * memNat t (a + 1) n

/-- Write the low n bytes of x at address a, keeping the canonical form. -/
def memPut (t : List Host.Cell) (a x : Nat) : Nat → List Host.Cell
  | 0 => t
  | n + 1 => memPut (tabSet (0 : Byte) t a (BitVec.ofNat 8 x)) (a + 1) (x / 256) n

/-- The canonical form of a memory. -/
abbrev Memory.wf (t : List Host.Cell) : Prop := tabWf (0 : Byte) t = true

/-- A number's low n bytes as a list, and back. -/
def bytesOf (x : Nat) : Nat → List Byte
  | 0 => []
  | n + 1 => BitVec.ofNat 8 x :: bytesOf (x / 256) n
def natOf : List Byte → Nat
  | [] => 0
  | b :: l => b.toNat + 256 * natOf l

/-- Lanes of a mask, ascending. -/
def lanesOf (m : LaneMask) : List Nat := (List.range 32).filter fun i => m.getLsbD i
/-- The mask of the lanes that satisfy a test. -/
def maskOf (f : Nat → Bool) : LaneMask := BitVec.ofNat 32 ((List.range 32).foldl (fun n i => if f i then n + 2 ^ i else n) 0)
/-- Lowest lane of a mask; 0 when it is empty. -/
def lowLane (m : LaneMask) : Nat := (lanesOf m).headD 0
/-- Number of lanes of a mask. -/
def popMask (m : LaneMask) : Nat := (lanesOf m).length

/-- Keys: a group is 512·core + 32·slot + GID; the Sahup agent's group of a core lies above all of them (R16); an operation that outlives its team carries its group's key plus 2^39; and the groups of a team that is switched out lie above 2^40 (R267). -/
def teamOf (gk : Nat) : Nat := gk / 32
def isAgent (gk : Nat) : Bool := 294912 ≤ gk && gk < 2 ^ 39
def isGhost (gk : Nat) : Bool := 2 ^ 39 ≤ gk && gk < 2 ^ 40
def coreOf (gk : Nat) : Nat := if isAgent gk then gk - 294912 else if isGhost gk then (gk - 2 ^ 39) / 512 else gk / 512
/-- Is this the key of a group whose team is switched out (R267)? Nothing of it is performed until it resumes. -/
def switchedOut (gk : Nat) : Bool := 2 ^ 40 ≤ gk
def gidOf (gk : Nat) : Nat := gk % 32
def agentKey (core : Nat) : Nat := 294912 + core
/-- The space of the agents' own accesses, above every ASID. -/
def agentSpace : Nat := 65536
/-- Mesh row of a core on its die (R1). -/
def meshRow (c : Nat) : Nat := c % 72 / 12

namespace State
variable (s : State)

def grp (gk : Nat) : Group := tabGet Group.empty s.groups gk
def setGrp (gk : Nat) (g : Group) : State := { s with groups := tabPut s.groups gk g }
def modGrp (gk : Nat) (f : Group → Group) : State := s.setGrp gk (f (s.grp gk))
/-- A team; an agent's group belongs to none, and its accesses are untranslated, in the space that the boot ROM's windows show (R268, log 31). -/
def team (tk : Nat) : Team := tabGet (if 9216 ≤ tk && tk < 2 ^ 34 then { Team.empty with asid := agentSpace } else Team.empty) s.teams tk
def setTeam (tk : Nat) (t : Team) : State := { s with teams := tabPut s.teams tk t }
def modTeam (tk : Nat) (f : Team → Team) : State := s.setTeam tk (f (s.team tk))
def core (c : Nat) : Core := tabGet Core.empty s.cores c
def setCore (c : Nat) (k : Core) : State := { s with cores := tabPut s.cores c k }
def modCore (c : Nat) (f : Core → Core) : State := s.setCore c (f (s.core c))
def grid (i : Nat) : Grid := tabGet Grid.empty s.grids i
def setGrid (i : Nat) (g : Grid) : State := { s with grids := tabPut s.grids i g }
def modGrid (i : Nat) (f : Grid → Grid) : State := s.setGrid i (f (s.grid i))
def op (i : Nat) : Op := tabGet Op.none s.ops i
def setOp (i : Nat) (o : Op) : State := { s with ops := tabPut s.ops i o }
def modOp (i : Nat) (f : Op → Op) : State := s.setOp i (f (s.op i))
/-- Add happenings that are now due. -/
def post (l : List Instr) : State := { s with agenda := s.agenda ++ l }

/-- Add a happening unless it is due already. -/
def postOnce (e : Instr) : State := if s.agenda.contains e then s else s.post [e]

/-- The issuing group, its team, its grid and its core. -/
def g : Group := s.grp s.cur.gk
def tm : Team := s.team (teamOf s.cur.gk)
def gr : Grid := s.grid s.tm.grid
def curCore : Nat := coreOf s.cur.gk
def modG (f : Group → Group) : State := s.modGrp s.cur.gk f

/-- GTIME of the module in nanoseconds (R136). -/
def now : Nat := s.third / 3
/-- gtime() as core c sees it (R11, R136). -/
def gtime (c : Nat) : Nat := s.now + Config.skew c % 3
/-- GTIME as a home slice or array sees it (R136, R137). -/
def sliceTime (slice : Nat) : Nat := s.now + Config.skew (1000 + slice) % 3

/-- CLK of a core (R301). -/
def coreClk (c : Nat) : Nat := tabGet 0 s.sys.clk (c / 72) + Config.clkStart c
/-- Is some group of a core held by a causal trial (R276)? -/
def trialHeld (c : Nat) : Bool := s.groups.any fun e => !isAgent e.1 && !switchedOut e.1 && coreOf e.1 = c && s.cycle < e.2.trialUntil

/-- One more of an event that Geyser counts (R273). -/
def tally (code : Nat) (n : Nat := 1) : State :=
  { s with obs := { s.obs with counts := tabSet 0 s.obs.counts code (tabGet 0 s.obs.counts code + n) } }
/-- Slots that a rollback takes back count no longer (R66, R88, R273). -/
def untally (code n : Nat) : State :=
  { s with obs := { s.obs with counts := tabSet 0 s.obs.counts code (tabGet 0 s.obs.counts code - n) } }

end State

/-- Kinds of the action log's records (R268). -/
inductive Action where
  | lnch | prem | rtrap | window | rekey | watchdog | cap
  deriving DecidableEq, Repr
def Action.code : Action → Nat
  | .lnch => 1 | .prem => 2 | .rtrap => 3 | .window => 4 | .rekey => 5 | .watchdog => 6 | .cap => 7

namespace State
variable (s : State)

/-- Take the next open choice among n: a free value below n, 0 when there is no choice. -/
def choose (n : Nat) : Nat × State := if n ≤ 1 then (0, s) else (Config.choice s.ticks % n, { s with ticks := s.ticks + 1 })

/-- HARDWARE WRITES AN ACTION RECORD of 32 bytes to the host's ring (R268). DESIGN CHOICE (log 113): the ring has 4,096 entries, and a record holds its sequence number, its kind, the device, and GTIME. -/
def logAction (a : Action) : State :=
  let n := s.sys.actions.length + 1
  let entry := n % 2 ^ 64 + 2 ^ 64 * (a.code + 2 ^ 32 * (s.devid % 256)) + 2 ^ 128 * (s.now % 2 ^ 64)
  { s with sys := { s.sys with actions := s.sys.actions ++ [(n, a.code)] }, mem := { s.mem with host := memPut s.mem.host (s.sys.actionRing + 32 * ((n - 1) % 4096)) entry 32 } }

/-- User teams resident on a core, by their keys. -/
def teamsOn (c : Nat) : List Nat := (s.teams.filter fun e => e.1 / 16 = c).map (·.1)

end State

/-- ε of a scope, in nanoseconds (R136). -/
def epsilon : Scope → Nat
  | .team | .clus => 0
  | .dev => 2
  | .sys => 20

namespace Group
variable (g : Group)

/-- Vector register n of a lane (R87). -/
def rdV (n lane : Nat) : Word := tabGet 0 g.v (32 * n + lane)
def wrV (n lane : Nat) (x : Word) : Group := { g with v := tabSet 0 g.v (32 * n + lane) x }
/-- The pair n, n + 1 of a lane (R57). -/
def rdPair (n lane : Nat) : DWord := g.rdV (n + 1) lane ++ g.rdV n lane
def wrPair (n lane : Nat) (x : DWord) : Group := (g.wrV n lane (x.extractLsb' 0 32)).wrV (n + 1) lane (x.extractLsb' 32 32)
def rdS (n : Nat) : DWord := tabGet 0 g.sr n
def wrS (n : Nat) (x : DWord) : Group := { g with sr := tabSet 0 g.sr n x }
/-- Predicate n of a lane; p15 is pt and reads 1 (R51, R87). -/
def rdP (n lane : Nat) : Bool := n = 15 || (tabGet 0 g.p lane).getLsbD n
/-- A write to pt is discarded (R51). -/
def wrP (n lane : Nat) (b : Bool) : Group :=
  if n < 15 then
    let m := BitVec.ofNat 16 (2 ^ n)
    let old := tabGet 0 g.p lane
    { g with p := tabSet 0 g.p lane (if b then old ||| m else old &&& ~~~m) }
  else g
def rdH (n lane : Nat) : Nat := tabGet 0 g.h (16 * lane + n)
/-- A handle follows a new operation, whose failure it has not reported (R90). -/
def wrH (n lane tag : Nat) : Group := { g with h := tabSet 0 g.h (16 * lane + n) tag, told := tabSet false g.told (16 * lane + n) false }
/-- Has the handle's failure been reported (R90)? -/
def toldOf (n lane : Nat) : Bool := tabGet false g.told (16 * lane + n)
/-- The handle's failure has been reported: the handle is complete (R90). -/
def tellH (n lane : Nat) : Group := { g with told := tabSet false g.told (16 * lane + n) true }
/-- HMOV: handle n takes over handle m's state, tag and status word (R331). -/
def copyH (n m lane : Nat) : Group := { g with h := tabSet 0 g.h (16 * lane + n) (g.rdH m lane), told := tabSet false g.told (16 * lane + n) (g.toldOf m lane) }
def pcOf (lane : Nat) : DWord := tabGet 0 g.pc lane
def setPc (lane : Nat) (x : DWord) : Group := { g with pc := tabPut g.pc lane x }
def waitOf (lane : Nat) : Wait := tabGet Wait.run g.wait lane
def setWait (lane : Nat) (w : Wait) : Group := { g with wait := tabSet Wait.run g.wait lane w }
def innerOf (lane : Nat) : Nat := tabGet 0 g.inner lane
def setInner (lane e : Nat) : Group := { g with inner := tabSet 0 g.inner lane e }
def retiredOf (lane : Nat) : Nat := tabGet 0 g.retired lane
def addRetired (lane : Nat) : Group := { g with retired := tabSet 0 g.retired lane (g.retiredOf lane + 1) }
def ctrOf (c : Nat) : List Nat := tabGet [] g.ctr c
def setCtr (c : Nat) (l : List Nat) : Group := { g with ctr := tabSet [] g.ctr c l }
/-- Fold a change over the lanes of a mask, ascending. -/
def each (m : LaneMask) (f : Group → Nat → Group) : Group := (lanesOf m).foldl f g

/-- The path of a lane: the runnable lanes at its PC (R21). -/
def pathAt (pc : DWord) : LaneMask := maskOf fun i => g.waitOf i = .run && g.pcOf i = pc
/-- The paths of the group, by their lowest lanes (R21). -/
def paths : List (DWord × LaneMask) :=
  let add (l : List (DWord × LaneMask)) (i : Nat) : List (DWord × LaneMask) :=
    if g.waitOf i = .run && !(l.any fun e => e.1 = g.pcOf i) then l ++ [(g.pcOf i, g.pathAt (g.pcOf i))] else l
  (List.range 32).foldl add []

/-- The ring of the path whose lanes are m; a path that has split or joined since has an empty one (R63). -/
def ringOf (m : LaneMask) : Ring := (g.rings.find? fun r => r.mask = m).getD ⟨m, [], none⟩
def setRing (r : Ring) : Group := { g with rings := r :: g.rings.filter fun q => q.mask &&& r.mask = 0 }
/-- Latch k of a lane in the ring of path m (R63). -/
def rdLatch (m : LaneMask) (k lane : Nat) : DWord := tabGet 0 (g.ringOf m).vals (32 * k + lane)
/-- The chain in progress of path m; one that has reached 16 members is over (R64). -/
def openChain (m : LaneMask) : Option Chain := (g.ringOf m).chain.filter fun c => c.members < 16

/-- Does the ring still belong to one undivided path (R63)? -/
def ringLive (r : Ring) : Bool :=
  let l := lowLane r.mask
  let w := g.waitOf l
  (lanesOf r.mask).all (fun i => g.pcOf i = g.pcOf l && g.waitOf i = w) && (w ≠ .run || g.pathAt (g.pcOf l) = r.mask)

/-- Rings of paths that have split or joined are emptied; a chain that this ends has committed (R63, R64, R66). -/
def settle : Group :=
  let gone := g.rings.filter fun r => !g.ringLive r
  { g with rings := g.rings.filter g.ringLive,
           status := gone.foldl (fun f r => match r.chain with | some c => f ||| c.flags | none => f) g.status }

/-- Commit the chain of path m: its flag writes join STATUS (R66). -/
def commitChain (m : LaneMask) : Group :=
  let r := g.ringOf m
  match r.chain with
  | none => g
  | some c => { g.setRing { r with chain := none } with status := g.status ||| c.flags }

/-- Roll the chain of path m back: discard its writes, return the PC to its first member, empty the ring, and lower RETIRED (R66). -/
def rollback (m : LaneMask) : Group :=
  match g.openChain m with
  | none => g
  | some c =>
    let backV (t : Tab Word) (e : Nat × Word) : Tab Word := tabSet 0 t e.1 e.2
    let backP (t : Tab (BitVec 16)) (e : Nat × BitVec 16) : Tab (BitVec 16) := tabSet 0 t e.1 e.2
    let g1 := { g with v := c.undoV.foldl backV g.v, p := c.undoP.foldl backP g.p }
    let g2 := g1.each m fun h i => { h.setPc i c.first with retired := tabSet 0 h.retired i (h.retiredOf i - c.members) }
    { g2 with rings := g2.rings.filter fun q => q.mask ≠ m }

/-- Members of the chain in progress on path m, which have not counted as retired for good (R66). -/
def membersOf (m : LaneMask) : Nat := match g.openChain m with | some c => c.members | none => 0
/-- Every chain of the group rolls back and its rings empty, as at a pre-emption (R63, R66, R98). -/
def rollAll : Group := let h : Group := g.rings.foldl (fun h r => h.rollback r.mask) g; { h with rings := [] }
/-- Members of all its chains in progress. -/
def allMembers : Nat := g.rings.foldl (fun n r => n + g.membersOf r.mask) 0

end Group

/-- The entry and its fields in the reserved registers (R27, R28): parent, reconvergence PC, expected mask. -/
structure Entry where
  parent : Nat
  pc : BitVec 25
  expected : LaneMask
  deriving DecidableEq, Repr

/-- Entry e lies in register N − K + e div 16, lanes 2(e mod 16) and the next (R28). -/
def entryReg (regs depth e : Nat) : Nat := regs - (depth + 15) / 16 + e / 16

def Group.rdEntry (g : Group) (regs depth e : Nat) : Entry :=
  let r := entryReg regs depth e
  let lo := g.rdV r (2 * (e % 16))
  let hi := g.rdV r (2 * (e % 16) + 1)
  ⟨(hi.extractLsb' 25 7).toNat, hi.extractLsb' 0 25, lo⟩

def Group.wrEntry (g : Group) (regs depth e : Nat) (x : Entry) : Group :=
  let r := entryReg regs depth e
  (g.wrV r (2 * (e % 16)) x.expected).wrV r (2 * (e % 16) + 1) (BitVec.ofNat 7 x.parent ++ x.pc)

/-- A live entry has a nonzero expected mask: an entry whose mask becomes empty is freed at once (R29). -/
def Group.liveEntries (g : Group) (regs depth : Nat) : List Nat :=
  (List.range depth).filter fun e => (g.rdEntry regs depth e).expected ≠ 0

/-- A reconvergence PC as the 25 bits of an entry: line index from the code base, and slot (R27). -/
def rcvBits (base pc : DWord) : BitVec 25 :=
  BitVec.ofNat 22 ((pc - base).toNat / 64) ++ BitVec.ofNat 3 ((pc.toNat % 64 - 4) / 12)

/-- The chain of parents from an innermost entry (plus one), innermost first. -/
def Group.chainOf (g : Group) (regs depth : Nat) : Nat → Nat → List Nat
  | 0, _ => []
  | fuel + 1, e => if e = 0 then [] else
    let p := (g.rdEntry regs depth (e - 1)).parent
    (e - 1) :: g.chainOf regs depth fuel (if p = 127 then 0 else p + 1)

/-- Release every entry all of whose expected lanes wait at it: the lanes run at the slot after the RJOIN and take the parent (R29). -/
def Group.releaseEntry (g : Group) (regs depth e : Nat) : Group :=
  let x := g.rdEntry regs depth e
  if x.expected ≠ 0 && (lanesOf x.expected).all (fun i => g.waitOf i = .rjoin e) then
    let g1 := g.each x.expected fun h i =>
      ((h.setWait i .run).setPc i (nextPc (h.pcOf i))).setInner i (if x.parent = 127 then 0 else x.parent + 1)
    g1.wrEntry regs depth e { x with expected := 0 }
  else g

def Group.releaseAll (g : Group) (regs depth : Nat) : Group := (List.range depth).foldl (fun h e => h.releaseEntry regs depth e) g

/-- A trap to be taken (R92, R93). -/
structure Trap where
  cause : Nat
  sub : Nat := 0
  detail : Nat := 0
  mask : LaneMask
  addr : DWord := 0
  issuePc : DWord := 0
  /-- where the path continues when a held grid is resumed; none for the trapping instruction itself -/
  restart : Option DWord := none
  arrived : Nat := 0
  after : Nat := 0
  /-- the lanes that restart: the path's, or only the cause mask's for a logged memory instruction (R92, R354) -/
  moved : Option LaneMask := none
  deriving DecidableEq, Repr

namespace Cause
def illegal : Nat := 0x01
def badtgt : Nat := 0x02
def linepar : Nat := 0x03
def priv : Nat := 0x04
def regrange : Nat := 0x05
def depth : Nat := 0x06
def latch : Nat := 0x07
def misalign : Nat := 0x08
def apspan : Nat := 0x09
def prot : Nat := 0x0A
def nomap : Nat := 0x0B
def guardovf : Nat := 0x0C
def fmtdiv : Nat := 0x0D
def packrange : Nat := 0x0E
def barstall : Nat := 0x0F
def trapi : Nat := 0x10
def bkpt : Nat := 0x11
def remote : Nat := 0x12
end Cause

/-- A write of an operation has been performed by a device (R154, R155). -/
def Op.wrote (o : Op) (d p : Nat) : Op := { o with perf := max o.perf p, far := tabSet 0 o.far d (max (tabGet 0 o.far d) p) }
/-- The writes of an operation become a lane's stores (R154). -/
def Group.joinOp (g : Group) (i : Nat) (o : Op) : Group :=
  { g with storeP := tabSet 0 g.storeP i (max (tabGet 0 g.storeP i) o.perf),
           farP := o.far.foldl (fun t e => tabSet 0 t (1024 * i + e.1) (max (tabGet 0 t (1024 * i + e.1)) e.2)) g.farP }

namespace State
variable (s : State)

/-- THE CHAIN OF A PATH ROLLS BACK (R66): its members do not count as retired (R88, R273). -/
def rollPath (gk : Nat) (m : LaneMask) : State :=
  if ((s.grp gk).openChain m).isNone then s else State.untally (s.modGrp gk fun g => g.rollback m) 3 ((s.grp gk).membersOf m)
/-- The chains of the groups that satisfy a test roll back, and their rings empty (R63, R66, R98). -/
def rollGroups (here : Nat → Bool) : State :=
  State.untally { s with groups := s.groups.map fun e => (e.1, if here e.1 then e.2.rollAll else e.2) } 3
    (s.groups.foldl (fun n e => if here e.1 then n + e.2.allMembers else n) 0)

/-- An access without a log entry that a lane had sent to another device counts for nothing: its instruction starts again. Waiters of such accesses stand from 2^66 on, 32·group + lane. -/
def forget (here : Nat → Nat → Bool) : State :=
  let mine (w : Nat) : Bool := 2 ^ 66 ≤ w && here ((w - 2 ^ 66) / 32) ((w - 2 ^ 66) % 32)
  { s with share := { s.share with remote := s.share.remote.filter fun e => !mine e.2.entry, answers := s.share.answers.filter fun r => !mine r.waiter } }

/-- End an engine operation with a result code: codes 0x08 to 0x12 fail it (R90). -/
def endOp (i result : Nat) : State :=
  s.modOp i fun o => if o.st = .pending then { o with result, st := if 0x08 ≤ result && result ≤ 0x12 then .failed else .complete, todo := [] } else o

/-- Wake the lanes that waited for an operation that is no longer pending (R21, R90). -/
def wakeHandles : State :=
  { s with groups := s.groups.map fun e => (e.1, e.2.each (BitVec.allOnes 32) fun h i =>
      match h.waitOf i with
      | .handle t => if (s.op t).st ≠ .pending then h.setWait i .run else h
      | _ => h) }

/-- The presence bits of the lines that a copy has not written are set again, whatever other copy still fills them (R113). -/
def restorePresence (opId : Nat) : State :=
  let lines := s.mem.filling.filter fun e => e.2.contains opId
  { s with mem := lines.foldl (fun m e =>
      { m with filling := tabSet [] m.filling e.1 (e.2.filter (· ≠ opId)), absent := tabDel m.absent e.1 }) s.mem }

/-- Withdraw a lane's part of an unfired pass request; a request without parts leaves the table (R330). -/
def withdrawLane (opId : Nat) : State :=
  let cut (r : Kreq) : Kreq := if r.fired.isNone then { r with ops := r.ops.filter (fun o => o.2 ≠ opId) } else r
  { s with kreqs := (s.kreqs.map (fun e => (e.1, cut e.2))).filter (fun e => e.2.ops ≠ []) }

/-- HCAN's effect on one operation (R330). -/
def cancelOp (i : Nat) : State :=
  let o := s.op i
  if o.st ≠ .pending then s else
  match o.kind with
  | .copy | .tile => ((s.restorePresence i).endOp i 0x80).wakeHandles
  | .kpass | .kwin =>
    if s.kreqs.any fun e => e.2.fired.isNone && e.2.ops.any fun q => q.2 = i then ((s.withdrawLane i).endOp i 0x80).wakeHandles else s
  | .fsend =>
    -- queued blocks go on; acknowledgements owed stand at keys above 2^70
    let s1 := s.modOp i fun x => { x with todo := [], result := 0x80 }
    if (s1.op i).got.any fun e => 2 ^ 70 ≤ e.1 then s1 else (s1.endOp i 0x80).wakeHandles
  | .pmig =>
    let page := o.args.headD 0
    let d := s.share.dir
    let cut (e : Nat × DirEntry) : Nat × DirEntry :=
      if e.1 = page then (e.1, { e.2 with queue := e.2.queue.filter (fun q => q ≠ (s.devid, i)) }) else e
    match d.find? fun e => e.1 = page && e.2.queue.contains (s.devid, i) with
    | some e =>
      let s1 := { s with share := { s.share with dir := d.map cut } }
      (State.endOp (s1.modOp i fun x => { x with detail := e.2.owner }) i 0x80).wakeHandles
    | none =>
      -- the request stands at another origin, or is granted already: the origin decides
      s.post [.transportReceive { src := s.devid, dst := s.devid, cls := 2, relayed := false, op := 33, seq := 0, epoch := 0, asid := page / 2 ^ 41,
                                  va := page % 2 ^ 41 * 65536, ack := 0, body := [i, s.devid] }]
  | _ => s

/-- Give back a cluster member's entry of its core's occupancy band (R263). -/
def releaseBand (tk : Nat) : State :=
  let c := tk / 16
  if (s.grid (s.team tk).grid).kernel.cn = 0 || Config.cores ≤ c then s else
  let key := 2 * (c / 72) + (if meshRow c < 4 then 0 else 1)
  let i := if meshRow c < 4 then c % 72 else c % 72 - 48
  let w := tabGet (0, 0) s.bands key
  { s with bands := tabPut s.bands key (w.1 - 4 ^ i, (w.2 + 1) % 2 ^ 32) }

/-- Free a team's vault allocation and its entry of the occupancy band. -/
def freePlace (tk : Nat) : State :=
  let t := s.team tk
  let has : Bool := t.vault + 32 * t.groups * t.privSize ≠ 0
  State.releaseBand { s with mem := { s.mem with vaultAlloc := s.mem.vaultAlloc.filter fun e => !(has && e.1 = t.vaultAt && e.2.2 = t.ctx) } } tk

/-- Cancel a team's pending operations, as HCAN would (R330, R354). -/
def cancelTeam (tk : Nat) : State :=
  ((s.ops.filter fun e => teamOf e.2.gk = tk && e.2.st = .pending).map (·.1)).foldl (fun (t : State) i => t.cancelOp i) s

/-- The operations of a team that leaves: those that have ended go; one that cannot be cancelled (a fired pass, a granted migration, an FFENCE) runs on as nobody's (R322, R330). -/
def ghostOp (tk : Nat) (e : Nat × Op) : Option (Nat × Op) :=
  let o := e.2
  if isAgent o.gk || teamOf o.gk ≠ tk then some e
  else if o.st ≠ .pending && !(o.kind = .fsync && o.todo ≠ []) then none
    -- an FFENCE whose lane has lost a prior store to a trap never stores its flag (R241)
    else if o.kind = .ffence && o.todo ≠ [] then none
    else some (e.1, { o with gk := o.gk % 2 ^ 39 + 2 ^ 39 })

/-- Remove one resident team: its groups, log entries and unfired requests go, and its operations are cancelled (R354). -/
def dropTeam (tk : Nat) : State :=
  let s1 := ((s.cancelTeam tk).freePlace tk).forget fun gk _ => !isAgent gk && teamOf gk = tk
  let ghost (r : Kreq) : Kreq := if !isAgent r.gk && teamOf r.gk = tk then { r with gk := r.gk % 2 ^ 39 + 2 ^ 39 } else r
  { s1 with teams := tabDel s1.teams tk, groups := s1.groups.filter fun e => isAgent e.1 || teamOf e.1 ≠ tk,
            ops := s1.ops.filterMap (ghostOp tk), kreqs := s1.kreqs.map fun e => (e.1, ghost e.2),
            logs := s1.logs.filter fun e => teamOf e.2.gk ≠ tk, issue := s1.issue.filter fun q => isAgent q.gk || teamOf q.gk ≠ tk }

/-- Remove the teams of an aborted grid, resident or switched out. A resident team stays, issuing nothing, until what it has recorded in the operand log is performed (R92). With the last team the grid's LAUNCH completes, with the boundary of the grid's end (R140, R261, R264). -/
def finishAbort (gi : Nat) : State :=
  let busy (tk : Nat) : Bool := tk < 9216 && s.logs.any fun e => teamOf e.2.gk = tk
  let tks := (s.teams.filter fun e => e.2.grid = gi).map (·.1)
  let s1 := tks.foldl (fun (t : State) k => if busy k then t.cancelTeam k else t.dropTeam k) s
  let s2 := State.modGrid { s1 with records := s1.records.filter fun e => e.2.grid ≠ gi } gi fun y => { y with spill := [], resume := [] }
  if s2.teams.any (fun e => e.2.grid = gi) || s2.agenda.contains (.kernelBoundary gi) then s2 else s2.post [.kernelBoundary gi]

/-- Abort a grid. A slot of the grid that issues in the same cycle still completes (R26); the teams go at the next instruction boundary. -/
def abortGrid (gi status err : Nat) : State :=
  let s1 := s.modGrid gi fun x => { x with aborted := x.aborted.or (some (status, err)) }
  if s1.issue.any fun q => !isAgent q.gk && (s1.team (teamOf q.gk)).grid = gi then s1 else s1.finishAbort gi

/-- Entries of the host's error ring. DESIGN CHOICE (log 12): the spec gives the ring no size. -/
def errorEntries : Nat := 4096
/-- THE 256 BYTES OF AN ERROR RECORD (R93), as a number. -/
def errorBytes (e : ErrRec) : Nat :=
  e.seq % 2 ^ 64 + 2 ^ 64 * (e.packet % 2 ^ 64) + 2 ^ 128 * (e.team % 2 ^ 32) + 2 ^ 160 * (e.gid % 2 ^ 16) + 2 ^ 176 * (e.cause % 256) + 2 ^ 184 * (e.sub % 256) +
    2 ^ 192 * e.pc.toNat + 2 ^ 256 * e.restart.toNat + 2 ^ 320 * e.mask.toNat + 2 ^ 352 * e.causeMask.toNat + 2 ^ 384 * e.pc2.toNat + 2 ^ 448 * e.mask2.toNat +
    2 ^ 480 * (e.detail % 2 ^ 32) + 2 ^ 512 * (e.gtime % 2 ^ 64) + 2 ^ 576 * e.addr.toNat + 2 ^ 640 * (e.retired % 2 ^ 64) + 2 ^ 704 * (e.after % 2 ^ 16) +
    2 ^ 768 * e.issuePc.toNat + 2 ^ 1024 * (e.arrived % 2 ^ 1024)
/-- An error record is written to the host's error ring, and counted (R93, R273). -/
def addError (e : ErrRec) : State :=
  State.tally { s with errors := s.errors ++ [e], errSeq := e.seq, mem := { s.mem with host := memPut s.mem.host (s.errRing + 256 * ((e.seq - 1) % errorEntries)) (errorBytes e) 256 } } 12

/-- The error record of a trap on the issuing path (R93). DESIGN CHOICE (log 85): 'the lowest lane in the mask', whose RETIRED the record gives, is that of the mask of lanes meeting the cause. -/
def errorRecord (t : Trap) (restart : DWord) : ErrRec :=
  { seq := s.errSeq + 1, packet := s.gr.seq, team := s.tm.index, gid := gidOf s.cur.gk, cause := t.cause, sub := t.sub, pc := s.cur.pc,
    restart, mask := s.cur.mask, causeMask := t.mask, pc2 := s.cur.pc2, mask2 := s.cur.mask2, detail := t.detail, gtime := s.now,
    addr := t.addr, retired := s.g.retiredOf (lowLane t.mask), after := t.after, issuePc := t.issuePc, arrived := t.arrived, gk := s.cur.gk }

/-- TAKING A TRAP (R92, R93). The chain of the path rolls back and its first member is the restart PC (R66); otherwise the restart PC is the instruction's own or the one the trap names. The record is written; then the grid's policy aborts the grid or holds it, with the path's lanes at the restart PC. -/
def takeTrap (t : Trap) : State :=
  let chain := s.g.openChain s.cur.mask
  let restart := match t.restart, chain with
    | some r, _ => r
    | none, some c => c.first
    | none, none => s.cur.pc
  let s1 := s.rollPath s.cur.gk s.cur.mask
  let s2 := { s1.addError (s1.errorRecord t restart) with cur := { s1.cur with verdict := .trapped } }
  let lanes := t.moved.getD s.cur.mask
  let hold (u : State) : State := (u.forget fun gk i => gk = s.cur.gk && lanes.getLsbD i).modG fun g => g.each lanes fun h i => if h.waitOf i = .exited then h else (h.setPc i restart).setWait i .held
  -- an agent's group has no grid: its path stops, until the watchdog restarts it (log 37)
  if isAgent s2.cur.gk then hold s2
  else if s2.gr.policy = 1 then
    let s3 := hold s2
    (s3.modGrid s3.tm.grid fun x => { x with held := true }).modTeam (teamOf s3.cur.gk) fun x => { x with held := true }
  else s2.abortGrid s2.tm.grid 1 s2.errSeq

/-- RETURN FROM A TRAP: RTRAP's resumption of a held team (R354). Every held lane goes on at its restart PC; the grid runs again when none of its teams is held. -/
def resumeHeld (tk : Nat) : State :=
  let free (e : Nat × Group) : Nat × Group :=
    if !isAgent e.1 && teamOf e.1 = tk then (e.1, e.2.each (BitVec.allOnes 32) fun h i => if h.waitOf i = .held then h.setWait i .run else h) else e
  -- the store that a trap took from an FFENCE executes again, and the FFENCE waits for it no longer
  let back (o : Op) : Op := if o.kind = .ffence && teamOf o.gk = tk && !isAgent o.gk then { o with todo := [] } else o
  let s1 := { s with groups := s.groups.map free, ops := s.ops.map fun (e : Nat × Op) => (e.1, back e.2) }
  let s2 := s1.modTeam tk fun x => { x with held := false }
  let gi := (s2.team tk).grid
  if s2.teams.any fun e => e.2.grid = gi && e.2.held then s2 else s2.modGrid gi fun x => { x with held := false }

/-- The slot has issued: its lanes advance to the next slot, and RETIRED counts it once for a slot or pair (R23, R45, R88). -/
def advance (m : LaneMask) : State :=
  (s.modG fun g => g.each m fun h i => h.setPc i (nextPc s.cur.pc))

/-- RETIRED of the path's lanes counts the slot or pair. DESIGN CHOICE (log 103): a logged memory instruction counts at its issue, and lanes that it traps in later lose that count. -/
def countRetired : State :=
  (s.modG fun g => g.each s.cur.mask fun h i => h.addRetired i).tally 3

/-- What every issued slot does beside its own effect: it retires, keeps or clears the yield mark, ends the idle count unless it is a spin instruction, and counts for the group's entries in the operand log (R39, R40, R88, R93). -/
def finish (clears : Bool) : State :=
  let s1 := if clears then s.modG fun g => { g with yieldMark := false } else s
  let s2 := if s1.g.yieldMark || isAgent s1.cur.gk then s1 else
    (if s1.trialHeld s1.curCore then s1 else s1.modCore s1.curCore fun c => { c with idle := 0 }).modTeam (teamOf s1.cur.gk) fun t => { t with lastWork := s1.cycle }
  let s3 := if s2.cur.pair.isSome then s2 else s2.countRetired
  { s3 with cur := { s3.cur with verdict := .done }, logs := s3.logs.map fun e => (e.1, if e.2.gk = s3.cur.gk then { e.2 with after := e.2.after + 1 } else e.2) }

/-- The path stays where it is and issues the slot again later. -/
def stall : State := { s with cur := { s.cur with verdict := .stalled } }

/-- A slot that is no chain member ends the path's chain (R64). -/
def endChain : State := s.modG fun g => g.commitChain s.cur.mask

/-- The lanes of the issuing path whose guard is true (R53); in a pair, those of its first slot's guard (R62). -/
def trueLanes (x : Guard) : LaneMask :=
  match s.cur.pair with
  | some q => q.mask
  | none => maskOf fun i => s.cur.mask.getLsbD i && (s.g.rdP x.idx.toNat i != x.neg)

/-- A scalar as a vector slot reads it: inside a pair, the value before the pair (R62). -/
def rdScalar (n : Nat) : DWord := match s.cur.pair with | some q => tabGet 0 q.sr n | none => s.g.rdS n
/-- A predicate as a vector slot reads it: inside a pair, the value before the pair (R62). -/
def rdPred (n lane : Nat) : Bool :=
  match s.cur.pair with | some q => n = 15 || (tabGet 0 q.p lane).getLsbD n | none => s.g.rdP n lane

/-- First register beyond those that a program names: N − K (R28). DESIGN CHOICE (log 14): the agent's private block (R16) holds every name. -/
def regLimit : Nat := if isAgent s.cur.gk then 2048 else s.tm.regs - (s.tm.depth + 15) / 16

/-- The first named register that reaches the limit (R51). -/
def rangeTrap (runs : List Run) : Option Nat :=
  (runs.find? fun r => s.regLimit < r.1 + r.2).map fun r => if r.1 < s.regLimit then s.regLimit else r.1

/-- The entries of the operand log whose destinations the slot waits for (R96): the group's older ones. A pair's own entry and the entry of the other path of a combined event are of the slot's own event (R23, R62). -/
def olderLogs : Tab Log :=
  s.logs.filter fun e => e.2.gk = s.cur.gk && e.2.cnt ≠ 0 &&
    (match s.cur.pair with | some q => e.1 < q.nextLog | none => true) && !(s.cur.mask2 ≠ 0 && e.2.cycle = s.cycle && e.2.mask = s.cur.mask2)

/-- Registers of the group that a log entry will write: vector (false) or scalar (true), first and count (R96). -/
def pendingRuns : List (Bool × Run) := s.olderLogs.map fun e => (e.2.scalar, e.2.dst, e.2.cnt)

def overlap (a b : Run) : Bool := a.1 < b.1 + b.2 && b.1 < a.1 + a.2

/-- Does the instruction name a pending register (R96)? -/
def hitsPending (vruns sruns : List Run) : Bool :=
  s.pendingRuns.any fun e => if e.1 then sruns.any (overlap e.2) else vruns.any (overlap e.2)

/-- The checks that come before an instruction's own: a pending register makes the path wait (R96); a register beyond the allocation raises REGRANGE (R28, R69 order 7). Then the path's chain ends, as the slot is no member. -/
def enter (vruns sruns : List Run) (k : State → Out) : Out :=
  if s.hitsPending vruns sruns then .next s.stall
  else match s.rangeTrap vruns with
    | some n => .next (s.endChain.takeTrap { cause := Cause.regrange, detail := n, mask := s.cur.mask })
    | none => k s.endChain

/-- Raise a trap for lanes of the path, after the path's chain has ended. -/
def raise (cause detail : Nat) (m : LaneMask) (sub : Nat := 0) (addr : DWord := 0) : Out :=
  .next (s.takeTrap { cause, sub, detail, mask := m, addr })

end State

/-- SPINTH outside 2^10 to 2^24 is clamped (R88). -/
def clampSpin (n : Nat) : Nat := if n < 1024 then 1024 else if 16777216 < n then 16777216 else n

end Sys2Proof.Machine
end

