-- ==== Sys2Proof/Machine/Memory.lean ====
section
/-! DEFINITION. Bytes of the module's memories, the apertures and their bounds, presence (R8, R101 to R109, R379). -/

namespace Sys2Proof.Machine

/-- Canonical generic addresses: bits [63:57] equal bit 56 (R102). -/
def canonical (a : Nat) : Bool := a / 2 ^ 56 = 0 || a / 2 ^ 56 = 255

/-- The apertures (R103). -/
inductive Aperture where
  | team | clus | vault | priv | glob
  deriving DecidableEq, Repr

def teamBase : Nat := 0x00F000000F000000
def clusBase : Nat := 0x00F0000010000000
def vaultBase : Nat := 0x00F0000100000000
def privBase : Nat := 0x00F0000200000000

def apertureOf (a : Nat) : Aperture :=
  if teamBase ≤ a && a < teamBase + 0x1000000 then .team
  else if clusBase ≤ a && a < clusBase + 0x10000000 then .clus
  else if vaultBase ≤ a && a < vaultBase + 0x100000000 then .vault
  else if privBase ≤ a && a < privBase + 0x100000000 then .priv
  else .glob

/-- Where a byte lives before translation: a scratchpad byte, a vault byte, or GLOBAL. -/
inductive Place where
  | scratch (at_ : Nat)
  | vault (at_ : Nat)
  | glob (va : Nat)
  deriving DecidableEq, Repr

/-- A hole of the VAULT window (R108). -/
def vaultHole (o : Nat) : Bool := 18 ≤ o / 2 ^ 24 % 32

namespace State
variable (s : State)

/-- The team of cluster rank k in the cluster of a team; without clusters, rank 0 is the team itself (R105). DESIGN CHOICE (log 107): a member that has retired is no member any more, so that its scratchpad window and its part of the vault share are beyond every allocation. -/
def clusterMember (tk k : Nat) : Option Nat :=
  let t := s.team tk
  if (s.grid t.grid).kernel.cn = 0 then (if k = 0 then some tk else none)
  else (s.teams.find? fun e => e.2.grid = t.grid && e.2.cluster = t.cluster && e.2.clrank = k).map (·.1)

/-- Teams of a cluster: 1 without clusters. -/
def clusterSize (tk : Nat) : Nat := max 1 (s.grid (s.team tk).grid).kernel.cn

/-- The vault byte of private offset o (R109): the private block stands after the team's `.vault` (log 16). -/
def privByte (tk tid o : Nat) : Nat :=
  let t := s.team tk
  t.vaultAt + t.vault + ((o / 16) * (32 * t.groups) + tid) * 16 + o % 16

/-- Is [o, o + n) of VAULT held by the context (R105, R108)? -/
def vaultHeldFrom (ctx hi : Nat) : Nat → Nat → Bool
  | 0, _ => false
  | fuel + 1, o => match s.mem.vaultAlloc.find? fun e => e.2.2 = ctx && e.1 ≤ o && o < e.1 + e.2.1 with
    | some e => hi ≤ e.1 + e.2.1 || vaultHeldFrom ctx hi fuel (e.1 + e.2.1)
    | none => false
def vaultHeld (ctx o n : Nat) : Bool := s.vaultHeldFrom ctx (o + n) (s.mem.vaultAlloc.length + 1) o

/-- Does a range lie in one of firmware's memory windows (R268)? -/
def inWindow (a n : Nat) : Bool := s.sys.windows.any fun w => w.1 ≤ a && a + n ≤ w.1 + w.2

/-- The place of n bytes at an aperture address, or nothing when they lie beyond its allocation (R105), or, for an agent's own instruction, beyond the boot ROM's windows (R268). -/
def placeOf (gk lane a n : Nat) : Option Place :=
  let tk := teamOf gk
  let t := s.team tk
  match apertureOf a with
  | .glob => if isAgent gk && !s.inWindow a n then none else some (.glob a)
  | .team => let o := a - teamBase; if o + n ≤ t.scratch then some (.scratch (Config.scratchBytes * coreOf gk + t.scratchAt + o)) else none
  | .clus =>
    let o := a - clusBase
    if o < 0x1000000 then
      match s.clusterMember tk (o / 0x40000) with
      | some k => let m := s.team k
        if o % 0x40000 + n ≤ m.scratch then some (.scratch (Config.scratchBytes * (k / 16) + m.scratchAt + o % 0x40000)) else none
      | none => none
    else
      let p := o - 0x1000000
      if t.vault = 0 || s.clusterSize tk * t.vault < p + n then none else
      (s.clusterMember tk (p / t.vault)).map fun k => .vault ((s.team k).vaultAt + p % t.vault)
  | .vault => let o := a - vaultBase; if s.vaultHeld t.ctx o n then some (.vault o) else none
  | .priv => let o := a - privBase; if o + n ≤ t.privSize then some (.vault (s.privByte tk (32 * gidOf gk + lane) o)) else none

/-- Do n bytes from CLUS offset o lie in scratchpads of the members whose ranks they span (R105)? -/
def clusHeld (tk o n : Nat) : Bool :=
  (List.range ((o + n - 1) / 0x40000 - o / 0x40000 + 1)).all fun j =>
    let k := o / 0x40000 + j
    match s.clusterMember tk k with
    | some m => min (o + n) ((k + 1) * 0x40000) ≤ k * 0x40000 + (s.team m).scratch
    | none => false

/-- Do n bytes of a range lie within the allocations of their aperture (R105)? A range of CLUS may run from one member's scratchpad into the next. -/
def rangeHeld (gk lane a n : Nat) : Bool :=
  n = 0 || if apertureOf a = .clus && a - clusBase < 0x1000000 then s.clusHeld (teamOf gk) (a - clusBase) n else (s.placeOf gk lane a n).isSome

/-- Lines of the scratchpads that n bytes touch. -/
def scratchLines (at_ n : Nat) : List Nat := (List.range ((at_ + n - 1) / 128 - at_ / 128 + 1)).map (· + at_ / 128)
/-- Does an access touch a line whose presence bit is clear (R107)? -/
def touchesAbsent (at_ n : Nat) : Bool := (scratchLines at_ n).any fun l => tabGet false s.mem.absent l

/-- Does a range touch a scratchpad line whose presence bit is clear? A range of CLUS may run over several members' scratchpads. -/
def rangeAbsent (gk lane a n : Nat) : Bool :=
  (List.range ((a % 128 + n + 127) / 128)).any fun j => match s.placeOf gk lane (a / 128 * 128 + 128 * j) 1 with
    | some (.scratch p) => tabGet false s.mem.absent (p / 128)
    | _ => false

/-- The checks of R342 that come before translation, in their order: the cause, detail and lanes of the first that some lane meets. `a` gives each lane's address; `write` the attempted access. -/
def issueChecks (gk : Nat) (m : LaneMask) (a : Nat → Nat) (w : Nat) (write : Bool) : Option Trap :=
  let meet (p : Nat → Bool) : LaneMask := maskOf fun i => m.getLsbD i && p i
  let mk (c d : Nat) (b : LaneMask) : Option Trap := some { cause := c, detail := d, mask := b, addr := BitVec.ofNat 64 (a (lowLane b)) }
  let c1 := meet fun i => !canonical (a i)
  let c2 := meet fun i => a i % w ≠ 0 || (apertureOf (a i) = .priv && 16 < w)
  let c3 := meet fun i => apertureOf (a i + w - 1) ≠ apertureOf (a i)
  let c4 := meet fun i => apertureOf (a i) = .vault && vaultHole (a i - vaultBase)
  let c5 := meet fun i => (s.placeOf gk i (a i) w).isNone
  if c1 ≠ 0 then mk Cause.nomap 0 c1
  else if c2 ≠ 0 then mk Cause.misalign 0 c2
  else if c3 ≠ 0 then mk Cause.apspan 0 c3
  else if c4 ≠ 0 then mk Cause.nomap 0 c4
  else if c5 ≠ 0 then mk Cause.prot (if write then 2 else 1) c5
  else none

end State

end Sys2Proof.Machine
end

