-- ==== Sys2Proof/Machine/Translate.lean ====
section
/-! DEFINITION. Page tables, TLBs, walks and the service of translation faults (R115 to R124). -/

namespace Sys2Proof.Machine

/-- What a translation finds. -/
inductive Tr where
  /-- a valid leaf: physical address, entry, page size (R116) -/
  | page (pa : Nat) (entry : DWord) (size : Nat)
  /-- kind 5: an S page owned elsewhere, with its origin (R119, R128) -/
  | elsewhere (origin : Nat)
  /-- an invalid entry of kind 0 to 4 and the place of the entry (R119, R123) -/
  | absent (kind : Nat) (entry : DWord) (at_ : Nat)
  /-- malformed: NOMAP with subcode 1 (R117) -/
  | malformed
  /-- the request waits in its die's walk queue, or for room in it (R121) -/
  | walking
  deriving DecidableEq, Repr

namespace Pte
variable (e : DWord)
def v : Bool := e.getLsbD 0
def leaf : Bool := e.getLsbD 1
def r : Bool := e.getLsbD 3
def w : Bool := e.getLsbD 4
def x : Bool := e.getLsbD 5
def k : Bool := e.getLsbD 60
def s : Bool := e.getLsbD 61
def c : Bool := e.getLsbD 62
def xs : Bool := e.getLsbD 63
/-- Address bits [55:8] of a non-leaf entry. -/
def table : Nat := (e.extractLsb' 8 48).toNat * 256
/-- Frame address bits [55:16] of a leaf. -/
def frame : Nat := (e.extractLsb' 16 40).toNat * 65536
def origin : Nat := (e.extractLsb' 8 8).toNat
def kind : Nat := (e.extractLsb' 4 4).toNat
def payload : Nat := (e.extractLsb' 16 40).toNat
/-- A malformed leaf of a page size, outside the exact-sum rule (R117). -/
def badLeaf (size : Nat) : Bool :=
  e.extractLsb' 56 4 ≠ 0 || e.extractLsb' 6 2 ≠ 0 || e.getLsbD 2 || frame e % size ≠ 0 || (origin e ≠ 0 && !s e) || (xs e && c e) || (xs e && s e)
/-- A malformed non-leaf entry (R117). -/
def badTable : Bool := e.extractLsb' 56 8 ≠ 0 || e.extractLsb' 3 5 ≠ 0 || e.getLsbD 2
/-- A malformed invalid entry of level 1 (R117, R119). -/
def badInvalid : Bool :=
  let attrs := e.getLsbD 63 || e.getLsbD 62 || e.getLsbD 60 || e.extractLsb' 1 3 ≠ 0
  e.getLsbD 61 || e.extractLsb' 56 4 ≠ 0 || (xs e && c e) ||
  match kind e with
  | 0 => attrs || e.extractLsb' 16 40 ≠ 0 || origin e ≠ 0
  | 1 | 4 => e.extractLsb' 16 40 ≠ 0 || origin e ≠ 0
  | 2 => origin e ≠ 0
  | 3 => false
  | 5 => attrs || e.extractLsb' 16 40 ≠ 0
  | _ => true
/-- The leaf that service writes for kinds 1 to 4 (R119). -/
def serviced (pa : Nat) : DWord :=
  (e &&& 0xD000000000000000) ||| BitVec.ofNat 64 (pa / 65536 * 65536) |||
    (if e.getLsbD 1 then 0x08 else 0) ||| (if e.getLsbD 2 then 0x10 else 0) ||| (if e.getLsbD 3 then 0x20 else 0) ||| 3
/-- The kind-4 and kind-2 or 3 entries that an eviction writes from a leaf (R119, R125). -/
def evicted (kind payload device : Nat) : DWord :=
  (e &&& 0xD000000000000000) ||| BitVec.ofNat 64 (payload % 2 ^ 40 * 65536 + device % 256 * 256 + kind * 16) |||
    (if r e then 0x02 else 0) ||| (if w e then 0x04 else 0) ||| (if x e then 0x08 else 0)
end Pte

namespace State
variable (s : State)

/-- Eight bytes of a table (R115). -/
def pte (pa : Nat) : DWord := BitVec.ofNat 64 (memNat s.mem.dram pa 8)

/-- The exact-sum region that holds an address of a context (R151, R152). -/
def esumOf (asid va : Nat) : Option Esum :=
  (((List.range 8).filterMap fun i => tabFind s.mem.esums (8 * asid + i)).find? fun d => d.base ≤ va && va < d.base + d.size)

/-- What the last level's entry says of an address, with its page size. An exact-sum leaf lies wholly inside the region of one descriptor (R152). -/
def readLeaf (asid va : Nat) (e : DWord) (size : Nat) : Tr :=
  let lo := va / size * size
  if Pte.badLeaf e size || (Pte.xs e && !(s.esumOf asid va).any fun d => d.base ≤ lo && lo + size ≤ d.base + d.size) then .malformed
  else .page (Pte.frame e + va % size) e size

/-- One level of the walk that may hold a leaf: levels 3, 2 and 1 (R115 to R119). DESIGN CHOICE (log 108): a valid entry of level 1 with Leaf = 0, which names no table that a walk could read, is malformed. -/
def walkLevel (asid va : Nat) : List (Nat × Nat) → Nat → Tr
  | [], _ => .malformed
  | (shift, entries) :: rest, table =>
    let at_ := table + 8 * (va / 2 ^ shift % entries)
    let e := s.pte at_
    if Pte.v e then
      if Pte.leaf e then s.readLeaf asid va e (2 ^ shift)
      else if Pte.badTable e || rest = [] then .malformed else walkLevel asid va rest (Pte.table e)
    else if rest ≠ [] then (if Pte.kind e = 0 && !Pte.badInvalid e then .absent 0 e at_ else .malformed)
    else if Pte.badInvalid e then .malformed
    else if Pte.kind e = 5 then .elsewhere (Pte.origin e)
    else .absent (Pte.kind e) e at_

/-- The root of an ASID's tables: the one that the agent loaded, or, before a team of the context has started, the one that its driver has set up (R115, log 33). -/
def rootOf (asid : Nat) : Nat := match tabFind s.roots asid with | some r => r | none => Config.driverRoot asid

/-- The leaf of the agents' own space: every byte of DRAM at its physical address, with R, W and X. -/
def agentLeaf (va : Nat) : DWord := BitVec.ofNat 64 (va % 2 ^ 56 / 65536 * 65536 + 0x3B)
/-- The walk of a context's four-level table (R115): the root level holds no leaf. The agents' own space has no table. -/
def walk (asid va : Nat) : Tr :=
  if asid = agentSpace then (if va < Config.frames * 65536 then .page va (agentLeaf va) 65536 else .malformed) else
  let at_ := s.rootOf asid + 8 * (va / 2 ^ 39 % 262144)
  let e := s.pte at_
  if Pte.v e then
    if Pte.leaf e || Pte.badTable e then .malformed
    else s.walkLevel asid va [(30, 512), (21, 512), (16, 32)] (Pte.table e)
  else if Pte.kind e = 0 && !Pte.badInvalid e then .absent 0 e at_ else .malformed

/-- Physical addresses of the entries that a walk reads, from the root down (R115, R120). -/
def walkReads (asid va : Nat) : List Nat :=
  if asid = agentSpace then [] else
  let t4 := s.rootOf asid + 8 * (va / 2 ^ 39 % 262144)
  let down (r : List Nat × Option Nat) (x : Nat × Nat) : List Nat × Option Nat :=
    match r.2 with
    | none => r
    | some p =>
      let e := s.pte p
      if Pte.v e && !Pte.leaf e then let q := Pte.table e + 8 * (va / 2 ^ x.1 % x.2); (r.1 ++ [q], some q) else (r.1, none)
  ([(30, 512), (21, 512), (16, 32)].foldl down ([t4], some t4)).1

/-- Where the level-1 entry of an address lies, following valid tables (R115). -/
def leafPlace (asid va : Nat) : Nat :=
  let t4 := s.rootOf asid
  let t3 := Pte.table (s.pte (t4 + 8 * (va / 2 ^ 39 % 262144)))
  let t2 := Pte.table (s.pte (t3 + 8 * (va / 2 ^ 30 % 512)))
  let t1 := Pte.table (s.pte (t2 + 8 * (va / 2 ^ 21 % 512)))
  t1 + 8 * (va / 65536 % 32)

/-- The die of a core (R1). -/
def dieOf (c : Nat) : Nat := c / Config.coresPerDie

def hitTlb (l : List TlbEntry) (asid va : Nat) : Option TlbEntry :=
  l.find? fun t => t.asid = asid && t.base ≤ va && va < t.base + t.size

/-- What a TLB entry says. -/
def fromTlb (t : TlbEntry) (va : Nat) : Tr :=
  if Pte.v t.entry then .page (Pte.frame t.entry + (va - t.base)) t.entry t.size else .elsewhere (Pte.origin t.entry)

/-- The die TLB's set for an address under a page size (R120). DESIGN CHOICE (log 7): the page's number modulo the number of sets. -/
def tlbSet (size va : Nat) : Nat := va / size % Config.dieTlbSets
/-- Key of a set of a die's TLB. -/
def dieSet (die size va : Nat) : Nat := Config.dieTlbSets * die + tlbSet size va

/-- The die TLB's entry for an address, under any of the page sizes (R120). -/
def hitDie (die asid va : Nat) : Option TlbEntry :=
  [65536, 2097152, 1073741824].findSome? fun size => (hitTlb (tabGet [] s.dieTlb (dieSet die size va)) asid va).filter fun t => t.size = size

/-- A translation without any change of state: the core's TLB, the die's, the tables (R120). -/
def peek (c asid va : Nat) : Tr :=
  match hitTlb (s.core c).tlb asid va with
  | some t => fromTlb t va
  | none => match s.hitDie (dieOf c) asid va with
    | some t => fromTlb t va
    | none => s.walk asid va

/-- The TLB entry of a walk's result: valid leaves and kind 5, and nothing else (R120). -/
def tlbEntry (asid va : Nat) (r : Tr) : Option TlbEntry :=
  match r with
  | .page _ e size => some ⟨asid, va / size * size, size, e⟩
  | .elsewhere o => some ⟨asid, va / 65536 * 65536, 65536, BitVec.ofNat 64 (o * 256 + 0x50)⟩
  | _ => none

/-- Has firmware pinned a frame as one of a range: the relay buffer's, or a large page's (R124)? -/
def pinnedFrame (f : Nat) : Bool := s.mem.pinned.any fun r => r.1 ≤ f && f < r.1 + r.2.1

/-- THE FRAME TABLE'S ENTRY of a frame (R124): one of a pinned range has P set, F clear and the range's context. -/
def frameOf (f : Nat) : Frame :=
  let x := tabGet Frame.free s.mem.frames f
  match s.mem.pinned.find? fun r => r.1 ≤ f && f < r.1 + r.2.1 with
  | some r => { x with p := true, f := false, ctx := r.2.2 }
  | none => x

/-- Set A of the frame that a TLB fill names (R124). -/
def touchFrame (pa : Nat) (dirty : Bool) : State :=
  let f := s.frameOf (pa / 65536)
  { s with mem := { s.mem with frames := tabSet Frame.free s.mem.frames (pa / 65536) { f with a := true, d := f.d || dirty } } }

/-- A fill of a core's TLB by an access to an address, which keeps its newest 256 entries (R120, R124). -/
def fillCore (c va : Nat) (t : TlbEntry) : State :=
  let s1 := s.modCore c fun k => { k with tlb := (t :: k.tlb.filter (· ≠ t)).take Config.tlbEntries }
  if Pte.v t.entry then s1.touchFrame (Pte.frame t.entry + (va - t.base)) false else s1

/-- A fill of a die's TLB: the entry's set keeps its newest eight (R120). -/
def fillDie (die : Nat) (t : TlbEntry) : State :=
  let k := dieSet die t.size t.base
  { s with dieTlb := tabPut s.dieTlb k ((t :: (tabGet [] s.dieTlb k).filter (· ≠ t)).take Config.dieTlbWays) }

/-- The walk requests of a die, in arrival order (R121). -/
def walksOf (die : Nat) : List Walk := tabGet [] s.walks die
def setWalks (die : Nat) (l : List Walk) : State := { s with walks := tabSet [] s.walks die l }

/-- A TLB MISS ENTERS THE DIE'S WALK QUEUE (R121): a request for a page of which a walk is queued or in flight joins it; one that finds the queue full stalls its core's issue of memory instructions. -/
def askWalk (c asid va : Nat) : State :=
  let l := s.walksOf (dieOf c)
  if l.any fun w => w.asid = asid && w.vpn = va / 65536 then s
  else if Config.walkQueue ≤ (l.filter fun w => !w.back).length then s.modCore c fun k => { k with walkStall := true }
  else (s.setWalks (dieOf c) (l ++ [⟨asid, va / 65536, false⟩])).post [.tableWalk c asid va]

/-- Translate an access of a core (R120, R121): the core's TLB, the die's, or a walk. A walk that has returned what no TLB holds, an absent or malformed entry, answers the requesters that come for it. -/
def translate (c asid va : Nat) : Tr × State :=
  match hitTlb (s.core c).tlb asid va with
  | some t => (fromTlb t va, s)
  | none => match s.hitDie (dieOf c) asid va with
    | some t => (fromTlb t va, s.fillCore c va t)
    | none =>
      let l := s.walksOf (dieOf c)
      let mine (w : Walk) : Bool := w.asid = asid && w.vpn = va / 65536
      if l.any fun w => mine w && w.back then
        match s.walk asid va with
        -- every requester that has joined the walk takes its answer, until the service of the page ends
        | .absent k e p => (.absent k e p, s)
        | .malformed => (.malformed, s.setWalks (dieOf c) (l.filter fun w => !mine w))
        | _ => let s1 := s.setWalks (dieOf c) (l.filter fun w => !mine w); (.walking, s1.askWalk c asid va)
      else (.walking, s.askWalk c asid va)

/-- The service of a page's fault ends, and with it the answer of the walks that found the page absent (R95, R121). -/
def walkServed (asid va : Nat) : State :=
  { s with walks := s.walks.map fun e => (e.1, e.2.filter fun w => !(w.back && w.asid = asid && w.vpn = va / 65536)) }

/-- The invalidate operation's drop: every matching entry of every TLB, and what a walk has returned of it (R122). -/
def dropTlb (asid lo hi : Nat) : State :=
  let keep (t : TlbEntry) : Bool := t.asid ≠ asid || t.base + t.size ≤ lo || hi ≤ t.base
  { s with cores := s.cores.map fun e => (e.1, { e.2 with tlb := e.2.tlb.filter keep }),
           dieTlb := s.dieTlb.map fun e => (e.1, e.2.filter keep),
           walks := s.walks.map fun e => (e.1, e.2.filter fun w => !(w.back && w.asid = asid && lo < w.vpn * 65536 + 65536 && w.vpn * 65536 < hi)) }

/-- A free frame: the lowest whose F is set and which is not retired (R101, R124). -/
def freeFrame : Option Nat :=
  -- the used frames are finitely many: of the frames from 0, or from the end of a pinned range, the first used + 1 hold a free one or run into a pinned range
  let n := s.mem.frames.length + s.mem.retired.length + 1
  let ok (f : Nat) : Bool := f < Config.frames && (s.frameOf f).f && !s.mem.retired.contains f
  let found := (0 :: s.mem.pinned.map fun r => r.1 + r.2.1).filterMap fun b => ((List.range n).map (b + ·)).find? ok
  found.min?

/-- FIRMWARE TAKES NOTE OF A FRAME that a table tree uses (R124): a page table's frame is pinned, every frame of a large page too, and the frame of a 64 KiB page is no longer free and belongs to the context. -/
def ownFrame (pa ctx : Nat) (p : Bool) : State :=
  let f := pa / 65536
  let x := s.frameOf f
  if x.f || (p && !x.p) then { s with mem := { s.mem with frames := tabSet Frame.free s.mem.frames f { x with f := false, p := x.p || p, ctx } } } else s
def ownPage (pa size ctx : Nat) : State :=
  if size ≤ 65536 then s.ownFrame pa ctx false
  else
    let r := (pa / size * size / 65536, size / 65536, ctx)
    if s.mem.pinned.any fun q => q.1 ≤ r.1 && r.1 + r.2.1 ≤ q.1 + q.2.1 then s else { s with mem := { s.mem with pinned := s.mem.pinned ++ [r] } }

/-- Addresses of a table's entries that are not zero. -/
def tableEntries (at_ n : Nat) : List Nat :=
  ((s.mem.dram.filter fun c => at_ ≤ c.1 && c.1 < at_ + 8 * n).map fun c => at_ + (c.1 - at_) / 8 * 8).eraseDups

/-- FIRMWARE TAKES NOTE OF A WHOLE TABLE TREE (R115, R124): the frames of its tables and of the pages that its leaves name, level by level. -/
def noteTree (ctx : Nat) : List (Nat × Nat) → Nat → State → State
  | [], _, u => u
  | (shift, n) :: rest, at_, u =>
    let u1 := (List.range ((at_ % 65536 + 8 * n + 65535) / 65536)).foldl (fun (v : State) i => v.ownFrame (at_ / 65536 * 65536 + 65536 * i) ctx true) u
    let entry (v : State) (p : Nat) : State :=
      let e := v.pte p
      if !Pte.v e then v
      else if Pte.leaf e then (if Pte.badLeaf e (2 ^ shift) then v else v.ownPage (Pte.frame e) (2 ^ shift) ctx)
      else if Pte.badTable e then v else noteTree ctx rest (Pte.table e) v
    (u1.tableEntries at_ n).foldl entry u1

/-- The frames of a context's pages and tables, as its driver has built them (R115, R124). -/
def noteContext (asid ctx : Nat) : State := State.noteTree ctx [(39, 262144), (30, 512), (21, 512), (16, 32)] (s.rootOf asid) s

/-- Zero a frame and give it to a context (R101, R124). -/
def takeFrame (f ctx : Nat) : State :=
  { s with mem := { s.mem with dram := s.mem.dram.filter (fun e => e.1 / 65536 ≠ f),
                               frames := tabSet Frame.free s.mem.frames f ⟨ctx, false, false, false, false, false⟩ } }

/-- Write eight bytes of a table. -/
def putPte (pa : Nat) (e : DWord) : State := { s with mem := { s.mem with dram := memPut s.mem.dram pa e.toNat 8 } }

/-- What a failed translation means for the access that made it: its cause, subcode and detail (R95, R117 to R119), and, for an engine's access, its address (R93). -/
structure Bad where
  cause : Nat
  sub : Nat
  detail : Nat
  addr : Nat
  deriving DecidableEq, Repr

/-- What the service of a fault answers (R119, R123). -/
inductive Served where
  | ok (s : State)
  | bad (b : Bad)
  /-- the page is being evicted or pulled, or no frame is free yet -/
  | wait
  /-- the page is to be pulled from a peer that holds it in a frame (R119) -/
  | pull (peer frame : Nat)

/-- Put a page's bytes into a frame and write the leaf of its entry. -/
def fillFrame (f ctx at_ : Nat) (e : DWord) (bytes : List Host.Cell) : State :=
  let s1 := s.takeFrame f ctx
  let put (t : List Host.Cell) (b : Host.Cell) : List Host.Cell := tabSet (0 : Byte) t (f * 65536 + b.1 % 65536) b.2
  State.putPte { s1 with mem := { s1.mem with dram := bytes.foldl put s1.mem.dram } } at_ (Pte.serviced e (f * 65536))

/-- SERVICE OF A TRANSLATION FAULT by the agent (R119, R123, R204). -/
def serviceFault (asid ctx va : Nat) : Served :=
  match s.walk asid va with
  | .absent kind e at_ =>
    if kind = 0 then .bad ⟨Cause.nomap, 0, 0, 0⟩ else
    if kind = 4 then .wait else
    match s.freeFrame with
    | none => .wait
    | some f =>
      if kind = 1 then .ok (s.fillFrame f ctx at_ e [])
      else if kind = 2 then
        if s.mem.hostPages.contains (Pte.payload e) then
          .ok (s.fillFrame f ctx at_ e (s.mem.host.filter fun b => b.1 / 65536 = Pte.payload e))
        else .bad ⟨Cause.nomap, 0, 0, 0⟩
      else
        let k := 2 ^ 40 * Pte.origin e + Pte.payload e
        if (tabGet Peer.empty s.fab.peers (Pte.origin e)).down then .bad ⟨Cause.remote, 0, Pte.origin e, 0⟩ else
        match tabFind s.mem.away k with
        | none => .pull (Pte.origin e) (Pte.payload e)
        | some p =>
          if p.missing then .bad ⟨Cause.nomap, 0, 0, 0⟩
          else if p.lines.length < 512 then .wait
          else
            let t := State.fillFrame { s with mem := { s.mem with away := tabDel s.mem.away k } } f ctx at_ e []
            .ok { t with mem := { t.mem with dram := p.lines.foldl (fun m l => memPut m (f * 65536 + 128 * l.1) l.2 128) t.mem.dram } }
  | .malformed => .bad ⟨Cause.nomap, 1, 0, 0⟩
  | _ => .ok s

/-- The permission check of R118; `kind` is the attempted access: 1 read, 2 write, 4 execute. -/
def permBad (e : DWord) (kind : Nat) : Option Bad :=
  let no : Option Bad := some ⟨Cause.prot, 0, kind, 0⟩
  match kind with
  | 1 => if Pte.r e then none else no
  | 2 => if Pte.w e && !Pte.k e then none else no
  | _ => if Pte.x e then none else no

/-- Is an exact-sum access legal: it covers whole elements, and an atomic only by AFADD of the element's type (R153)? -/
def esumCovers (d : Esum) (va w : Nat) : Bool :=
  let e := if d.f64 then 8 else 4
  (va - d.base) % e = 0 && w % e = 0

end State

end Sys2Proof.Machine
end

