-- ==== Sys2Proof/Machine/Home.lean ====
section
/-! DEFINITION. Home slices, leases and L1 copies, exact-sum elements, and one access to any place (R111, R136 to R140, R148 to R153). -/

namespace Sys2Proof.Machine

/-- The home slice of a physical address (R111). -/
def sliceOf (pa : Nat) : Nat := (pa / 128 % 256) ^^^ (pa / 32768 % 256)
/-- The wait for a place of a line in its home slice (R138). -/
def evictWait (line : Nat) : Instr := .sliceEvictWait (sliceOf (line * 128)) line

/-- What an access to a place answers. -/
inductive Acc where
  /-- the bytes it read or the old value, its performed time or slice time, and the state after it -/
  | ok (x t : Nat) (s : State)
  /-- it fails with a trap's code -/
  | bad (b : State.Bad)
  /-- a recoverable fault at an address (R95) -/
  | fault (va : Nat)
  /-- the page lives on another device; its origin (R119, R128) -/
  | away (origin : Nat)
  /-- nothing yet: a walk or a place in a home slice is awaited (R121, R138) -/
  | wait (s : State)

/-- An access of several units that has to wait for one of them leaves nothing written: it waits from the state before it, in which that unit asks for what it lacks. -/
def Acc.waitFrom (s : State) (unit : State → Acc) : Acc :=
  match unit s with
  | .wait t => .wait t
  | _ => .wait s

namespace State
variable (s : State)

/-- End of the lease that a slice grants on a line (R138, rows 2 to 4). -/
def leaseEnd (line : Nat) (remote : Bool) : Nat :=
  let t := s.sliceTime (sliceOf (line * 128))
  let recent : Bool := match tabFind s.mem.lastWrite line with | some w => decide (t ≤ w + 4000) | none => false
  t + (if recent then 32 else if remote then 2000 else 256)

def lineBytes (line : Nat) : List Byte := bytesOf (memNat s.mem.dram (line * 128) 128) 128

/-- Raise a line's horizon (R138). -/
def raiseHorizon (line e : Nat) : State :=
  { s with mem := { s.mem with horizon := tabSet 0 s.mem.horizon line (max e (tabGet 0 s.mem.horizon line)) } }
/-- The home slice takes a line in from DRAM (R111, R273). -/
def setResident (line : Nat) : State := State.tally { s with mem := { s.mem with resident := tabSet false s.mem.resident line true } } 8

/-- A PLACE FOR A LINE IN ITS HOME SLICE (R1, R111, R138): a line that is resident has one; a slice that holds 65,536 lines first evicts one whose horizon has passed; nothing while every horizon lies ahead. DESIGN CHOICE (log 88): the spec gives the slice's sets no associativity; the model takes a slice as one set, and a free value names the line that leaves. -/
def allocLine (line : Nat) : Option State :=
  if tabGet false s.mem.resident line then some s else
  let j := sliceOf (line * 128)
  let held := s.mem.resident.filter fun e => sliceOf (e.1 * 128) = j
  if held.length < Config.sliceLines then some (s.setResident line) else
  let free := held.filter fun e => tabGet 0 s.mem.horizon e.1 ≤ s.sliceTime j
  if free = [] then none else
  let v := s.choose free.length
  some (State.setResident { v.2 with mem := { v.2.mem with resident := tabDel v.2.mem.resident ((free.map (·.1)).getD v.1 0) } } line)

/-- An access that needs its line in the home slice: it waits while the slice has no place (R138). -/
def withLine (line : Nat) (k : State → Acc) : Acc :=
  match s.allocLine line with
  | some t => k t
  | none => .wait (s.postOnce (evictWait line))

/-- Put a line into a core's L1; a full L1 (1,024 lines) drops a line that a free value chooses. -/
def putL1 (c line : Nat) (x : L1Line) : State :=
  let l := (s.core c).l1
  if l.length < 1024 || (tabFind l line).isSome then s.modCore c fun k => { k with l1 := tabPut k.l1 line x }
  else
    let v := s.choose l.length
    v.2.modCore c fun k => { k with l1 := tabPut (tabDel k.l1 ((l.getD v.1 (0, x)).1)) line x }

/-- READ THE HOME SLICE for a core, where the line is resident (R138): the line enters its L1 with a lease, and rows 2 to 4 raise the horizon. -/
def homeFill (c pa : Nat) (row1 : Bool) (ctx : Nat) : State :=
  let line := pa / 128
  let e := s.leaseEnd line false
  let s1 := (s.tally 6).touchFrame pa false
  let s2 := if row1 then s1 else s1.raiseHorizon line e
  s2.putL1 c line { data := s.lineBytes line, expiry := e, row1, ctx, remote := false }

/-- Key of an L1 line that another device owns: above every physical line (R138, row 3). -/
def farLine (asid va : Nat) : Nat := 2 ^ 64 + asid * 2 ^ 64 + va / 128

/-- A live L1 copy (R138). -/
def l1Copy (c pa : Nat) : Option L1Line :=
  (tabFind (s.core c).l1 (pa / 128)).filter fun l => l.row1 || s.gtime c < l.expiry

/-- Replace bytes of the issuing core's L1 copy of a line, when present (R139). -/
def updateL1 (c pa x n : Nat) : State :=
  match tabFind (s.core c).l1 (pa / 128) with
  | none => s
  | some l =>
    let o := pa % 128
    s.modCore c fun k => { k with l1 := tabPut k.l1 (pa / 128) { l with data := l.data.take o ++ bytesOf x n ++ l.data.drop (o + n) } }

/-- The journal entry that precedes the first write of a page since the last checkpoint (R280). -/
def journal (asid va pa : Nat) : State :=
  let o := s.obs
  let page := pa / 65536
  if o.rpctl.extractLsb' 2 2 ≠ 1 || o.journaled.contains page then s
  else if o.rpjsz.toNat < (o.journal.length + 1) * 65600 then
    { s with obs := { o with rpctl := o.rpctl ||| 0xC } }
  else
    let ck := ((s.grids.find? fun e => e.2.replay).map fun e => e.2.checkpoints.length).getD 0
    let old := s.mem.dram.filter fun e => e.1 / 65536 = page
    { s with obs := { o with journal := o.journal ++ [⟨asid, va / 65536 * 65536, page * 65536, ck, old⟩], journaled := page :: o.journaled } }

/-- A line written at the old owner after it was sent is marked in the page's dirty map (R130). -/
def markDirty (pa : Nat) : State :=
  let line := pa / 128 % 512
  let one (e : Nat × Mig) : Nat × Mig :=
    if e.2.old && !e.2.host && e.2.pa / 65536 = pa / 65536 && line < e.2.copied && !e.2.dirty.contains line then (e.1, { e.2 with dirty := line :: e.2.dirty }) else e
  { s with share := { s.share with migs := s.share.migs.map one } }

/-- STORE AT THE HOME SLICE, where the line is resident: write the bytes at P = max(slice time, horizon), update the issuing core's L1 copy (R137, R139). -/
def homeStore (c asid va pa n x : Nat) : Nat × State :=
  let line := pa / 128
  let t := s.sliceTime (sliceOf pa)
  let p := max t (tabGet 0 s.mem.horizon line)
  let s0 := (s.journal asid va pa).markDirty pa
  let s1 := { s0 with mem := { s0.mem with dram := memPut s0.mem.dram pa x n, lastWrite := tabPut s0.mem.lastWrite line t } }
  (p, (((s1.tally 7).touchFrame pa true).updateL1 c pa x n))

/-- A byte of GLOBAL that a home slice itself reaches for an exact-sum element, under the context's tables (R151, R152): `k` goes on with its physical address once its line is resident. -/
def reach (c asid a : Nat) (ok : DWord → Bool) (k : Nat → State → Acc) : Acc :=
  let r := s.translate c asid a
  match r.1 with
  | .page pa e _ => if ok e then r.2.withLine (pa / 128) (k pa) else .bad ⟨Cause.prot, 0, 2, 0⟩
  | .absent .. => .fault a
  | .walking => .wait r.2
  | _ => .bad ⟨Cause.nomap, 1, 0, 0⟩

/-- An element's accumulator, which must be mapped with R and W (R152). -/
def withAcc (c asid : Nat) (d : Esum) (va : Nat) (k : Nat → State → Acc) : Acc :=
  s.reach c asid (d.backing + 32 * ((va - d.base) / (if d.f64 then 8 else 4))) (fun e => Pte.r e && Pte.w e) k

end State

/-- The accumulator as a signed number; −2^255 is the NaN state (R152). -/
def accVal (x : Nat) : Int := toSigned 256 x
def accNan : Int := -(2 ^ 255 : Nat)
def esumFmt (d : Esum) : FloatFmt := if d.f64 then .fp64 else .fp32
/-- rne(value(acc), format) (R153). -/
def accRead (d : Esum) (x : Nat) : Nat :=
  let a := accVal x
  if a = accNan then (esumFmt d).nan else (roundFin (esumFmt d) .rne false (decide (a < 0)) a.natAbs d.lsb).1.toNat
/-- Clamp to the accumulator's range; the Bool is OVERFLOW. -/
def accClamp (z : Int) : Int × Bool :=
  let hi : Int := (2 ^ 255 : Nat) - 1
  let r := clampInt (-hi) hi z
  (r, decide (r ≠ z))
/-- A store of a value: RNE of v/2^L (R153); the two Bools are INEXACT and OVERFLOW. -/
def accStore (d : Esum) (v : FVal) : Int × Bool × Bool :=
  match v with
  | .fin n m e =>
    let k := e - d.lsb
    let q := sgn n (roundToInt .rne n m k)
    let exact := decide (0 ≤ k) || m % 2 ^ (-k).toNat = 0
    let r := accClamp q
    (r.1, !exact, r.2)
  | _ => (accNan, false, true)
/-- AFADD on an accumulator (R153). -/
def accAdd (d : Esum) (a : Int) (v : FVal) : Int × Bool × Bool :=
  if a = accNan then (a, false, false) else
  match v with
  | .fin n m e =>
    let k := e - d.lsb
    let q := sgn n (roundToInt .rz n m k)
    let exact := decide (0 ≤ k) || m % 2 ^ (-k).toNat = 0
    let r := accClamp (a + q)
    (r.1, !exact, r.2)
  | _ => (accNan, false, true)

namespace State
variable (s : State)

/-- OR the region's flags into its descriptor block in memory, bits 16 and 17, as one event at the block's home slice (R151); then `k` goes on. DESIGN CHOICE (log 90): the block's page is serviced as an accumulator's is (R152). -/
def esumFlags (c asid : Nat) (d : Esum) (inexact overflow : Bool) (k : State → Acc) : Acc :=
  if !inexact && !overflow then k s else
  s.reach c asid (d.block + 2) (fun _ => true) fun pa t =>
    let old := memNat t.mem.dram pa 1
    let t1 := ((t.journal asid (d.block + 2) pa).markDirty pa).touchFrame pa true
    k { t1 with mem := { t1.mem with dram := memPut t1.mem.dram pa (old ||| (if inexact then 1 else 0) ||| (if overflow then 2 else 0)) 1 } }

/-- Read n whole elements from an address, lowest first (R153); `t` is the time at the elements' slice. -/
def esumRead (c asid : Nat) (d : Esum) (va t : Nat) : Nat → Acc
  | 0 => .ok 0 t s
  | n + 1 =>
    let e := if d.f64 then 8 else 4
    match esumRead c asid d va t n with
    | .ok x t s1 => s1.withAcc c asid d (va + e * n) fun pa s2 => .ok (x + accRead d (memNat s2.mem.dram pa 32) * 256 ^ (e * n)) t ((s2.tally 6).touchFrame pa false)
    | r => r

/-- Change the accumulator of one element by a function that gives its new value and flags; answers the old rounded value (R153). -/
def esumChange (c asid : Nat) (d : Esum) (va t : Nat) (f : Int → Int × Bool × Bool) : Acc :=
  s.withAcc c asid d va fun pa s1 =>
    let old := memNat s1.mem.dram pa 32
    let r := f (accVal old)
    s1.esumFlags c asid d r.2.1 r.2.2 fun s2 =>
      let s3 := ((s2.journal asid (d.backing + 32 * ((va - d.base) / (if d.f64 then 8 else 4))) pa).markDirty pa).touchFrame pa true
      .ok (accRead d old) t (State.tally { s3 with mem := { s3.mem with dram := memPut s3.mem.dram pa (wrapNat 256 r.1) 32 } } 7)

/-- Store n whole elements. -/
def esumStore (c asid : Nat) (d : Esum) (va x t : Nat) : Nat → Acc
  | 0 => .ok 0 t s
  | n + 1 =>
    let e := if d.f64 then 8 else 4
    match esumStore c asid d va x t n with
    | .ok _ _ s1 =>
      let put (u : State) : Acc := u.esumChange c asid d (va + e * n) t fun _ => accStore d (decodeFloat (esumFmt d) (x / 256 ^ (e * n) % 256 ^ e))
      match put s1 with
      | .wait _ => .waitFrom s put
      | r => r
    | r => r

/-- Is L1 to be used, or the home slice read (R138, R146, R349)? An engine reads the slice and fills no L1. -/
inductive Via where
  | l1 | home | engine
  deriving DecidableEq, Repr

/-- READ n bytes of GLOBAL within one line for a core (R138, R146, R153); `kind` is the attempted access. -/
def readGlobal (c asid ctx va n : Nat) (via : Via) (kind : Nat := 1) : Acc :=
  let r := s.translate c asid va
  match r.1 with
  | .malformed => .bad ⟨Cause.nomap, 1, 0, 0⟩
  | .absent .. => .fault va
  | .walking => .wait r.2
  | .elsewhere o =>
    match (if via = .l1 then tabFind (r.2.core c).l1 (farLine asid va) else none) with
    | some l => if s.gtime c < l.expiry then .ok (natOf ((l.data.drop (va % 128)).take n)) (s.gtime c) r.2 else .away o
    | none => .away o
  | .page pa e _ =>
    match permBad e kind with
    | some b => .bad b
    | none =>
      if Pte.xs e then
        match s.esumOf asid va with
        | some d => if esumCovers d va n then r.2.esumRead c asid d va (s.sliceTime (sliceOf pa)) (n / (if d.f64 then 8 else 4)) else .bad ⟨Cause.prot, 0, kind, 0⟩
        | none => .bad ⟨Cause.nomap, 1, 0, 0⟩
      else match (if via = .l1 then r.2.l1Copy c pa else none) with
        | some l => .ok (natOf ((l.data.drop (pa % 128)).take n)) (s.sliceTime (sliceOf pa)) r.2
        | none => r.2.withLine (pa / 128) fun u =>
          let s1 := if via = .engine then (u.tally 6).touchFrame pa false else (u.tally 5).homeFill c pa (Pte.k e) ctx
          .ok (memNat s1.mem.dram pa n) (s.sliceTime (sliceOf pa)) s1

/-- WRITE n bytes of GLOBAL within one line (R137, R153). -/
def writeGlobal (c asid va n x : Nat) : Acc :=
  let r := s.translate c asid va
  match r.1 with
  | .malformed => .bad ⟨Cause.nomap, 1, 0, 0⟩
  | .absent .. => .fault va
  | .walking => .wait r.2
  | .elsewhere o => .away o
  | .page pa e _ =>
    match permBad e 2 with
    | some b => .bad b
    | none =>
      if Pte.xs e then
        match s.esumOf asid va with
        | some d => if esumCovers d va n then r.2.esumStore c asid d va x (s.sliceTime (sliceOf pa)) (n / (if d.f64 then 8 else 4)) else .bad ⟨Cause.prot, 0, 2, 0⟩
        | none => .bad ⟨Cause.nomap, 1, 0, 0⟩
      else r.2.withLine (pa / 128) fun u => let q := u.homeStore c asid va pa n x; .ok 0 q.1 q.2

/-- The update of an atomic: the new value from the old, and the element format under which it may act on an exact-sum page (R148, R153). -/
structure AtomOp where
  new : Nat → Nat
  /-- AFADD's type and operand, when it is AFADD of f32 or f64 -/
  add : Option (Bool × FVal)

/-- ONE ATOMIC on GLOBAL (R148). -/
def atomGlobal (c asid va n : Nat) (f : AtomOp) : Acc :=
  let r := s.translate c asid va
  match r.1 with
  | .malformed => .bad ⟨Cause.nomap, 1, 0, 0⟩
  | .absent .. => .fault va
  | .walking => .wait r.2
  | .elsewhere o => .away o
  | .page pa e _ =>
    match permBad e 2 with
    | some b => .bad b
    | none =>
      if Pte.xs e then
        match s.esumOf asid va, f.add with
        | some d, some (f64, v) =>
          if d.f64 = f64 && esumCovers d va n then r.2.esumChange c asid d va (s.sliceTime (sliceOf pa)) (fun a => accAdd d a v) else .bad ⟨Cause.prot, 0, 2, 0⟩
        | some _, none => .bad ⟨Cause.prot, 0, 2, 0⟩
        | none, _ => .bad ⟨Cause.nomap, 1, 0, 0⟩
      else r.2.withLine (pa / 128) fun u =>
        let old := memNat u.mem.dram pa n
        let q := u.homeStore c asid va pa n (f.new old)
        .ok old q.1 q.2

/-- The bytes of a scratchpad or vault place, and their write; the performed time is the array's GTIME (R137). -/
def readArray (p : Place) (n : Nat) : Nat × Nat :=
  match p with
  | .scratch a => (memNat s.mem.scratch a n, s.sliceTime (1000 + a / Config.scratchBytes))
  | .vault a => (memNat s.mem.vault a n, s.sliceTime (2000 + a / Config.vaultBytes))
  | .glob _ => (0, 0)
def writeArray (p : Place) (n x : Nat) : Nat × State :=
  match p with
  | .scratch a => ((s.readArray p n).2, { s with mem := { s.mem with scratch := memPut s.mem.scratch a x n } })
  | .vault a => ((s.readArray p n).2, { s with mem := { s.mem with vault := memPut s.mem.vault a x n } })
  | .glob _ => (0, s)

/-- Read, write and atomic on any address of a group's lane; an aperture address was checked at issue (R105). -/
def readAt (gk lane a n : Nat) (via : Via) : Acc :=
  match s.placeOf gk lane a n with
  | none => .bad ⟨Cause.prot, 0, 1, 0⟩
  | some (.glob va) => let t := s.team (teamOf gk); s.readGlobal (coreOf gk) t.asid t.ctx va n via
  | some p => let r := s.readArray p n; .ok r.1 r.2 s
def writeAt (gk lane a n x : Nat) : Acc :=
  match s.placeOf gk lane a n with
  | none => .bad ⟨Cause.prot, 0, 2, 0⟩
  | some (.glob va) => let t := s.team (teamOf gk); s.writeGlobal (coreOf gk) t.asid va n x
  | some p => let r := s.writeArray p n x; .ok 0 r.1 r.2
def atomAt (gk lane a n : Nat) (f : AtomOp) : Acc :=
  match s.placeOf gk lane a n with
  | none => .bad ⟨Cause.prot, 0, 2, 0⟩
  | some (.glob va) => let t := s.team (teamOf gk); s.atomGlobal (coreOf gk) t.asid va n f
  | some p => let r := s.readArray p n; let q := s.writeArray p n (f.new r.1); .ok r.1 q.1 q.2

end State

end Sys2Proof.Machine
end

