-- ==== Sys2Proof/Machine/Operands.lean ====
section
/-! DEFINITION. Operand forms: sources and destinations of the vector classes with their latches and chains (R52, R62 to R66, R307), the scalar class (R53, R371), and the registers that each instruction names. -/

namespace Sys2Proof.Machine

/-- What a vector-class destination is: a 32-bit register, a pair, or a predicate (R51, R52). -/
inductive DKind where
  | word | pair | pred
  deriving DecidableEq, Repr

def DKind.ofTy (ty : Ty) : DKind := if ty.wide then .pair else .word

namespace State
variable (s : State)

/-- A vector source of a lane: a register, a pair, or 64 bits of a latch (R307). -/
def rdSrc (wide : Bool) (x : Src) (lane : Nat) : DWord :=
  match x with
  | .reg n => if wide then s.g.rdPair n.toNat lane else (s.g.rdV n.toNat lane).setWidth 64
  | .latch k => s.g.rdLatch s.cur.mask k.toNat lane

end State

/-- Write a vector-class result (R51, R52, R57). -/
def Group.wrDst (g : Group) (k : DKind) (d : Dst) (lane : Nat) (x : DWord) : Group :=
  match d with
  | .nw => g
  | .reg n => match k with
    | .word => g.wrV n.toNat lane (x.setWidth 32)
    | .pair => g.wrPair n.toNat lane x
    | .pred => g.wrP n.toNat lane (x.getLsbD 0)

/-- What a rollback needs to undo that write (R66): vector registers, and predicates. -/
def Group.undoOf (g : Group) (k : DKind) (d : Dst) (lane : Nat) : List (Nat × Word) × List (Nat × BitVec 16) :=
  match d with
  | .nw => ([], [])
  | .reg n => match k with
    | .word => ([(32 * n.toNat + lane, g.rdV n.toNat lane)], [])
    | .pair => ([(32 * n.toNat + lane, g.rdV n.toNat lane), (32 * (n.toNat + 1) + lane, g.rdV (n.toNat + 1) lane)], [])
    | .pred => ([], [(lane, tabGet 0 g.p lane)])

def latchNo : Src → List Nat
  | .latch k => [k.toNat]
  | .reg _ => []

namespace State
variable (s : State)

/-- The detail of LATCH for a slot that names a latch and is no chain member (R64, R65): 17 directly after a 16th member, otherwise 0. DESIGN CHOICE (log 82): a pair there gets 0, as R65 lists a pair under 0 and the slot after a 16th member under 17. -/
def loneLatch : Nat :=
  match (s.g.ringOf s.cur.mask).chain with
  | some c => if 16 ≤ c.members && s.cur.pair.isNone then 17 else 0
  | none => 0

/-- The detail of LATCH, when the slot raises it (R64, R65): `member` says whether the instruction may be a chain member. -/
def latchTrap (member : Bool) (latches : List Nat) : Option Nat :=
  if latches = [] then none
  else if !member || s.cur.pair.isSome then some s.loneLatch
  else match (s.g.ringOf s.cur.mask).chain with
    | none => some 0
    | some c => if 16 ≤ c.members then some 17 else if latches.all (· < c.members) then none else some (c.members + 1)

/-- Does the slot continue the chain in progress (R64)? -/
def continues (member : Bool) (latches : List Nat) : Bool :=
  member && latches ≠ [] && s.cur.pair.isNone && (s.g.openChain s.cur.mask).isSome

/-- What a result leaves in a latch (R63): the pair's 64 bits, or the register result. DESIGN CHOICE (log 82): the spec gives the upper half of a latch after a 32-bit result for CLZ alone (R297, zero-extended); the model zero-extends every 32-bit result. -/
def latched (k : DKind) (x : DWord) : DWord := if k = .pair then x else low32 x

/-- The ring with a new result in l0 (R63). -/
def shifted (k : DKind) (r : Ring) (out : List (Nat × LaneOut)) : Ring :=
  let old := (r.vals.filter fun e => e.1 < 96).map fun e => (e.1 + 32, e.2)
  { r with vals := out.foldl (fun t e => tabSet 0 t e.1 (latched k e.2.1)) old }

/-- The results of a vector-class slot by lane, ascending: zero in lanes whose guard is false (R63). -/
def laneOuts (x : Guard) (f : Nat → LaneOut) : List (Nat × LaneOut) :=
  let t := s.trueLanes x
  (lanesOf s.cur.mask).map fun i => (i, if t.getLsbD i then f i else (0, 0))

/-- The chain after a slot, and the flags that join STATUS with it: the slot continues a chain, starts one, or does neither; a 16th member commits its chain (R64, R66). -/
def chainAfter (before : Option Chain) (cont start : Bool) (first : DWord) (undoV : List (Nat × Word)) (undoP : List (Nat × BitVec 16)) (flags : DWord) :
    Option Chain × DWord :=
  let chain : Option Chain :=
    if cont then before.map fun c => { c with members := c.members + 1, undoV := undoV ++ c.undoV, undoP := undoP ++ c.undoP, flags := c.flags ||| flags }
    else if start then some ⟨first, 1, undoV, undoP, flags⟩ else none
  match chain with
  | none => (none, flags)
  | some c => if 16 ≤ c.members then (some { c with undoV := [], undoP := [], flags := 0 }, c.flags) else (some c, 0)

/-- Write the results, shift the ring, and keep the chain's account (R63, R64, R66). `f` is each lane's result from the state before any write. -/
def writeVec (x : Guard) (k : DKind) (d : Dst) (member cont : Bool) (f : Nat → LaneOut) : State :=
  let t := s.trueLanes x
  let out := s.laneOuts x f
  let g0 := s.g
  let undo := (lanesOf t).reverse.map fun i => g0.undoOf k d i
  let e := chainAfter (g0.openChain s.cur.mask) cont (member && s.cur.pair.isNone) s.cur.pc (undo.foldr (fun e l => e.1 ++ l) [])
    (undo.foldr (fun e l => e.2 ++ l) []) (out.foldl (fun a e => a ||| e.2.2) 0)
  let g1 := out.foldl (fun g e => if t.getLsbD e.1 then g.wrDst k d e.1 e.2.1 else g) g0
  let g2 := g1.setRing { shifted k (g0.ringOf s.cur.mask) out with chain := e.1 }
  s.setGrp s.cur.gk { g2 with status := g2.status ||| e.2 }

/-- What a slot writes is no longer undone with the vector slot of an older pair (R62): registers, a predicate's bit, and flags. -/
def outdoes (k : DKind) (d : Dst) (m : LaneMask) (flags : DWord) : State :=
  let regs : List Nat := match d, k with
    | .reg n, .word => (lanesOf m).map fun i => 32 * n.toNat + i
    | .reg n, .pair => (lanesOf m).flatMap fun i => [32 * n.toNat + i, 32 * (n.toNat + 1) + i]
    | _, _ => []
  let bit : BitVec 16 := match d, k with | .reg n, .pred => BitVec.ofNat 16 (2 ^ n.toNat) | _, _ => 0
  let cut (e : Log) : Log :=
    { e with undoV := e.undoV.filter (fun x => !regs.contains x.1), undoF := e.undoF &&& ~~~flags,
             undoP := e.undoP.map fun x => if m.getLsbD x.1 then (x.1, (x.2.1 &&& ~~~bit) ||| (x.2.2 &&& bit), x.2.2) else x }
  { s with logs := s.logs.map fun e => (e.1, if e.2.gk = s.cur.gk then cut e.2 else e.2) }

/-- THE VECTOR CLASSES (0x1 to 0x5): pending registers, REGRANGE, LATCH, then each true-guard lane's result is computed from the state before the instruction and written (R53, R63 to R66, R69, R96). `f t i` is lane i's result in the state t, in which a chain that the slot ends has committed. -/
def vecOp (x : Guard) (k : DKind) (d : Dst) (vr sr : List Run) (latches : List Nat) (member : Bool) (f : State → Nat → LaneOut) : Out :=
  if s.hitsPending vr sr then .next s.stall else
  let cont := s.continues member latches
  let s0 := if cont then s else s.endChain
  match s.rangeTrap vr with
  | some n => .next (s0.takeTrap { cause := Cause.regrange, detail := n, mask := s.cur.mask })
  | none => match s.latchTrap member latches with
    | some n => .next (s0.takeTrap { cause := Cause.latch, detail := n, mask := s.cur.mask })
    | none => .next ((((s0.writeVec x k d member cont (f s0)).outdoes k d (s0.trueLanes x) ((s0.laneOuts x (f s0)).foldl (fun a e => a ||| e.2.2) 0)).advance s.cur.mask).finish false)

/-- A register form whose three sources the operation reads. -/
def vec3 (p : VSpec) (x : VArgs) (k : DKind) (f : State → Nat → LaneOut) : Out :=
  s.vecOp x.guard k x.d (p.runs x) [] (latchNo x.a ++ latchNo x.b ++ latchNo x.c) true f

/-- An I-form. -/
def vecImm (p : VSpec) (x : VImm) (k : DKind) (f : State → Nat → LaneOut) : Out :=
  s.vecOp x.guard k x.d (p.runsI x) [] (latchNo x.a) true f

/-- A cross-lane instruction, which is never a chain member (R64, R368). -/
def vecLone (p : VSpec) (x : VArgs) (k : DKind) (f : State → Nat → LaneOut) : Out :=
  s.vecOp x.guard k x.d (p.runs x) [] (latchNo x.a ++ latchNo x.b ++ latchNo x.c) false f

/-- A scalar-class slot: its checks, then its effect once when a lane's guard is true (R53). -/
def sclOp (x : Guard) (sr : List Run) (f : State → State) : Out :=
  s.enter [] sr fun t => .next (((if s.trueLanes x = 0 then t else f t).advance s.cur.mask).finish false)

/-- Write a scalar of the issuing group. -/
def wrScalar (n : Nat) (x : DWord) : State := s.modG fun g => g.wrS n x

end State

/-- Sources of an integer instruction after the modifiers (R307). -/
def intArgs (s : State) (x : VArgs) (i : Nat) : Int × Int × Int :=
  let w := x.ty.wide
  (intMod x.absA x.negA (intVal x.ty (s.rdSrc w x.a i)), intMod x.absB x.negB (intVal x.ty (s.rdSrc w x.b i)), intVal x.ty (s.rdSrc w x.c i))

/-- A and the widened immediate of an integer I-form (R54). -/
def intArgsI (s : State) (x : VImm) (i : Nat) : Int × Int :=
  (intMod x.absA x.negA (intVal x.ty (s.rdSrc x.ty.wide x.a i)), intMod x.absB x.negB (intVal x.ty (x.imm.signExtend 64)))

/-- The floating immediate at the type: FP32, rne to the narrow types, in both halves of the packed ones (R54). -/
def fltImm (ty : Ty) (imm : Word) : DWord :=
  let v := decodeFloat .fp32 imm.toNat
  (halves ty fun _ => putFloat ty.fmt .rne false v).1

/-- Sources of a floating instruction, element k, after the modifiers (R307). -/
def fltArgs (s : State) (x : VArgs) (i k : Nat) : FVal × FVal :=
  let w := x.ty.wide
  (floatOperand x.ty x.absA x.negA (s.rdSrc w x.a i) k, floatOperand x.ty x.absB x.negB (s.rdSrc w x.b i) k)

def fltArgsI (s : State) (x : VImm) (i k : Nat) : FVal × FVal :=
  (floatOperand x.ty x.absA x.negA (s.rdSrc x.ty.wide x.a i) k, floatOperand x.ty x.absB x.negB (fltImm x.ty x.imm) k)

/-- The value of a predicate as a result. -/
def boolOut (b : Bool) : LaneOut := (if b then 1 else 0, 0)

end Sys2Proof.Machine
end

