-- ==== Sys2Proof/Machine/Lanes.lean ====
section
/-! DEFINITION. Class 0x5: moves, special registers, cross-lane and predicate instructions (R88, R355, R362, R368, R369), and the blocking reads of handles (R90). -/

namespace Sys2Proof.Machine

namespace State
variable (s : State)

/-- Is a causal trial running for the group's grid (R276)? -/
def trialOn (gk : Nat) : Bool :=
  let t := s.obs.trctl
  let x := s.grid (s.team (teamOf gk)).grid
  !isAgent gk && t.getLsbD 0 && x.queue = (t.extractLsb' 48 16).toNat && x.seq % 2 ^ 32 = (t.extractLsb' 16 32).toNat

/-- The special registers (R20, R88), as lane i of the issuing path reads them. DESIGN CHOICE (log 15): the agent has neither team nor grid, so that its own SRD of a team's or grid's register, BARTMO and SPINTH among them, reads that of the empty team or grid, 0. -/
def sprRead (n lane : Nat) : DWord :=
  match n with
  | 0x000 => BitVec.ofNat 64 lane
  | 0x001 => BitVec.ofNat 64 (gidOf s.cur.gk)
  | 0x002 => BitVec.ofNat 64 (32 * gidOf s.cur.gk + lane)
  | 0x003 => BitVec.ofNat 64 s.tm.x
  | 0x004 => BitVec.ofNat 64 s.tm.y
  | 0x005 => BitVec.ofNat 64 s.tm.z
  | 0x006 => BitVec.ofNat 64 s.gr.count
  | 0x007 => BitVec.ofNat 64 s.tm.clrank
  | 0x008 => s.cur.mask.setWidth 64
  | 0x009 => BitVec.ofNat 64 s.devid
  | 0x00A => BitVec.ofNat 64 (s.gtime s.curCore)
  | 0x010 => s.g.status
  | 0x011 => BitVec.ofNat 64 (s.g.retiredOf lane)
  | 0x012 => if s.trialOn s.cur.gk then 1 else 0
  | 0x020 => BitVec.ofNat 64 s.tm.bartmo
  | 0x021 => BitVec.ofNat 64 s.gr.spinth
  | _ => 0

/-- The status word of a handle (R90). -/
def handleWord (tag : Nat) : Word :=
  if tag = 0 then 0 else
  let o := s.op tag
  let kind := match o.kind with
    | .copy => 1 | .tile => 2 | .kpass => 3 | .kwin => 4 | .fsend => 5 | .pmig => 6 | _ => 0
  BitVec.ofNat 32 (kind * 2 ^ 28 + (if o.kind = .pmig then o.detail % 65536 else 0) * 256 + o.result)

/-- The special register as SGET reads it: inside a pair, the value before the pair (R62). -/
def sgetRead (n lane : Nat) : DWord := match s.cur.pair with | some q => tabGet 0 q.spr lane | none => s.sprRead n lane

/-- Lanes of a mask whose handle n is pending (R90). -/
def pendingLanes (m : LaneMask) (n : Nat) : LaneMask :=
  maskOf fun i => m.getLsbD i && s.g.rdH n i ≠ 0 && (s.op (s.g.rdH n i)).st = .pending

/-- Lanes whose handle n has failed, and whose failure has not been reported yet. -/
def failedLanes (m : LaneMask) (n : Nat) : LaneMask :=
  maskOf fun i => m.getLsbD i && s.g.rdH n i ≠ 0 && !s.g.toldOf n i && (s.op (s.g.rdH n i)).st = .failed

/-- The lanes' stores from now on include the writes of operations (R154). -/
def joinOps (m : LaneMask) (ops : Nat → List Op) : State :=
  s.modG fun g => g.each m fun h i => (ops i).foldl (fun h o => h.joinOp i o) h

/-- READING A HANDLE (R21, R90): a pending one blocks its own thread until the operation ends, and the path's other lanes stay runnable; a failed one raises its code, after which that handle is complete, and no other handle that follows the operation (R331); otherwise the engine's writes become the lanes' stores (R154) and the instruction goes on. -/
def readHandle (m : LaneMask) (n : Nat) (k : State → Out) : Out :=
  let p := s.pendingLanes m n
  if p ≠ 0 then
    .next (s.modG fun g => g.each p fun h i => h.setWait i (.handle (h.rdH n i))).stall
  else
    let f := s.failedLanes m n
    if f ≠ 0 then
      let code := (s.op (s.g.rdH n (lowLane f))).result
      let bad := maskOf fun i => f.getLsbD i && (s.op (s.g.rdH n i)).result = code
      let o := s.op (s.g.rdH n (lowLane bad))
      let detail := if code = Cause.remote then o.detail % 65536 else if code = Cause.prot then o.detail % 8 else o.detail
      let s1 := s.modG fun g => g.each bad fun h i => h.tellH n i
      .next (s1.takeTrap { cause := code, detail, mask := bad, issuePc := o.pc, addr := BitVec.ofNat 64 o.badAt })
    else k (s.joinOps m fun i => if s.g.rdH n i = 0 then [] else [s.op (s.g.rdH n i)])

end State

def execMov (x : VArgs) (s : State) : Out :=
  s.vec3 .moveV x (.ofTy x.ty) fun t i => (t.rdSrc x.ty.wide x.a i, 0)
/-- MOV from a handle (R90, R355): no chain member; it blocks, then writes the status word. -/
def execMovH (x : VArgs) (s : State) : Out :=
  if s.hitsPending (VSpec.moveH.runs x) [] then .next s.stall else
  match s.rangeTrap (VSpec.moveH.runs x) with
  | some _ => s.vecLone .moveH x .word fun _ _ => (0, 0)
  | none =>
    let n := match x.a with | .reg n => n.toNat % 16 | .latch _ => 0
    s.endChain.readHandle (s.trueLanes x.guard) n fun t =>
      t.vecLone .moveH x .word fun u i => ((u.handleWord (u.g.rdH n i)).setWidth 64, 0)
def execMovi (x : VImm) (s : State) : Out :=
  s.vecImm .moveI x (.ofTy x.ty) fun _ _ => (if x.ty.wide then x.imm.signExtend 64 else x.imm.setWidth 64, 0)
def execMovs (x : VArgs) (s : State) : Out :=
  let n := match x.a with | .reg n => n.toNat | .latch _ => 0
  s.vecOp x.guard (.ofTy x.ty) x.d (VSpec.moveS.runs x) [(n, 1)] [] true fun t _ =>
    (if x.ty.wide then t.rdScalar n else low32 (t.rdScalar n), 0)

/-- SGET: each lane's own value (R369). -/
def execSget (x : VArgs) (s : State) : Out :=
  let n := match x.a with | .reg n => n.toNat | .latch _ => 0
  s.vecLone .getSpr x (.ofTy x.ty) fun t i => (if x.ty.wide then t.sgetRead n i else low32 (t.sgetRead n i), 0)

/-- SHFL's source lane (R369); 32 or above names none. -/
def shflLane (mode lane b : Nat) : Nat :=
  match mode % 4 with
  | 0 => b % 32
  | 1 => if mode / 4 = 1 then (lane + 32 - b % 32) % 32 else if b ≤ lane then lane - b else 32
  | 2 => if mode / 4 = 1 then (lane + b) % 32 else lane + b
  | _ => lane ^^^ (b % 32)
def execShfl (x : VArgs) (s : State) : Out :=
  let p := s.trueLanes x.guard
  s.vecLone .shuffle x (.ofTy x.ty) fun t i =>
    let j := shflLane (x.op8.toNat % 8) i (lowNat 32 (t.rdSrc false x.b i))
    (t.rdSrc x.ty.wide x.a (if j < 32 && p.getLsbD j then j else i), 0)

/-- VOTE over the participating lanes (R369). -/
def execVote (x : VArgs) (s : State) : Out :=
  let p := s.trueLanes x.guard
  let n := match x.a with | .reg n => n.toNat % 16 | .latch _ => 0
  let yes (t : State) : LaneMask := maskOf fun i => p.getLsbD i && t.rdPred n i
  if x.op8.toNat < 3 then
    s.vecOp x.guard .pred x.d [] [] [] false fun t _ =>
      let y := yes t
      boolOut (match x.op8.toNat with | 0 => y = p | 1 => y ≠ 0 | _ => y = 0 || y = p)
  else
    s.vecOp x.guard .word x.d (VSpec.voteM.runs x) [] [] false fun t _ =>
      (if x.op8.toNat = 7 then BitVec.ofNat 64 (popMask (yes t)) else (yes t).setWidth 64, 0)

/-- REDUX in the fixed tree of 32 lanes (R166). -/
def execRedux (x : VArgs) (s : State) : Out :=
  let p := s.trueLanes x.guard
  let o := redOpOf x.op8.toNat
  s.vecLone .reduce x (.ofTy x.ty) fun t _ =>
    redTree x.ty o ((List.range 32).map fun i => (if p.getLsbD i then t.rdSrc x.ty.wide x.a i else redNeutral x.ty o, 0))

def execPset (x : VArgs) (s : State) : Out :=
  s.vec3 .setBit x .pred fun t i => boolOut ((t.rdSrc false x.a i).getLsbD (x.op8.toNat % 32))
/-- PLOP: bit (pA + 2·pB + 4·pC) of the table (R362). -/
def execPlop (x : VArgs) (s : State) : Out :=
  let n (y : Src) : Nat := match y with | .reg n => n.toNat % 16 | .latch _ => 15
  s.vecOp x.guard .pred x.d [] [] [] true fun t i =>
    boolOut (x.op8.getLsbD ((t.rdPred (n x.a) i).toNat + 2 * (t.rdPred (n x.b) i).toNat + 4 * (t.rdPred (n x.c) i).toNat))

end Sys2Proof.Machine
end

