-- ==== Sys2Proof/Machine/Counters.lean ====
section
/-! DEFINITION. Engine operations, the four outstanding-operation counters, and the conditions of a fence (R91, R96, R143, R150, R154). -/

namespace Sys2Proof.Machine

/-- Codes of the counters (R58, R91). -/
def Ctr.code : Ctr → Nat
  | .copy => 0
  | .kiln => 1
  | .atomnr => 2
  | .fabric => 3

/-- The counter that an operation's kind belongs to (R91). -/
def OpKind.ctr : OpKind → Nat
  | .copy | .tile => 0
  | .kpass | .kwin => 1
  | .atomNr => 2
  | .fsend | .pmig | .ffence | .fsync => 3

namespace State
variable (s : State)

/-- Has every operation of an issue event ended? -/
def markDone (m : Nat) : Bool := s.ops.all fun e => e.2.mark ≠ m || e.2.st ≠ .pending
/-- A counter's value: the issue events since the oldest that has not completed (R91). -/
def ctrValue (gk c : Nat) : Nat := (((s.grp gk).ctrOf c).dropWhile fun m => s.markDone m).length
/-- An instruction that would raise the counter to 1,024 stalls (R91). -/
def ctrFull (c : Nat) : Bool := Config.counterFull ≤ s.ctrValue s.cur.gk c + 1

/-- Start operations, one for each element of the list, as one issue event: the counter rises by one, and the handles of the lanes that the list names follow their operations (R90, R91). -/
def startOps (l : List (Op × List Nat)) (handle : Option Nat) : List Nat × State :=
  let mark := s.nextOp
  let ids := (List.range l.length).map (· + mark)
  let c := match l with | (o, _) :: _ => OpKind.ctr o.kind | [] => 0
  let add (t : Tab Op) (e : (Op × List Nat) × Nat) : Tab Op := tabPut t e.2 { e.1.1 with mark := mark }
  let tag (g : Group) (e : (Op × List Nat) × Nat) : Group :=
    match handle with | none => g | some h => e.1.2.foldl (fun g i => g.wrH h i e.2) g
  let s1 := { s with nextOp := mark + l.length, ops := (l.zip ids).foldl add s.ops }
  let g1 := s1.g.setCtr c (((s1.g.ctrOf c).dropWhile fun m => s.markDone m) ++ [mark])
  let g2 := (l.zip ids).foldl tag g1
  (ids, s1.setGrp s1.cur.gk g2)

/-- Has the core's GTIME reached a time? -/
def reached (c t : Nat) : Bool := t ≤ s.now || t ≤ s.gtime c

/-- Older operand-log entries of a group other than PREF's (R96). -/
def logBusy (gk : Nat) : Bool := s.logs.any fun e => e.2.gk = gk && e.2.kind ≠ .prefetch

/-- Items 1 to 5 of R143 for the lanes of a mask. -/
def fencePassed (gk : Nat) (m : LaneMask) (scope : Scope) : Bool :=
  let g := s.grp gk
  !s.logBusy gk && s.ctrValue gk 2 = 0 &&
  match scope with
  | .team | .clus => true
  | _ => (lanesOf m).all fun i =>
    (match tabFind g.storeP i with | some p => s.reached (coreOf gk) (p + epsilon scope) | none => true) &&
    (match tabFind g.atomP i with | some p => s.reached (coreOf gk) p | none => true)

/-- Of the lanes' stores and atomics that device d has performed, the greatest performed time (R155); an FFENCE of such a lane to d that log entry `id` precedes takes it in (R322). -/
def noteFar (gk : Nat) (m : LaneMask) (d p id : Nat) : State :=
  let after (o : Op) : Bool := o.kind = .ffence && o.st = .pending && o.gk = gk && m.getLsbD o.lane && o.args.headD 0 = d && id < o.args.getLastD 0
  State.modGrp { s with ops := s.ops.map fun e => if after e.2 then (e.1, { e.2 with perf := max e.2.perf p }) else e } gk
    fun g => g.each m fun h i => { h with farP := tabSet 0 h.farP (1024 * i + d) (max (tabGet 0 h.farP (1024 * i + d)) p) }

/-- The lanes' greatest performed times take in a store's (R137). -/
def noteStore (gk : Nat) (m : LaneMask) (p : Nat) : State :=
  s.modGrp gk fun g => g.each m fun h i => { h with storeP := tabSet 0 h.storeP i (max (tabGet 0 h.storeP i) p) }
/-- An atomic's P counts with the fence's own ε, and with its own scope's (R137, R143). -/
def noteAtomic (gk : Nat) (m : LaneMask) (p : Nat) (scope : Scope) : State :=
  (s.noteStore gk m p).modGrp gk fun g => g.each m fun h i => { h with atomP := tabSet 0 h.atomP i (max (tabGet 0 h.atomP i) (p + epsilon scope)) }

end State

end Sys2Proof.Machine
end

