-- ==== Sys2Proof/Machine/Loads.lean ====
section
/-! DEFINITION. Class 0x7: the issue of loads, stores, acquires, releases, line accesses and prefetches into the operand log, and FENCE and WAITC (R58, R94 to R96, R141 to R147, R341 to R349, R375). -/

namespace Sys2Proof

/-- Bytes of one lane's access and of one single-copy unit: an access of 16 bytes or fewer, or each 16 bytes of a wider one (R58, R147). DEDUCED (log 111): the events of R343's units of 4 bytes that lie in one aligned 16-byte part are one, as R147 makes the part single-copy; and the loads of one event that lie in one line are one read (R344). -/
def MemArgs.bytes (x : MemArgs) : Nat := if x.size.toNat < 2 then 2 ^ x.size.toNat else 4 * countOf x.count
def MemArgs.unit (x : MemArgs) : Nat := min x.bytes 16
def AcqArgs.bytes (x : AcqArgs) : Nat := if x.b64 then 8 else 4

end Sys2Proof

namespace Sys2Proof.Machine

namespace State
variable (s : State)

/-- Quadrant of a group (R16). -/
def quadOf (gk : Nat) : Nat := if isAgent gk then 0 else ((s.team (teamOf gk)).q0 + gidOf gk) % 4
/-- Do memory instructions of the group stall: the operand log of its quadrant is full (R94), or its core waits for a place in the die's walk queue (R121)? -/
def logFull (gk : Nat) : Bool :=
  (s.core (coreOf gk)).walkStall ||
  Config.logEntries ≤ (s.logs.filter fun e => coreOf e.2.gk = coreOf gk && s.quadOf e.2.gk = s.quadOf gk).length

/-- An address of R58, modulo 2^64. -/
def memAddr (sbase : Bool) (a b : BitVec 11) (off : DWord) (lane : Nat) : Nat :=
  ((if sbase then s.g.rdS a.toNat else s.g.rdPair a.toNat lane) + (if b = 0 then 0 else s.g.rdS b.toNat) + off).toNat

/-- Does an access of the path in replay mode go to another device (R280)? -/
def replayBad (m : LaneMask) (a : Nat → Nat) : LaneMask :=
  if !s.gr.replay then 0 else maskOf fun i => m.getLsbD i && apertureOf (a i) = .glob &&
    match s.peek s.curCore s.tm.asid (a i) with | .elsewhere _ => true | _ => false

/-- Lanes whose AFADD meets a malformed entry: an exact-sum leaf without a descriptor is found at issue (R252). -/
def badSum (e : Log) (m : LaneMask) (a : Nat → Nat) : LaneMask :=
  match e.atom with
  | some (.afadd _) => maskOf fun i => m.getLsbD i && apertureOf (a i) = .glob && s.peek s.curCore s.tm.asid (a i) = .malformed
  | _ => 0

/-- Does some lane's access touch an absent scratchpad line (R107)? -/
def parks (m : LaneMask) (a : Nat → Nat) (w : Nat) : Bool :=
  (lanesOf m).any fun i => match s.placeOf s.cur.gk i (a i) w with
    | some (.scratch p) => s.touchesAbsent p w
    | _ => false

/-- Put an entry into the operand log with the events that will perform it; a path that touches an absent line parks (R94, R107). -/
def putLog (e : Log) (events : Nat → List Instr) : State :=
  let id := s.nextLog
  let s1 := { s with logs := tabPut s.logs id e, nextLog := id + 1 }
  let s2 := s1.post (events id)
  if e.parked then s2.modG fun g => g.each s2.cur.mask fun h i => h.setWait i (.parked id) else s2

/-- Data parts of a store: part k of a lane at key 64·lane + k (R343). -/
def partsOf (m : LaneMask) (w u : Nat) (x : Nat → Nat) : Tab Nat :=
  (lanesOf m).flatMap fun i => (List.range (w / u)).map fun k => (64 * i + k, x i / 256 ^ (u * k) % 256 ^ u)

/-- ISSUE OF A MEMORY INSTRUCTION (R342, R94): checks of order 9, a log entry, and the slot's end. `acc` are the lanes that make an access. DESIGN CHOICE (log 83): a store whose guard is false in every lane issues all the same, and clears the yield mark. -/
def memIssue (t acc : LaneMask) (a : Nat → Nat) (w : Nat) (write : Bool) (e : Log) (events : Nat → List Instr) : Out :=
  if t = 0 then .next ((s.advance s.cur.mask).finish write) else
  match s.issueChecks s.cur.gk acc a w write with
  | some p => .next (s.takeTrap p)
  | none =>
    let rb := s.replayBad acc a
    let xs := s.badSum e acc a
    if xs ≠ 0 then s.raise Cause.nomap 0 xs 1 (BitVec.ofNat 64 (a (lowLane xs)))
    else if rb ≠ 0 then s.raise Cause.prot (if write then 2 else 1) rb 0 (BitVec.ofNat 64 (a (lowLane rb)))
    else if s.logFull s.cur.gk then .next s.stall
    else
      let entry := { e with gk := s.cur.gk, pc := s.cur.pc, slot := s.cur.word, mask := s.cur.mask, lanes := t, width := w,
                            addr := (lanesOf acc).map fun i => (i, a i), parked := s.parks acc a w, cycle := s.cycle }
      .next (((s.advance s.cur.mask).finish write).putLog entry events)

/-- The registers of a vector memory access, for the checks of pending registers and REGRANGE (R51, R96). -/
def baseRuns (sbase : Bool) (a b : BitVec 11) : List Run × List Run :=
  (if sbase then [] else [(a.toNat, 2)], (if sbase then [(a.toNat, 1)] else []) ++ (if b = 0 then [] else [(b.toNat, 1)]))

/-- The store data of a lane: count registers, lowest first. -/
def regBytes (n cnt lane : Nat) : Nat := (List.range cnt).foldr (fun k x => (s.g.rdV (n + k) lane).toNat + 2 ^ 32 * x) 0

end State

def execLd (x : MemArgs) (s : State) : Out :=
  let r := State.baseRuns x.sbase x.a x.b
  s.enter ((x.d.toNat, countOf x.count) :: r.1) r.2 fun s =>
    let t := s.trueLanes x.guard
    s.memIssue t t (s.memAddr x.sbase x.a x.b (x.off.signExtend 64)) x.bytes false
      { Log.empty with kind := .load, unit := x.bytes, dst := x.d.toNat, cnt := countOf x.count } fun id => [.loadReturn id]

def execSt (x : MemArgs) (s : State) : Out :=
  let r := State.baseRuns x.sbase x.a x.b
  s.enter ((x.c.toNat, countOf x.count) :: r.1) r.2 fun s =>
    let t := s.trueLanes x.guard
    s.memIssue t t (s.memAddr x.sbase x.a x.b (x.off.signExtend 64)) x.bytes true
      { Log.empty with kind := .store, unit := x.unit, data := State.partsOf t x.bytes x.unit fun i => s.regBytes x.c.toNat (countOf x.count) i }
      fun id => (lanesOf t).map fun i => .storePerformed id i

/-- LDAQ reads the home slice or the array (R146). -/
def execLdaq (x : AcqArgs) (s : State) : Out :=
  let r := State.baseRuns x.sbase x.a x.b
  s.enter ((x.d.toNat, x.bytes / 4) :: r.1) r.2 fun s =>
    let t := s.trueLanes x.guard
    -- it waits for every older entry of the group (R96)
    if t ≠ 0 && s.logBusy s.cur.gk then .next s.stall else
    s.memIssue t t (s.memAddr x.sbase x.a x.b (x.off.signExtend 64)) x.bytes false
      { Log.empty with kind := .acquire, unit := x.bytes, dst := x.d.toNat, cnt := x.bytes / 4, scope := x.scope } fun id => [.loadReturn id]

/-- STRL performs FENCE.scope in its true-guard lanes, then stores (R145). -/
def execStrl (x : AcqArgs) (s : State) : Out :=
  let r := State.baseRuns x.sbase x.a x.b
  s.enter ((x.c.toNat, x.bytes / 4) :: r.1) r.2 fun s =>
    let t := s.trueLanes x.guard
    match s.issueChecks s.cur.gk t (s.memAddr x.sbase x.a x.b (x.off.signExtend 64)) x.bytes true with
    | some p => .next (s.takeTrap p)
    | none =>
      if t ≠ 0 && !s.fencePassed s.cur.gk t x.scope then .next s.stall else
      s.memIssue t t (s.memAddr x.sbase x.a x.b (x.off.signExtend 64)) x.bytes true
        { Log.empty with kind := .release, unit := x.bytes, scope := x.scope, data := State.partsOf t x.bytes x.bytes fun i => s.regBytes x.c.toNat (x.bytes / 4) i }
        fun id => (lanesOf t).map fun i => .storePerformed id i

/-- The aligned line that the lowest true-guard lane names, and the lanes whose address breaks R348. -/
def lineShape (t : LaneMask) (a : Nat → Nat) : Nat × LaneMask :=
  let l := a (lowLane t) / 128 * 128
  (l, maskOf fun i => t.getLsbD i && a i ≠ l + 4 * i)

/-- LDLN and STLN after their register checks: one event for the line (R348, R349). -/
def lineIssue (x : MemArgs) (write : Bool) (e : Log) (events : Nat → List Instr) (s : State) : Out :=
  let t := s.trueLanes x.guard
  let a := s.memAddr false x.a x.b (x.off.signExtend 64)
  let sh := lineShape t a
  if t = 0 then .next ((s.advance s.cur.mask).finish write) else
  if sh.2 ≠ 0 then s.raise Cause.misalign 0 sh.2 0 (BitVec.ofNat 64 (a (lowLane sh.2))) else
  -- one access of 128 bytes, held under the lowest true-guard lane
  s.memIssue t (maskOf fun i => i = lowLane t) (fun _ => sh.1) 128 write e events

def execLdln (x : MemArgs) (s : State) : Out :=
  let r := State.baseRuns x.sbase x.a x.b
  s.enter ((x.d.toNat, 1) :: r.1) r.2 fun s =>
    lineIssue x false { Log.empty with kind := .lineLoad, unit := 128, dst := x.d.toNat, cnt := 1 } (fun id => [.loadReturn id]) s
def execStln (x : MemArgs) (s : State) : Out :=
  let r := State.baseRuns x.sbase x.a x.b
  s.enter ((x.c.toNat, 1) :: r.1) r.2 fun s =>
    let t := s.trueLanes x.guard
    lineIssue x true { Log.empty with kind := .lineStore, unit := 128, data := State.partsOf t 4 4 fun i => (s.g.rdV x.c.toNat i).toNat }
      (fun id => [.storePerformed id (lowLane t)]) s

/-- PREF takes an entry and raises nothing beyond the decode traps (R345). -/
def execPref (x : MemArgs) (s : State) : Out :=
  let r := State.baseRuns x.sbase x.a x.b
  s.enter r.1 r.2 fun s =>
    let t := s.trueLanes x.guard
    if t = 0 then .next ((s.advance s.cur.mask).finish false)
    else if s.logFull s.cur.gk then .next s.stall
    else
      let a := s.memAddr x.sbase x.a x.b (x.off.signExtend 64)
      .next (((s.advance s.cur.mask).finish false).putLog
        { Log.empty with gk := s.cur.gk, pc := s.cur.pc, slot := s.cur.word, kind := .prefetch, mask := s.cur.mask, lanes := t, width := x.bytes, unit := x.bytes,
                         cycle := s.cycle, addr := (lanesOf t).map fun i => (i, a i) } fun id => [.loadReturn id])

/-- SLD and SST: one access, held under the lowest true-guard lane (R346). -/
def execSld (x : MemArgs) (s : State) : Out :=
  s.enter [] ((x.d.toNat, 1) :: (State.baseRuns true x.a x.b).2) fun s =>
    let t := s.trueLanes x.guard
    s.memIssue t (maskOf fun i => t.getLsbD i && i = lowLane t) (s.memAddr true x.a x.b (x.off.signExtend 64)) x.bytes false
      { Log.empty with kind := .load, unit := x.bytes, dst := x.d.toNat, cnt := 1, scalar := true } fun id => [.loadReturn id]
def execSst (x : MemArgs) (s : State) : Out :=
  s.enter [] ((x.c.toNat, 1) :: (State.baseRuns true x.a x.b).2) fun s =>
    let t := s.trueLanes x.guard
    let l := maskOf fun i => t.getLsbD i && i = lowLane t
    s.memIssue t l (s.memAddr true x.a x.b (x.off.signExtend 64)) x.bytes true
      { Log.empty with kind := .store, unit := x.bytes, scalar := true, data := State.partsOf l x.bytes x.bytes fun _ => (s.g.rdS x.c.toNat).toNat }
      fun id => (lanesOf l).map fun i => .storePerformed id i

/-- FENCE: the path goes on when every true-guard lane has passed (R143, R319). -/
def execFence (x : FenceArgs) (s : State) : Out :=
  s.enter [] [] fun s =>
    let t := s.trueLanes x.guard
    if t ≠ 0 && !s.fencePassed s.cur.gk t x.scope then .next s.stall
    else .next ((s.advance s.cur.mask).finish true)

namespace State
variable (s : State)

/-- Operations of the group that a wait for a counter to fall to n passes: those that have ended, of every issue event but the n youngest (R91, R376). -/
def passedOps (c n : Nat) : List (Nat × Op) :=
  let l := s.ops.filter fun e => e.2.gk = s.cur.gk && OpKind.ctr e.2.kind = c
  let marks := (l.map fun e => e.2.mark).eraseDups
  let young := marks.drop (marks.length - n)
  l.filter fun e => e.2.st ≠ .pending && !young.contains e.2.mark

/-- A failed FABRIC entry that the wait passes and no WAITC has raised yet: an operation without a handle (R323, R376). -/
def failedEntry (n : Nat) : Option (Nat × Op) :=
  (s.passedOps 3 n).find? fun e => e.2.st = .failed && (e.2.kind = .ffence || e.2.kind = .fsync)

end State

/-- WAITC (R91, R375, R376). -/
def execWaitc (x : WaitArgs) (s : State) : Out :=
  s.enter [] [] fun s =>
    let t := s.trueLanes x.guard
    let c := Ctr.code x.ctr
    if t = 0 then .next ((s.advance s.cur.mask).finish false)
    else if x.n.toNat < s.ctrValue s.cur.gk c || (x.ctr = .atomnr && s.logBusy s.cur.gk) then .next s.stall
    else match (if x.ctr = .fabric then s.failedEntry x.n.toNat else none) with
      | some e =>
        -- the detail field holds the code (R323)
        let s1 := s.modOp e.1 fun o => { o with st := .complete, reported := true }
        .next (s1.takeTrap { cause := e.2.result, detail := e.2.result, mask := t })
      | none =>
        .next (((s.joinOps t fun _ => (s.passedOps c x.n.toNat).map (·.2)).advance s.cur.mask).finish false)

end Sys2Proof.Machine
end

