-- ==== Sys2Proof/Machine/Atomics.lean ====
section
/-! DEFINITION. Class 0x8: atomics (R59, R148 to R150, R283 to R289). -/

namespace Sys2Proof.Machine

/-- Access width of an atomic in bytes (R148). -/
def atomBytes (x : AtomArgs) : Nat := if x.wide then 16 else x.ty.bits / 8

/-- A signed or unsigned comparison picks one of two numbers of the type (R148). -/
def pick (ty : Ty) (least : Bool) (a b : Nat) : Nat :=
  let v (n : Nat) : Int := if ty.signed then toSigned ty.bits n else n
  if (if least then v b < v a else v a < v b) then b else a

/-- A floating atomic on each element: RNE and no flags (R149). -/
def atomFlt (ty : Ty) (f : Nat → Nat → Nat) (a b : Nat) : Nat :=
  (halves ty fun k => (BitVec.ofNat 64 (f (elem ty (BitVec.ofNat 64 a) k) (elem ty (BitVec.ofNat 64 b) k)), 0)).1.toNat

/-- AFADD of one element (R149). -/
def addElem (ty : Ty) (a b : Nat) : Nat := (outOf ty.fmt .rne false (addVal .rne (decodeFloat ty.fmt a) (decodeFloat ty.fmt b))).1.toNat

/-- What an atomic stores for operand b and comparand c (R148, R149, R153). -/
def atomOp (i : Instr) (b c : Nat) : State.AtomOp :=
  match i with
  | .aadd x => ⟨fun o => (o + b) % 256 ^ atomBytes x, none⟩
  | .amin x => ⟨fun o => pick x.ty true o b, none⟩
  | .amax x => ⟨fun o => pick x.ty false o b, none⟩
  | .aand _ => ⟨fun o => o &&& b, none⟩
  | .aor _ => ⟨fun o => o ||| b, none⟩
  | .axor _ => ⟨fun o => o ^^^ b, none⟩
  | .axch _ => ⟨fun _ => b, none⟩
  | .acas _ => ⟨fun o => if o = c then b else o, none⟩
  | .afadd x => ⟨fun o => atomFlt x.ty (addElem x.ty) o b,
      match x.ty with | .f32 => some (false, decodeFloat .fp32 b) | .f64 => some (true, decodeFloat .fp64 b) | _ => none⟩
  | .afmin x => ⟨fun o => atomFlt x.ty (minMax x.ty.fmt true) o b, none⟩
  | .afmax x => ⟨fun o => atomFlt x.ty (minMax x.ty.fmt false) o b, none⟩
  | _ => ⟨fun o => o, none⟩

/-- An operand of n bytes in registers from r (R283). -/
def atomReg (s : State) (r : BitVec 11) (n lane : Nat) : Nat := s.regBytes r.toNat ((n + 3) / 4) lane % 256 ^ n

/-- Registers of an atomic operand. -/
def atomCnt (x : AtomArgs) : Nat := (atomBytes x + 3) / 4

/-- ISSUE OF AN ATOMIC (R284): a log entry for its lanes; the no-return form raises ATOMNR and leaves no register pending (R150). -/
def atomIssue (x : AtomArgs) (i : Instr) (useC : Bool) (s : State) : Out :=
  let n := atomBytes x
  let k := atomCnt x
  s.enter ((if x.nr then [] else [(x.d.toNat, k)]) ++ (x.a.toNat, 2) :: (x.b.toNat, k) :: (if useC then [(x.c.toNat, k)] else [])) [] fun s =>
    let t := s.trueLanes x.guard
    let data := (lanesOf t).flatMap fun j =>
      (64 * j, atomReg s x.b n j) :: (if useC then [(64 * j + 32, atomReg s x.c n j)] else [])
    if t ≠ 0 && x.nr && s.ctrFull 2 then .next s.stall else
    -- the entry's operation is started only when the issue goes through
    let e := { Log.empty with kind := .atomic, unit := n, data, dst := x.d.toNat, cnt := if x.nr then 0 else k, scope := x.scope, atom := some i, nr := x.nr,
                              mark := if x.nr then s.nextOp else 0 }
    let out := s.memIssue t t (s.memAddr false x.a 0 (x.off.signExtend 64)) n true e fun id => (lanesOf t).map fun j => .homeAtomic id j
    match out with
    | .next u =>
      if x.nr && t ≠ 0 && u.cur.verdict = .done then
        .next (u.startOps [({ Op.none with kind := .atomNr, gk := u.cur.gk, st := .pending, pc := s.cur.pc, asid := s.tm.asid, ctx := s.tm.ctx }, [])] none).2
      else .next u
    | o => o

def execAadd (x : AtomArgs) (s : State) : Out := atomIssue x (.aadd x) false s
def execAmin (x : AtomArgs) (s : State) : Out := atomIssue x (.amin x) false s
def execAmax (x : AtomArgs) (s : State) : Out := atomIssue x (.amax x) false s
def execAand (x : AtomArgs) (s : State) : Out := atomIssue x (.aand x) false s
def execAor (x : AtomArgs) (s : State) : Out := atomIssue x (.aor x) false s
def execAxor (x : AtomArgs) (s : State) : Out := atomIssue x (.axor x) false s
def execAxch (x : AtomArgs) (s : State) : Out := atomIssue x (.axch x) false s
def execAcas (x : AtomArgs) (s : State) : Out := atomIssue x (.acas x) true s
def execAfadd (x : AtomArgs) (s : State) : Out := atomIssue x (.afadd x) false s
def execAfmin (x : AtomArgs) (s : State) : Out := atomIssue x (.afmin x) false s
def execAfmax (x : AtomArgs) (s : State) : Out := atomIssue x (.afmax x) false s

end Sys2Proof.Machine
end

