-- ==== Sys2Proof/Machine/Fetch.lean ====
section
/-! DEFINITION. Fetching lines through the instruction cache, with the parity check and one refetch, and the checks of a transfer's target (R44 to R49, R69). -/

namespace Sys2Proof.Machine

/-- What fetching a line finds. -/
inductive Fetched where
  /-- the line, whether its parity failed twice, and the state with the cache filled -/
  | line (l : Line) (bad : Bool) (s : State)
  /-- a recoverable fault: the path waits (R47) -/
  | miss (s : State)
  /-- a trap at the first PC that the path tries to issue (R47, R95, R102, R117) -/
  | trap (cause sub detail : Nat) (s : State)

namespace State
variable (s : State)

/-- The 512 bits of a physical line of 64 bytes. -/
def lineAt (pa : Nat) : Line := BitVec.ofNat 512 (memNat s.mem.dram (pa / 64 * 64) 64)

/-- THE FIRST FETCH OF A LINE INTO THE INSTRUCTION CACHE, read at its home slice (R47, R49, R111): `glitch` is what a transfer error flips in the first copy. A parity disagreement makes the core fetch the line once more. Nothing, when the slice has no place for it (R138). -/
def cacheLine (c pa : Nat) (glitch : BitVec 512) : Option State :=
  (s.allocLine (pa / 128)).map fun u =>
  let first := s.lineAt pa ^^^ glitch
  let second := s.lineAt pa
  let l := if parityMask first = 0 then first else second
  ((u.tally 6).touchFrame pa false).modCore c fun k => { k with icache := tabPut k.icache (pa / 64) (l, parityMask l ≠ 0) }

/-- Key of a cached line that another device holds: above every physical line. -/
def farKey (asid va : Nat) : Nat := 2 ^ 64 + asid * 2 ^ 64 + va / 64

/-- Fetch the line that holds a PC (R47). A cached line that no longer equals memory may be used or read again: the spec gives the instruction cache no lease, and a free value chooses. -/
def fetchLine (c asid : Nat) (pc : DWord) : Fetched :=
  let va := pc.toNat
  let fill (u : State) (pa : Nat) : Fetched :=
    match u.cacheLine c pa 0 with
    | some t => .line (t.lineAt pa) (parityMask (t.lineAt pa) ≠ 0) t
    | none => .miss (u.postOnce (evictWait (pa / 128)))
  if !canonical va || apertureOf va ≠ .glob then .trap Cause.nomap 0 0 s else
  -- an agent's instructions come from the boot ROM's windows (R268)
  if asid = agentSpace && !s.inWindow (va / 64 * 64) 64 then .trap Cause.prot 0 4 s else
  let r := s.translate c asid va
  match r.1 with
  | .malformed => .trap Cause.nomap 1 0 r.2
  | .walking => .miss r.2
  | .absent .. =>
    match s.serviceFault asid 0 va with
    | .bad b => .trap b.cause b.sub b.detail r.2
    | _ => .miss (r.2.postOnce (.faultService c asid va))
  | .elsewhere _ =>
    match tabFind (r.2.core c).icache (farKey asid va) with
    | some e => .line e.1 e.2 r.2
    | none => match tabFind (r.2.core c).noLine (farKey asid va) with
      | some b => .trap b.1 b.2.1 b.2.2 (r.2.modCore c fun k => { k with noLine := tabDel k.noLine (farKey asid va) })
      | none => .miss (r.2.postOnce (.lineFetch c asid va 0))
  | .page pa e _ =>
    if !Pte.x e then .trap Cause.prot 0 4 r.2 else
    match tabFind (r.2.core c).icache (pa / 64) with
    | some l =>
      if l.1 = r.2.lineAt pa then .line l.1 l.2 r.2
      else
        let v := r.2.choose 2
        if v.1 = 0 then .line l.1 l.2 v.2
        else fill v.2 pa
    | none => fill r.2 pa

/-- What the target of a transfer answers (R46, R69 orders 1 to 3). -/
inductive Target where
  | ok (s : State)
  | wait (s : State)
  /-- its place in the order of R69, cause and detail -/
  | trap (order cause detail : Nat) (s : State)

/-- Check a target: a valid PC, the line's parity, then the slot's mark. A line that cannot be read is not checked here: its own trap is raised when a lane first issues from it (R47, R299). -/
def checkTarget (pc : DWord) : Target :=
  match pcSlot pc with
  | none => .trap 1 Cause.badtgt 0 s
  | some k => match s.fetchLine s.curCore s.tm.asid pc with
    | .line l bad s1 =>
      if bad then .trap 2 Cause.linepar (parityMask l) s1
      else if !markedAt l k then .trap 3 Cause.badtgt 0 s1
      else .ok s1
    | .miss s1 => .wait s1
    | .trap _ _ _ _ => .ok s

end State

end Sys2Proof.Machine
end

