-- ==== Sys2Proof/Machine/Sync.lean ====
section
/-! DEFINITION. Class 0x9: barriers, ordered sections and GROW (R33 to R41, R291 to R293, R326, R327, R360, R361). -/

namespace Sys2Proof.Machine

namespace State
variable (s : State)

/-- Bit i for each TID i of a team that has not exited. -/
def liveThreads (tk : Nat) : Nat :=
  (List.range (s.team tk).groups).foldl (fun m g =>
    m + 2 ^ (32 * g) * (maskOf fun i => (s.grp (32 * tk + g)).waitOf i ≠ .exited).toNat) 0

/-- Is one set of threads within another? -/
def within (a b : Nat) : Bool := a &&& b = a

/-- The lanes of a team's groups, changed where a test holds of the group key, lane and waiting state. -/
def mapLanes (tks : List Nat) (f : Nat → Group → Nat → Group) : State :=
  { s with groups := s.groups.map fun e =>
      if !isAgent e.1 && tks.contains (teamOf e.1) then (e.1, e.2.each (BitVec.allOnes 32) (f e.1)) else e }

/-- Key of a cluster barrier: the grid, the cluster (the team itself without clusters) and the id (R36). -/
def clusterKey (tk b : Nat) : Nat :=
  let t := s.team tk
  let c := if (s.grid t.grid).kernel.cn = 0 then t.index else t.cluster
  (t.grid * 2 ^ 33 + c) * 4 + b

/-- The resident teams of a team's cluster, itself included. -/
def members (tk : Nat) : List Nat :=
  if (s.grid (s.team tk).grid).kernel.cn = 0 then [tk]
  else (s.teams.filter fun e => e.2.grid = (s.team tk).grid && e.2.cluster = (s.team tk).cluster).map (·.1)

/-- A barrier of a team, or of its cluster. -/
def bar (tk b : Nat) (clus : Bool) : Barrier :=
  if clus then tabGet Barrier.empty s.cbars (s.clusterKey tk b) else tabGet Barrier.empty (s.team tk).bars b
def setBar (tk b : Nat) (clus : Bool) (x : Barrier) : State :=
  if clus then { s with cbars := tabSet Barrier.empty s.cbars (s.clusterKey tk b) x }
  else s.modTeam tk fun t => { t with bars := tabSet Barrier.empty t.bars b x }

/-- A thread's place in a barrier's sets: its TID, above 1,024 times its rank for a cluster barrier. -/
def threadBit (gk lane : Nat) (clus : Bool) : Nat :=
  2 ^ ((if clus then 1024 * (s.team (teamOf gk)).clrank else 0) + 32 * gidOf gk + lane)

/-- Every non-exited thread that the barrier expects (R33, R36). -/
def expectedThreads (tk : Nat) (clus : Bool) : Nat :=
  if clus then (s.members tk).foldl (fun m k => m ||| (s.liveThreads k * 2 ^ (1024 * (s.team k).clrank))) 0 else s.liveThreads tk

/-- A thread arrives: its bit joins the arrived set, and its mark is set for the open phase (R33). -/
def arriveBar (tk b : Nat) (clus : Bool) (bit : Nat) : State :=
  let x := s.bar tk b clus
  s.setBar tk b clus { x with arrived := x.arrived ||| bit, marks := x.marks ||| bit, markOpen := x.markOpen ||| bit }

/-- What completion does to one lane of a member team (R33): waiting lanes go on at the next slot, and their marks clear. -/
def releaseLane (b : Nat) (clus : Bool) (g : Group) (i : Nat) : Group :=
  let go := (g.setWait i .run).setPc i (nextPc (g.pcOf i))
  match g.waitOf i with
  | .bar c => if !clus && c = b then go else g
  | .barw c => if !clus && c = b then go else g
  | .cbar c => if clus && c = b then go else g
  | _ => g

/-- Threads that completion takes the marks of: those that waited at BAR or BARW. -/
def releasedBits (tk b : Nat) : Nat :=
  (List.range (s.team tk).groups).foldl (fun m g =>
    m + 2 ^ (32 * g) * (maskOf fun i => (s.grp (32 * tk + g)).waitOf i = .bar b || (s.grp (32 * tk + g)).waitOf i = .barw b).toNat) 0

/-- Lanes held while arriving again, which arrive at the phase that has just begun (R33). -/
def againList (tk b : Nat) (clus : Bool) : List (Nat × Nat × Bool) :=
  (s.members tk).flatMap fun k => if !clus && k ≠ tk then [] else
    (List.range (s.team k).groups).flatMap fun g => (List.range 32).filterMap fun i =>
      match (s.grp (32 * k + g)).waitOf i with
      | .barAgain c atBar => if !clus && c = b then some (32 * k + g, i, atBar) else none
      | .cbarAgain c => if clus && c = b then some (32 * k + g, i, true) else none
      | _ => none

/-- COMPLETION OF A BARRIER (R33, R292): when every expected thread has arrived, the phase flips, the set clears, the timer stops and the waiting lanes are released; then the held threads arrive at the new phase. -/
def completeBar (tk b : Nat) (clus : Bool) : Nat → State → State
  | 0, u => u
  | fuel + 1, u =>
    let x := u.bar tk b clus
    let live := u.expectedThreads tk clus
    if live = 0 || !within live x.arrived then u else
    let freed := u.releasedBits tk b
    let marks := if clus then 0 else x.marks &&& (x.marks ^^^ freed)
    let again := u.againList tk b clus
    let u1 := (u.setBar tk b clus { phase := !x.phase, arrived := 0, marks := marks, markOpen := 0, timer := 0 }).mapLanes
      (if clus then u.members tk else [tk]) fun _ g i => releaseLane b clus g i
    let rearm (t : State) (e : Nat × Nat × Bool) : State :=
      let t1 := t.arriveBar (teamOf e.1) b clus (t.threadBit e.1 e.2.1 clus)
      t1.modGrp e.1 fun g =>
        if e.2.2 then g.setWait e.2.1 (if clus then .cbar b else .bar b)
        else (g.setWait e.2.1 .run).setPc e.2.1 (nextPc (g.pcOf e.2.1))
    if again = [] then u1 else completeBar tk b clus fuel (again.foldl rearm u1)

/-- One lane executes BAR, BARA or CBAR. -/
def barLane (b : Nat) (clus stay : Bool) (i : Nat) : State :=
  let tk := teamOf s.cur.gk
  let bit := s.threadBit s.cur.gk i clus
  let x := s.bar tk b clus
  if x.arrived &&& bit ≠ 0 then
    s.modG fun g => g.setWait i (if clus then .cbarAgain b else .barAgain b stay)
  else
    let s1 := s.arriveBar tk b clus bit
    if stay then s1.modG fun g => g.setWait i (if clus then .cbar b else .bar b)
    else s1.modG fun g => g.setPc i (nextPc s.cur.pc)

/-- One lane executes BARW: the three ways of consuming its mark (R33). -/
def barwLane (b i : Nat) : State :=
  let tk := teamOf s.cur.gk
  let bit := s.threadBit s.cur.gk i false
  let x := s.bar tk b false
  if x.marks &&& bit ≠ 0 && x.markOpen &&& bit = 0 then
    (s.setBar tk b false { x with marks := x.marks ^^^ bit }).modG fun g => g.setPc i (nextPc s.cur.pc)
  else s.modG fun g => g.setWait i (.barw b)

/-- Lanes of the path that do not execute the slot go to the next one. -/
def skipLanes (t : LaneMask) : State := s.modG fun g => g.each (s.cur.mask &&& ~~~t) fun h i => h.setPc i (nextPc s.cur.pc)

/-- An arrival after the fence of its scope (R34, R36). -/
def arriveOp (x : IdArgs) (scope : Scope) (clus stay : Bool) : Out :=
  s.enter [] [] fun s =>
    let t := s.trueLanes x.guard
    if t ≠ 0 && !s.fencePassed s.cur.gk t scope then .next s.stall else
    let s1 := ((lanesOf t).foldl (fun u i => u.barLane x.id.toNat clus stay i) (s.skipLanes t)).finish true
    .next (completeBar (teamOf s.cur.gk) x.id.toNat clus 2 s1)

end State

def execBar (x : IdArgs) (s : State) : Out := s.arriveOp x .team false true
def execBara (x : IdArgs) (s : State) : Out := s.arriveOp x .team false false
def execCbar (x : IdArgs) (s : State) : Out := s.arriveOp x .clus true true
/-- BARW performs no fence and does not arrive (R292). -/
def execBarw (x : IdArgs) (s : State) : Out :=
  s.enter [] [] fun s =>
    let t := s.trueLanes x.guard
    .next (((lanesOf t).foldl (fun u i => u.barwLane x.id.toNat i) (s.skipLanes t)).finish false)

namespace State
variable (s : State)

/-- Has a team below the frontier of section k signalled or retired, and from what time (R41)? -/
def passedAt (gi k t : Nat) : Option Nat :=
  match tabFind (s.grid gi).signalled (16 * t + k) with
  | some p => some p
  | none => tabFind (s.grid gi).retired t

/-- F_k, as core c sees it now (R41): the lowest team that has neither signalled nor counts as retired. -/
def frontierFrom (c gi k : Nat) : Nat → Nat → Nat
  | 0, t => t
  | fuel + 1, t => match s.passedAt gi k t with
    | some p => if s.reached c p then frontierFrom c gi k fuel (t + 1) else t
    | none => t
def frontier (c gi k : Nat) : Nat := s.frontierFrom c gi k ((s.grid gi).signalled.length + (s.grid gi).retired.length + 1) 0

/-- May lanes of a group that wait at ORDW k go on (R41, R361)? -/
def ordwReady (gk k : Nat) : Bool :=
  let t := s.team (teamOf gk)
  t.index ≤ s.frontier (coreOf gk) t.grid k

/-- Wake the lanes at ORDW whose frontier has passed their team. -/
def wakeOrdw : State :=
  { s with groups := s.groups.map fun e => (e.1, e.2.each (BitVec.allOnes 32) fun g i =>
      match g.waitOf i with
      | .ordw k => if s.ordwReady e.1 k then (g.setWait i .run).setPc i (nextPc (g.pcOf i)) else g
      | _ => g) }

/-- A team signals section k when every non-exited thread has executed ORDS k (R41). -/
def checkSignal (tk k : Nat) : State :=
  let t := s.team tk
  let x := s.grid t.grid
  let live := s.liveThreads tk
  let done := tabGet 0 x.ords (16 * t.index + k)
  if live ≠ 0 && within live done && (tabFind x.signalled (16 * t.index + k)).isNone then
    s.modGrid t.grid fun y => { y with signalled := tabPut y.signalled (16 * t.index + k) (s.gtime (tk / 16)) }
  else s

end State

/-- ORDS: a device-scope fence, then the lanes count for the section; it waits for no other thread (R41, R361). -/
def execOrds (x : IdArgs) (s : State) : Out :=
  s.enter [] [] fun s =>
    let t := s.trueLanes x.guard
    if t ≠ 0 && !s.fencePassed s.cur.gk t .dev then .next s.stall else
    let k := 16 * s.tm.index + x.id.toNat
    let s1 := s.modGrid s.tm.grid fun y =>
      { y with ords := tabSet 0 y.ords k (tabGet 0 y.ords k ||| (t.toNat * 2 ^ (32 * gidOf s.cur.gk))) }
    .next ((((s1.checkSignal (teamOf s.cur.gk) x.id.toNat).advance s.cur.mask).finish true).wakeOrdw)

/-- ORDW waits until the frontier reaches the team, with acquire order after it (R41, R361). -/
def execOrdw (x : IdArgs) (s : State) : Out :=
  s.enter [] [] fun s =>
    let t := s.trueLanes x.guard
    if s.ordwReady s.cur.gk x.id.toNat then .next ((s.advance s.cur.mask).finish false)
    else .next (((s.skipLanes t).modG fun g => g.each t fun h i => h.setWait i (.ordw x.id.toNat)).finish false)

/-- GROW: FENCE.dev, then the grid's counter (R38, R327). -/
def growGrid (g : Grid) (n : Nat) : DWord × Grid :=
  if n = 0 then (BitVec.ofNat 64 g.count, g)
  else if g.ny * g.nz = 1 && g.kernel.cn = 0 && n ≤ 2 ^ 32 && g.count + n ≤ 2 ^ 32 then
    (BitVec.ofNat 64 g.count, { g with count := g.count + n, nx := g.count + n })
  else (BitVec.allOnes 64, g)
def execGrow (x : GrowArgs) (s : State) : Out :=
  s.enter [] [(x.d.toNat, 1), (x.a.toNat, 1)] fun s =>
    let t := s.trueLanes x.guard
    if t = 0 then .next ((s.advance s.cur.mask).finish false) else
    if !s.fencePassed s.cur.gk t .dev then .next s.stall else
    let r := growGrid s.gr (s.g.rdS x.a.toNat).toNat
    .next ((((s.setGrid s.tm.grid r.2).wrScalar x.d.toNat r.1).advance s.cur.mask).finish false)

end Sys2Proof.Machine
end

