-- ==== Sys2Proof/Machine/Control.lean ====
section
/-! DEFINITION. Class 0x0: branches, reconvergence, exit, yield, traps and progress counters (R27 to R32, R39, R277, R295 to R300, R304, R356, R365 to R367, R370, R374, R377). -/

namespace Sys2Proof.Machine

namespace State
variable (s : State)

/-- Base of the kernel's code, from which reconvergence PCs count lines (R27, log 17). -/
def codeBase : DWord := BitVec.ofNat 64 (s.gr.kernel.entry.toNat / 64 * 64)
def depthOf : Nat := s.tm.depth
/-- Live reconvergence entries of the issuing group. -/
def liveCount : Nat := (s.g.liveEntries s.tm.regs s.tm.depth).length
/-- Release every entry of the issuing group that is complete (R29). -/
def releaseEntries : State := s.modG fun g => g.releaseAll s.tm.regs s.tm.depth

/-- Lanes of t take their targets, the others the next slot. -/
def jump (t : LaneMask) (target : Nat → DWord) : State :=
  (s.skipLanes t).modG fun g => g.each t fun h i => h.setPc i (target i)

/-- A direct transfer: its one target is checked whatever the guard (R46, R69). -/
def direct (pc : DWord) (k : State → Out) : Out :=
  match s.checkTarget pc with
  | .ok s1 => k s1
  | .wait s1 => .next s1.stall
  | .trap _ c d s1 => s1.raise c d s1.cur.mask 0 pc

/-- Lanes of a list whose target fails, with the check's place in R69's order, its cause and detail; whether some lane's target line is still to be fetched; and the state after the fetches (R299). -/
def checkLanes (target : Nat → DWord) : List Nat → State → (List (Nat × Nat × Nat × Nat)) × Bool × State
  | [], u => ([], false, u)
  | i :: l, u => match u.checkTarget (target i) with
    | .ok u1 => checkLanes target l u1
    | .wait u1 => let r := checkLanes target l u1; (r.1, true, r.2.2)
    | .trap o c d u1 => let r := checkLanes target l u1; ((i, o, c, d) :: r.1, r.2.1, r.2.2)

/-- What the targets of a path's lanes answer together. -/
inductive Aims where
  | ok (s : State)
  | wait (s : State)
  | bad (t : Trap) (s : State)

/-- THE TARGETS OF BRX AND RET (R69, R299, R370): the earliest check that any true-guard lane's target fails is raised, for the lanes that fail it, with the target of the lowest of them (log 9). A line still to be fetched is waited for, unless an invalid PC comes first. -/
def aim (t : LaneMask) (target : Nat → DWord) : Aims :=
  let r := checkLanes target (lanesOf t) s
  match sortBy (fun (a b : Nat × Nat × Nat × Nat) => a.2.1 ≤ b.2.1) r.1 with
  | [] => if r.2.1 then .wait r.2.2 else .ok r.2.2
  | (i, o, c, d) :: _ =>
    if r.2.1 && o ≠ 1 then .wait r.2.2
    else .bad { cause := c, detail := d, mask := maskOf fun j => r.1.any fun e => e.1 = j && e.2.1 = o, addr := target i } r.2.2

/-- BRX and RET: each true-guard lane jumps to its own pair (R299, R370). -/
def indirect (x : JmpArgs) : Out :=
  s.enter [(x.a.toNat, 2)] [] fun s =>
    let t := s.trueLanes x.guard
    let target (i : Nat) : DWord := s.g.rdPair x.a.toNat i
    match s.aim t target with
    | .ok u => .next ((u.jump t target).finish false)
    | .wait u => .next u.stall
    | .bad b u => .next (u.takeTrap b)

end State

def execNop (_ : G0Args) (s : State) : Out := s.enter [] [] fun s => .next ((s.advance s.cur.mask).finish false)

def execBra (x : BraArgs) (s : State) : Out :=
  let pc := braTarget s.cur.pc x
  s.enter [] [] fun s => s.direct pc fun s1 => .next ((s1.jump (s1.trueLanes x.guard) fun _ => pc).finish false)

def execBrx (x : JmpArgs) (s : State) : Out := s.indirect x
def execRet (x : JmpArgs) (s : State) : Out := s.indirect x

/-- CALL writes the next slot's PC to D (R300). The target checks come before REGRANGE (R69). -/
def execCall (x : BraArgs) (s : State) : Out :=
  let pc := braTarget s.cur.pc x
  if s.hitsPending [(x.d.toNat, 2)] [] then .next s.stall else
  s.endChain.direct pc fun s1 => s1.enter [(x.d.toNat, 2)] [] fun s =>
    let t := s.trueLanes x.guard
    .next (((s.modG fun g => g.each t fun h i => h.wrPair x.d.toNat i (nextPc s.cur.pc)).jump t fun _ => pc).finish false)

/-- The groups of R27: each distinct innermost entry of the pushing lanes, by ascending lowest lane, with its lanes. -/
def pushGroups (g : Group) (t : LaneMask) : List (Nat × LaneMask) :=
  let add (l : List (Nat × LaneMask)) (i : Nat) : List (Nat × LaneMask) :=
    if l.any fun e => e.1 = g.innerOf i then l else l ++ [(g.innerOf i, maskOf fun j => t.getLsbD j && g.innerOf j = g.innerOf i)]
  (lanesOf t).foldl add []

/-- Push one entry: the lowest free index takes the group's lanes, and becomes their innermost (R27). -/
def pushEntry (regs depth : Nat) (pc : BitVec 25) (g : Group) (e : Nat × LaneMask) : Group :=
  let live := g.liveEntries regs depth
  let i := ((List.range depth).find? fun k => !live.contains k).getD 0
  (g.wrEntry regs depth i ⟨if e.1 = 0 then 127 else e.1 - 1, pc, e.2⟩).each e.2 fun h j => h.setInner j (i + 1)

def execRcv (x : BraArgs) (s : State) : Out :=
  let pc := braTarget s.cur.pc x
  s.enter [] [] fun s =>
    let t := s.trueLanes x.guard
    let l := pushGroups s.g t
    if s.tm.depth < s.liveCount + l.length then s.raise Cause.depth s.liveCount t
    else
      let s1 := s.modG fun g => l.foldl (pushEntry s.tm.regs s.tm.depth (rcvBits s.codeBase pc)) g
      .next ((s1.advance s.cur.mask).finish false)

/-- RJOIN: a lane at its innermost entry's reconvergence PC waits there; any other passes (R29, R30, R367). -/
def execRjoin (x : G0Args) (s : State) : Out :=
  s.enter [] [] fun s =>
    let t := s.trueLanes x.guard
    let here := rcvBits s.codeBase s.cur.pc
    let w := maskOf fun i => t.getLsbD i && s.g.innerOf i ≠ 0 && (s.g.rdEntry s.tm.regs s.tm.depth (s.g.innerOf i - 1)).pc = here
    let s1 := (s.skipLanes w).modG fun g => g.each w fun h i => h.setWait i (.rjoin (h.innerOf i - 1))
    .next ((s1.finish false).releaseEntries)

/-- A lane leaves the expected masks of the listed entries. -/
def leaveEntries (regs depth lane : Nat) (g : Group) (l : List Nat) : Group :=
  l.foldl (fun h e => let x := h.rdEntry regs depth e
                      h.wrEntry regs depth e { x with expected := x.expected &&& ~~~(BitVec.ofNat 32 (2 ^ lane)) }) g

/-- BRK n (R31, R298). -/
def execBrk (x : BraArgs) (s : State) : Out :=
  let pc := braTarget s.cur.pc x
  s.enter [] [] fun s => s.direct pc fun s =>
    let t := s.trueLanes x.guard
    let n := x.depth.toNat
    let regs := s.tm.regs
    let d := s.tm.depth
    let chain (g : Group) (i : Nat) : List Nat := g.chainOf regs d 64 (g.innerOf i)
    let bad := maskOf fun i => t.getLsbD i && (chain s.g i).length < n
    if bad ≠ 0 then s.raise Cause.depth s.liveCount bad else
    let s1 := s.modG fun g => g.each t fun h i =>
      let c := chain s.g i
      let parent := (s.g.rdEntry regs d ((c.drop (n - 1)).headD 0)).parent
      (leaveEntries regs d i h (c.take n)).setInner i (if parent = 127 then 0 else parent + 1)
    .next (((s1.jump t fun _ => pc).finish false).releaseEntries)

/-- Barriers and ordered sections that an exit may complete (R32). -/
def settleTeam (tk : Nat) (s : State) : State :=
  let s1 := (List.range 16).foldl (fun u b => State.completeBar tk b false 2 u) s
  let s2 := (List.range 4).foldl (fun u b => State.completeBar tk b true 2 u) s1
  ((List.range 16).foldl (fun u k => u.checkSignal tk k) s2).wakeOrdw

/-- Has every thread of a team exited? -/
def teamDone (s : State) (tk : Nat) : Bool := s.liveThreads tk = 0

/-- EXIT (R32, R304, R305): the lanes leave their entries, barriers and ordered sections in the cycle of issue. A team whose last thread exits is due to retire (R264). -/
def execExit (x : G0Args) (s : State) : Out :=
  s.enter [] [] fun s =>
    let t := s.trueLanes x.guard
    let regs := s.tm.regs
    let d := s.tm.depth
    let s1 := (s.skipLanes t).modG fun g => g.each t fun h i =>
      (leaveEntries regs d i h (h.chainOf regs d 64 (h.innerOf i))).setWait i .exited
    let s2 := settleTeam (teamOf s.cur.gk) ((s1.finish (t ≠ 0)).releaseEntries)
    .next (if t ≠ 0 && teamDone s2 (teamOf s.cur.gk) then s2.postOnce (.teamRetire (teamOf s.cur.gk)) else s2)

/-- YIELD marks the group and takes it out of selection for the next 32 cycles (R39, R377). DESIGN CHOICE (log 83): the YIELD that sets the mark counts as a spin instruction of R40, as the group is marked when it has issued. -/
def execYield (x : G0Args) (s : State) : Out :=
  s.enter [] [] fun s =>
    let t := s.trueLanes x.guard
    let s1 := if t = 0 then s else s.modG fun g => { g with yieldMark := true, yieldUntil := s.cycle + 33 }
    .next ((s1.advance s.cur.mask).finish false)

/-- TRAP and BKPT: the trap of the true-guard lanes, with the following slot as restart PC; a NOP without one (R295, R374). -/
def trapOp (cause : Nat) (x : CodeArgs) (s : State) : Out :=
  s.enter [] [] fun s =>
    let t := s.trueLanes x.guard
    if t = 0 then .next ((s.advance s.cur.mask).finish false)
    else .next (s.takeTrap { cause, detail := x.code.toNat, mask := t, restart := some (nextPc s.cur.pc) })
def execTrap (x : CodeArgs) (s : State) : Out := trapOp Cause.trapi x s
def execBkpt (x : CodeArgs) (s : State) : Out := trapOp Cause.bkpt x s

/-- PROG k adds one to a progress counter of the module (R277). -/
def execProg (x : ProgArgs) (s : State) : Out :=
  s.enter [] [] fun s =>
    let s1 := if s.trueLanes x.guard = 0 then s else s.tally (16 + x.k.toNat)
    .next ((s1.advance s.cur.mask).finish false)

end Sys2Proof.Machine
end

