-- ==== Sys2Proof/Machine/Convert.lean ====
section
/-! DEFINITION. Class 0x4: conversion, rounding, square root and the table functions (R162, R163, R169, R313 to R316). -/

namespace Sys2Proof.Machine

/-- Registers that an FCVT names, by its two formats. -/
def cvtRuns (x : VArgs) : List Run := dstRun .vt (cvtDst x).regTy x.d ++ srcRun .vt (cvtSrc x).regTy x.a

def execFcvt (x : VArgs) (s : State) : Out :=
  s.vecOp x.guard (.ofTy (cvtDst x).regTy) x.d (cvtRuns x) [] (latchNo x.a) true fun t i =>
    cvtOut (cvtDst x) (cvtSrc x) x.rnd x.sat x.absA x.negA (t.rdSrc (cvtSrc x).regTy.wide x.a i)

def execFrnd (x : VArgs) (s : State) : Out :=
  s.vec3 .floatRound x (.ofTy x.ty) fun t i =>
    halves x.ty fun k => rndOut x.ty.fmt x.rnd (floatOperand x.ty x.absA x.negA (t.rdSrc x.ty.wide x.a i) k)

def execFsqrt (x : VArgs) (s : State) : Out :=
  s.vec3 .floatSqrt x (.ofTy x.ty) fun t i => sqrtOut x.ty.fmt x.rnd (floatOperand x.ty x.absA x.negA (t.rdSrc x.ty.wide x.a i) 0)

/-- A table function reads the coefficient memory of the issuing core (R168, R317). -/
def funcOp (g : Func) (x : VArgs) (s : State) : Out :=
  s.vec3 .function x .word fun t i =>
    funcOut (t.core t.curCore).coef g x.ty x.sat (floatOperand x.ty x.absA x.negA (t.rdSrc false x.a i) 0)

def execFrcp (x : VArgs) (s : State) : Out := funcOp .rcp x s
def execFrsq (x : VArgs) (s : State) : Out := funcOp .rsq x s
def execFexp2 (x : VArgs) (s : State) : Out := funcOp .exp2 x s
def execFlog2 (x : VArgs) (s : State) : Out := funcOp .log2 x s
def execFsin (x : VArgs) (s : State) : Out := funcOp .sin x s
def execFcos (x : VArgs) (s : State) : Out := funcOp .cos x s

end Sys2Proof.Machine
end

