-- ==== Sys2Proof/Machine/Packets.lean ====
section
/-! DEFINITION. Packets, what the module keeps for a peer, and the send queues (R200, R203). -/

namespace Sys2Proof

/-- Position i of a packet's body. -/
def Pkt.arg (p : Pkt) (i : Nat) : Nat := p.body.getD i 0

namespace Machine

-- Operation codes of packets. DESIGN CHOICE (log 20): the spec gives the field and no codes.
namespace Pk
def load : Nat := 1
def store : Nat := 2
def atomic : Nat := 3
def response : Nat := 4
/-- a Kiln's update of one element -/
def update : Nat := 5
def stale : Nat := 6
def waiting : Nat := 7
def nackRetry : Nat := 8
def ack : Nat := 9
def probe : Nat := 10
def flag : Nat := 11
def query : Nat := 12
def answer : Nat := 13
def migRequest : Nat := 20
def grant : Nat := 21
def pull : Nat := 22
def line : Nat := 23
def horizon : Nat := 24
def installed : Nat := 25
def done : Nat := 26
def repoint : Nat := 27
def repointed : Nat := 28
def abort : Nat := 29
def reclaim : Nat := 30
def reclaimOk : Nat := 31
def result : Nat := 32
def block : Nat := 40
/-- added to an access that a stub relays; its body then ends with the generation -/
def viaStub : Nat := 100
def cancel : Nat := 33
/-- a line of a page that is evicted to this peer, and the frame that it has got there (R125) -/
def give : Nat := 34
def given : Nat := 35
/-- the request for an evicted page, its lines, and the answer that there is no such frame (R119) -/
def fetch : Nat := 36
def fetched : Nat := 37
def unheld : Nat := 38
def blockAck : Nat := 41
def resync : Nat := 42
/-- the origin asks the owner whether a running grid maps a page with K, and the answer once none does (R129) -/
def askK : Nat := 44
/-- a grant that waits at N for a free frame -/
def grantFrame : Nat := 47
def clearK : Nat := 45
/-- O has received N's acknowledgement of the installation, so that the move stands (R380) -/
def stood : Nat := 48
/-- stands in the sequence in the place of an access that has failed, and does nothing -/
def void : Nat := 49
/-- the origin tells a stub the time of the directory update (R135) -/
def stubTime : Nat := 46
end Pk

/-- A remote access: its header carries its address (R203). -/
def accessOp (op : Nat) : Bool := let c := op % Pk.viaStub; c = Pk.load || c = Pk.store || c = Pk.atomic || c = Pk.update

namespace State
variable (s : State)

def peer (d : Nat) : Peer := tabGet Peer.empty s.fab.peers d
def setPeer (d : Nat) (p : Peer) : State := { s with fab := { s.fab with peers := tabPut s.fab.peers d p } }
def modPeer (d : Nat) (f : Peer → Peer) : State := s.setPeer d (f (s.peer d))
def peerDown (d : Nat) : Bool := (s.peer d).down

/-- Queue a packet for a device in the FIFO of its class, with the next sequence number (R200, R203). A packet to this device itself needs no fibre, and keeps the order of its class. -/
def sendMsg (dst cls op asid va : Nat) (body : List Nat) : State :=
  let p : Pkt := { src := s.devid, dst, cls, relayed := false, op, seq := 0, epoch := 0, asid, va, ack := 0, body }
  let r := s.peer dst
  if cls = 2 then (if dst = s.devid then s.post [.transportReceive p] else s.setPeer dst { r with link := r.link ++ [p] }) else
  let q := { p with seq := tabGet 0 r.nextSeq cls }
  let r1 := { r with nextSeq := tabSet 0 r.nextSeq cls (q.seq + 1) }
  if dst = s.devid then (s.setPeer dst r1).post [.transportReceive q] else
  s.setPeer dst (if cls = 0 then { r1 with ordered := r1.ordered ++ [q] } else { r1 with bulk := r1.bulk ++ [q] })

end State

end Machine

end Sys2Proof
end

