-- ==== Sys2Proof/Machine/Faults.lean ====
section
/-! DEFINITION. What becomes of an access that cannot be performed: a trap at a logged instruction, the failure of an engine operation, and the service of faults (R92 to R95, R123). -/

namespace Sys2Proof.Machine

namespace State
variable (s : State)

/-- Chains of the group's paths that hold a lane of the mask roll back (R66). -/
def rollbackLanes (gk : Nat) (m : LaneMask) : State :=
  ((s.grp gk).rings.filter fun r => r.mask &&& m ≠ 0).foldl (fun (t : State) r => t.rollPath gk r.mask) s

/-- The lanes of a parked path run again, at the slot that follows (R107). -/
def unpark (id gk : Nat) : State :=
  s.modGrp gk fun g => g.each (BitVec.allOnes 32) fun h i => if h.waitOf i = .parked id then h.setWait i .run else h

/-- The happening that ends a log entry of which nothing is left to perform (R94, R97). -/
def endEvent (id : Nat) (e : Log) : Instr :=
  match e.kind with
  | .load | .acquire | .lineLoad | .prefetch => .loadReturn id
  | .store | .release | .lineStore => .storePerformed id 0
  | .atomic => .atomicResponse id

/-- Take lanes out of a log entry. An entry without lanes is freed; one whose other lanes may all have performed is due to end, so that their destinations are written (R92, R94, R95). -/
def dropLanes (id : Nat) (m : LaneMask) : State :=
  match tabFind s.logs id with
  | none => s
  | some e =>
    let stays (k : Nat) : Bool := !m.getLsbD k
    let e1 := { e with lanes := e.lanes &&& ~~~m, addr := e.addr.filter (fun a => stays a.1), st := e.st.filter (fun a => stays (a.1 / 64)),
                       data := e.data.filter (fun a => stays (a.1 / 64)) }
    if e1.addr = [] then State.unpark { s with logs := tabDel s.logs id } id e.gk
    else State.postOnce { s with logs := tabPut s.logs id e1 } (endEvent id e1)

/-- Undo the vector slot of a pair whose SLD or SST traps (R62): each register, predicate bit, flag and latch that still holds what the slot left there. -/
def undoPair (e : Log) : State :=
  s.modGrp e.gk fun g =>
    let backV (t : Tab Word) (x : Nat × Word × Word) : Tab Word := if tabGet 0 t x.1 = x.2.2 then tabSet 0 t x.1 x.2.1 else t
    let backP (t : Tab (BitVec 16)) (x : Nat × BitVec 16 × BitVec 16) : Tab (BitVec 16) :=
      let own := (x.2.1 ^^^ x.2.2) &&& ~~~(tabGet 0 t x.1 ^^^ x.2.2)
      tabSet 0 t x.1 (tabGet 0 t x.1 ^^^ own)
    let r := g.ringOf e.mask
    let g1 := { g with v := e.undoV.foldl backV g.v, p := e.undoP.foldl backP g.p, status := g.status &&& ~~~e.undoF }
    if r.chain.isNone && r.vals = e.undoL.2 && e.undoL.1 ≠ e.undoL.2 then g1.setRing { r with vals := e.undoL.1 } else g1

/-- A logged instruction, or a pair, that traps in some lanes has not retired there (R62, R88, R92). DESIGN CHOICE (log 103): the count that it made at its issue is taken back from them, and they count it when they execute it again. -/
def unretire (gk : Nat) (m : LaneMask) : State :=
  s.modGrp gk fun g => g.each m fun h i => { h with retired := tabSet 0 h.retired i (h.retiredOf i - 1) }

/-- A trap takes stores or atomics of a lane away: an FFENCE of that lane which they precede waits for them until they execute again (R241, R322). -/
def loseStores (id : Nat) (e : Log) (m : LaneMask) : State :=
  if e.kind = .load || e.kind = .acquire || e.kind = .lineLoad then s else
  let hit (o : Op) : Bool := o.kind = .ffence && o.st = .pending && o.gk = e.gk && m.getLsbD o.lane && id < o.args.getLastD 0
  { s with ops := s.ops.map fun q => if hit q.2 then (q.1, { q.2 with todo := id :: q.2.todo }) else q }

/-- A TRAP AT A LOGGED INSTRUCTION, for the lanes that meet it (R92, R95): only they have no effect and only they execute again. A no-return atomic whose lanes all trap has ended for its counter. -/
def logTrap (id : Nat) (b : Bad) (m : LaneMask) (addr : Nat) : State :=
  match tabFind s.logs id with
  | none => s
  | some e =>
    if e.kind = .prefetch then s.dropLanes id m else
    -- one access of a scalar or line instruction stands for every lane of it
    let bad := if e.scalar || e.kind = .lineLoad || e.kind = .lineStore then e.lanes else m
    let s1 := ((((s.rollbackLanes e.gk bad).dropLanes id m).undoPair e).unretire e.gk bad).loseStores id e bad
    let s2 := { s1 with cur := { Issue.none with gk := e.gk, mask := e.mask, pc := e.pc } }
    -- an aborted grid writes no further record (R92, R354)
    let s4 := if (s.grid (s.team (teamOf e.gk)).grid).aborted.isSome then s1 else
      s2.takeTrap { cause := b.cause, sub := b.sub, detail := b.detail, mask := bad, addr := BitVec.ofNat 64 addr, restart := some e.pc, after := e.after, moved := some bad }
    if (tabFind s4.logs id).isNone && e.nr then ((s4.ops.filter fun o => o.2.mark = e.mark).foldl (fun t o => t.endOp o.1 0) s4) else s4

/-- A permanent failure of an engine operation: its handle fails with the code, and presence bits come back (R90, R112, R113). -/
def failOp (i : Nat) (b : Bad) : State :=
  ((s.modOp i fun o => if o.st = .pending then { o with detail := b.detail, badAt := b.addr } else o).restorePresence i |>.endOp i b.cause).wakeHandles

/-- The context that an ASID belongs to; the ASID itself when no grid or queue uses it. -/
def ctxOf (asid : Nat) : Nat :=
  match s.grids.find? fun e => e.2.asid = asid with
  | some e => e.2.ctx
  | none => ((s.queues.find? fun e => e.2.asid = asid).map fun e => e.2.ctx).getD asid

/-- ASID of the context that a log entry accesses. -/
def asidOf (gk : Nat) : Nat := (s.team (teamOf gk)).asid

/-- The happenings that perform what a log entry has left to do. -/
def entryEvents (id : Nat) (e : Log) : List Instr :=
  match e.kind with
  | .load | .acquire | .lineLoad | .prefetch => [.loadReturn id]
  | .store | .release | .lineStore => e.addr.map fun a => .storePerformed id a.1
  | .atomic => e.addr.map fun a => .homeAtomic id a.1

/-- Parts of a log entry that wait for the service of a page, the element's own or its accumulator's (R95, R152). -/
def faultedOn (e : Log) (page : Nat) : List Nat := (e.st.filter fun p => p.2 = .faulted page).map (·.1)

/-- The agent asks a peer for a page that it has evicted there (R119). -/
def startPull (d f : Nat) : State :=
  let k := 2 ^ 40 * d + f
  State.sendMsg { s with mem := { s.mem with away := tabPut s.mem.away k ⟨[], false⟩ } } d 0 Pk.fetch 0 0 [f]

/-- Does nothing of a group perform or trap for now: its team is switched out, or halts (R98)? -/
def quiet (gk : Nat) : Bool := switchedOut gk || (!isAgent gk && (s.team (teamOf gk)).halted)

end State

/-- Rows of a copy: destination, source, bytes (R113, R114). -/
def copyRows (o : Op) : List (Nat × Nat × Nat) :=
  let a (i : Nat) : Nat := o.args.getD i 0
  match o.kind with
  | .copy => if a 2 = 0 then [] else [(a 0, a 1, a 2)]
  | .tile =>
    let first := (a 1 + 2 ^ 80 - a 6 * a 2 - a 7 * a 5) % 2 ^ 64
    (List.range (a 3 + 2 * a 6)).map fun i => ((a 0 + i * a 8) % 2 ^ 64, (first + i * a 2) % 2 ^ 64, (a 4 + 2 * a 7) * a 5)
  | _ => []
/-- Plates of a pass as addresses and lengths (R171, R184): `e` is a window element's size, `w` a window's bytes. -/
def plateRanges (mode n base ss w e : Nat) : List (Nat × Nat) :=
  match mode with
  | 0 => (List.range n).map fun t => ((base + t * ss) % 2 ^ 64, 512)
  | 1 => [(base, 512)]
  | _ =>
    let kw := ss / 2 ^ 32 % 16 + 1
    (List.range n).map fun t => ((base + t / kw * (ss % 2 ^ 32) + t % kw * e) % 2 ^ 64, w)
/-- Ranges that an operation has still to read (R113, R171): a pass keeps seven operands until its plates are fetched. -/
def srcRanges (o : Op) : List (Nat × Nat) :=
  match o.kind with
  | .kpass | .kwin =>
    match o.args with
    | [mode, n, base, ss, w, e, _] => plateRanges mode n base ss w e
    | _ => []
  | _ => (copyRows o).map fun r => r.2
/-- The first log entry that is younger than an operation. -/
def opSnap (o : Op) : Nat := o.args.getLastD 0

/-- SERVICE OF A FAULT by the core's agent (R95, R119, R123). Every instruction that waits on the page is replayed, or traps when no mapping is found; one of a team that is switched out or halts meets the page again when it is replayed (R98). -/
def execFaultService (core asid va : Nat) (s : State) : Out :=
  let waiting := s.logs.filter fun e => s.asidOf e.2.gk = asid && !s.quiet e.2.gk && State.faultedOn e.2 (va / 65536) ≠ []
  match s.serviceFault asid (s.ctxOf asid) va with
  | .ok t => .next (((t.tally 11).walkServed asid va).post (waiting.map fun e => .operandLogReplay e.1))
  | .wait => .next (s.post [.faultService core asid va])
  | .pull d f => .next ((s.startPull d f).post [.faultService core asid va])
  | .bad b =>
    let fail (t : State) (e : Nat × Log) : State :=
      let m := maskOf fun i => (State.faultedOn e.2 (va / 65536)).any fun k => k / 64 = i
      t.logTrap e.1 b m (tabGet 0 e.2.addr (lowLane m))
    .next (waiting.foldl fail (s.walkServed asid va))

/-- REPLAY from the log (R95): the faulted parts are to be performed again, with the logged addresses and data. -/
def execOperandLogReplay (entry : Nat) (s : State) : Out :=
  match tabFind s.logs entry with
  | none => .next s
  | some e =>
    if s.quiet e.gk then .next s else
    let again (p : Nat × LaneSt) : Nat × LaneSt := match p.2 with | .faulted _ => (p.1, .todo) | _ => p
    .next ((State.post { s with logs := tabPut s.logs entry { e with st := e.st.map again } } (State.entryEvents entry e)))

namespace State
variable (s : State)

/-- One level of a walk is read at its home slice (R115, R120, R124); nothing when the slice has no place for the line (R138). -/
def readLevel (r : Option State) (pa : Nat) : Option State :=
  r.bind fun t => (t.allocLine (pa / 128)).map fun u => (u.tally 6).touchFrame pa false

/-- Requests that a walk's leaf completes: those of its page, whatever its size; without a leaf that a TLB holds, the page's own requests wait for their requesters (R121). -/
def walkDone (die : Nat) (asid va : Nat) (t : Option TlbEntry) : State :=
  let l := s.walksOf die
  match t with
  | some x => s.setWalks die (l.filter fun w => !(w.asid = asid && x.base ≤ w.vpn * 65536 && w.vpn * 65536 < x.base + x.size))
  | none => s.setWalks die (l.map fun w => if w.asid = asid && w.vpn = va / 65536 then { w with back := true } else w)

/-- A place of the die's walk queue frees: its cores issue memory instructions again (R121). -/
def walkRoom (die : Nat) : State :=
  { s with cores := s.cores.map fun e => (e.1, if dieOf e.1 = die && e.2.walkStall then { e.2 with walkStall := false } else e.2) }

end State

/-- THE WALK OF ONE ADDRESS by one of a die's 64 walkers, which take the oldest requests (R120, R121): each level is a home-slice read, a valid leaf or a kind-5 entry fills the TLBs of the core and the die, and the joined requests complete. -/
def execTableWalk (core asid va : Nat) (s : State) : Out :=
  let die := State.dieOf core
  -- a walk for another page's request may have completed this one
  if !((s.walksOf die).any fun w => w.asid = asid && w.vpn = va / 65536 && !w.back) then .next s else
  let ahead := ((s.walksOf die).filter fun w => !w.back).takeWhile fun w => !(w.asid = asid && w.vpn = va / 65536)
  if 64 ≤ ahead.length then .next (s.post [.tableWalk core asid va]) else
  match (s.walkReads asid va).foldl State.readLevel (some s) with
  | none => .next ((s.postOnce (evictWait (((s.walkReads asid va).find? fun p => !tabGet false s.mem.resident (p / 128)).getD 0 / 128))).post [.tableWalk core asid va])
  | some u =>
    let ctx := s.ctxOf asid
    let t := State.tlbEntry asid va (u.walk asid va)
    let noted := (s.walkReads asid va).foldl (fun (v : State) p => v.ownFrame p ctx true) u
    let u := match u.walk asid va with | .page pa _ size => if asid = agentSpace then noted else noted.ownPage pa size ctx | _ => noted
    let u1 := match t with | some x => (u.fillDie die x).fillCore core va x | none => u
    .next ((u1.walkDone die asid va t).walkRoom die)

end Sys2Proof.Machine
end

