-- ==== Sys2Proof/Machine/Fabric.lean ====
section
/-! DEFINITION. The access of this device to a page of another (R128, R133, R203 to R205). -/

namespace Sys2Proof

namespace Machine

/-- Key of an S page: ASID and VA[56:16] (R127). -/
def pageKey (asid va : Nat) : Nat := 2 ^ 41 * asid + va / 65536 % 2 ^ 41
def keyAsid (k : Nat) : Nat := k / 2 ^ 41
def keyVa (k : Nat) : Nat := k % 2 ^ 41 * 65536
/-- Owner HOST, and the mark of a query under way. -/
def hostOwner : Nat := 256
def unknownOwner : Nat := 512
/-- Where an access to an owner goes: HOST is reached at the origin (R137). -/
def ownerDevice (origin o : Nat) : Nat := if o = hostOwner then origin else o
/-- The module's port to the fabric translates and accesses as a requester of its own, without an L1. -/
def portCore : Nat := Config.cores

namespace State
variable (s : State)

def owner? (k : Nat) : Option OwnerEntry := tabFind s.share.owners k
/-- Fill or change an owner-cache entry. A full cache of 65,536 entries drops a VALID entry that a free value names (R128). DESIGN CHOICE (log 94): with every entry PENDING none leaves, and the new one is held beside them. -/
def setOwner (k : Nat) (e : OwnerEntry) : State :=
  let room (t : State) : State := { t with share := { t.share with owners := tabPut t.share.owners k e } }
  if s.share.owners.length < Config.ownerCache || (s.owner? k).isSome then room s else
  let valid := s.share.owners.filter fun q => !q.2.pending
  let v := s.choose valid.length
  match valid[v.1]? with
  | some q => room { v.2 with share := { v.2.share with owners := tabDel v.2.share.owners q.1 } }
  | none => room s
def dropOwner (k : Nat) : State := { s with share := { s.share with owners := tabDel s.share.owners k } }

/-- A page's entry before the first migration: the owner that the tables of its origin show. -/
def DirEntry.of (owner : Nat) : DirEntry := ⟨owner, 0, none, [], [], [], 0, 0⟩

/-- THE ORIGIN'S DIRECTORY ENTRY of a page (R127). DEDUCED (log 93): the device that creates the mapping holds the entry from then on; its own table says which pages those are, by a valid S leaf with itself as origin when it owns the page, and by a kind-5 entry that names itself when HOST does. -/
def dir? (k : Nat) : Option DirEntry :=
  match tabFind s.share.dir k with
  | some d => some d
  | none => match s.walk (keyAsid k) (keyVa k) with
    | .page _ e _ => if Pte.s e && Pte.origin e = s.devid then some (DirEntry.of s.devid) else none
    | .elsewhere o => if o = s.devid then some (DirEntry.of hostOwner) else none
    | _ => none
def dirOf (k : Nat) : DirEntry := (s.dir? k).getD (DirEntry.of hostOwner)
def setDir (k : Nat) (d : DirEntry) : State := { s with share := { s.share with dir := tabPut s.share.dir k d } }

/-- The origin that this device's table names for an S page, its own or another device's (R116, R119). -/
def originOf (asid va : Nat) : Nat := match s.walk asid va with | .elsewhere o => o | .page _ e _ => if Pte.s e then Pte.origin e else s.devid | _ => s.devid
/-- Does this device hold a page's frame? -/
def ownsPage (k : Nat) : Bool := match s.walk (keyAsid k) (keyVa k) with | .page .. => true | _ => false

/-- An entry that has expired is a miss, unless it is PENDING (R128). -/
def ownerLive (k : Nat) : Option OwnerEntry := (s.owner? k).filter fun e => e.pending || s.now < e.expiry

/-- The device that a new access to a page cannot reach, when it is DOWN (R204). -/
def downFor (origin asid va : Nat) : Option Nat :=
  match s.ownerLive (pageKey asid va) with
  | some e =>
    let d := ownerDevice origin e.owner
    if e.pending || e.owner = unknownOwner || !s.peerDown d then none else some d
  | none => if s.peerDown origin then some origin else none

/-- Ask the origin who owns a page (R128). -/
def askOwner (origin asid va : Nat) : State :=
  if origin = s.devid then s.postOnce (.ownerCacheQuery asid (va / 65536) none)
  else s.sendMsg origin 0 Pk.query asid (va / 65536 * 65536) []

/-- Send a held or new access to its owner. Its response timer starts with the acknowledgement (R205). -/
def sendAccess (d acc : Nat) (p : Pkt) : State :=
  let s1 := s.sendMsg d 0 p.op p.asid p.va p.body
  let mark (r : Remote) : Remote := { r with peer := d, stamp := 0, pkt := { p with dst := d, seq := tabGet 0 (s.peer d).nextSeq 0 } }
  let r := tabFind s1.share.remote acc
  match r with
  | some x => { s1 with share := { s1.share with remote := tabPut s1.share.remote acc (mark x) } }
  | none => s1

/-- Accesses of a page that have gone to an owner and have not been answered (R128). -/
def throughOf (k : Nat) : Nat := (s.share.remote.filter fun e => e.2.peer ≠ unknownOwner && pageKey e.2.pkt.asid e.2.pkt.va = k).length
/-- The entry's count of outstanding accesses follows them (R128). -/
def recount (k : Nat) : State :=
  match s.owner? k with
  | some e => s.setOwner k { e with through := s.throughOf k }
  | none => s

/-- AN ACCESS TO A PAGE OF ANOTHER DEVICE (R128, R133, R205): through the owner cache, waiting at the port while the entry is PENDING or a query is under way. `entry` and `lane` name who waits for the response. -/
def remoteIssue (origin asid va op : Nat) (body : List Nat) (entry lane : Nat) : State :=
  let k := pageKey asid va
  let acc := s.share.nextRemote
  let p : Pkt := { src := s.devid, dst := 0, cls := 0, relayed := false, op, seq := 0, epoch := 0, asid, va, ack := 0, body := acc :: s.devid :: body }
  let r : Remote := { entry, lane, peer := unknownOwner, pkt := p, stamp := 0, resent := 0, through := false }
  let s1 := { s with share := { s.share with remote := tabPut s.share.remote acc r, nextRemote := acc + 1 } }
  match s1.ownerLive k with
  | none => (s1.setOwner k ⟨unknownOwner, 0, true, s.now, 0, [p]⟩).askOwner origin asid va
  | some e =>
    if e.pending then s1.setOwner k { e with held := e.held ++ [p] }
    else (s1.sendAccess (ownerDevice origin e.owner) acc p).recount k

/-- Is an access of this waiter outstanding already? -/
def remoteBusy (entry lane : Nat) : Bool := s.share.remote.any fun e => e.2.entry = entry && e.2.lane = lane

/-- Let the accesses held at the port for a page go to its owner, in issue order (R133). -/
def releaseHeld (k : Nat) : State :=
  match s.owner? k with
  | none => s
  | some e =>
    let d := ownerDevice (s.originOf (keyAsid k) (keyVa k)) e.owner
    State.recount (e.held.foldl (fun t p => t.sendAccess d (p.arg 0) p) (s.setOwner k { e with held := [] })) k

/-- An access of a page has been answered or has failed: the count of accesses outstanding through the owner falls; a PENDING entry whose count reaches 0 becomes VALID, or is removed when it has expired (R128, R133). -/
def settleOwner (k : Nat) : State :=
  match s.owner? k with
  | none => s
  | some e =>
    let e1 := { e with through := s.throughOf k }
    if e1.pending && e1.owner ≠ unknownOwner && e1.through = 0 then
      let s1 := (s.setOwner k { e1 with pending := false }).releaseHeld k
      if e1.expiry ≤ s.now then s1.dropOwner k else s1
    else s.setOwner k e1

end State

/-- The waiter of an engine operation's remote access; a log entry is its own number, and 0 stands for an instruction fetch. -/
def opWaiter (op : Nat) : Nat := 2 ^ 64 + op
/-- Waiters of accesses that take no log entry and are no engine's: the agent's of a core, and KSTAB's of a group's lane. -/
def plainWaiter (c : Nat) : Nat := 2 ^ 65 + c
def kstabWaiter (gk lane : Nat) : Nat := 2 ^ 66 + 32 * gk + lane
/-- The waiter of what an agent does for one packet of a queue; and, with sequence 2^32, for the queue's ring. -/
def packetWaiter (q seq : Nat) : Nat := 2 ^ 67 + 2 ^ 33 * q + seq
def ringWaiter (q : Nat) : Nat := packetWaiter q (2 ^ 32)
/-- The core that such a waiter accesses for. -/
def waiterCore (w : Nat) : Nat := if 2 ^ 67 ≤ w then 0 else if 2 ^ 66 ≤ w then coreOf ((w - 2 ^ 66) / 32) else w - 2 ^ 65
/-- Their places: a read of n bytes, a write, and an addition. -/
def readPlace (a n : Nat) : Nat := a + 2 ^ 64 * n
def writePlace (a : Nat) : Nat := 2 ^ 80 + a
def addPlace (a : Nat) : Nat := 2 ^ 81 + a

namespace State
variable (s : State)

/-- The answer that a waiter has still to take for one of its accesses. -/
def reply? (w place : Nat) : Option Reply := s.share.answers.find? fun r => r.waiter = w && r.place = place
def dropReply (w place : Nat) : State := { s with share := { s.share with answers := s.share.answers.filter fun r => !(r.waiter = w && r.place = place) } }
def addReply (r : Reply) : State := { s with share := { s.share with answers := s.share.answers ++ [r] } }
/-- A waiter has taken the failure of its access. -/
def takeFail (w : Nat) : State := { s with share := { s.share with answers := s.share.answers.filter fun r => !(r.waiter = w && r.fails.isSome) } }

end State

end Machine

end Sys2Proof
end

