-- ==== Sys2Proof/Machine/MemEvents.lean ====
section
/-! DEFINITION. The events that perform what the operand log holds, the home slices' own events, and the sweeper (R94 to R97, R107, R111, R122, R124, R125, R137 to R141, R146 to R150, R284 to R287, R343 to R349). -/

namespace Sys2Proof.Machine

/-- Address of part k of a log entry (key 64·lane + part). -/
def partAddr (e : Log) (k : Nat) : Nat := tabGet 0 e.addr (k / 64) + e.unit * (k % 64)
/-- One access of the entry stands for every true-guard lane (R346, R349). -/
def Log.shared (e : Log) : Bool := e.scalar || e.kind = .lineLoad || e.kind = .lineStore
/-- Keys of an entry's parts. A line access is one part. -/
def partKeys (e : Log) : List Nat :=
  if e.kind = .store || e.kind = .release then (e.data.map (·.1)) else e.addr.map fun a => 64 * a.1
def partSt (e : Log) (k : Nat) : LaneSt := tabGet LaneSt.todo e.st k
/-- Bytes of a part. -/
def partBytes (e : Log) : Nat := if e.kind = .lineStore then 128 else e.unit
/-- Lanes whose access a part is. -/
def partLanes (e : Log) (k : Nat) : LaneMask := if e.shared then e.lanes else maskOf fun i => i = k / 64
/-- Parts that have not been performed. -/
def openParts (e : Log) : List Nat := (partKeys e).filter fun k => partSt e k ≠ .done

/-- The access of n bytes that lane i makes without an entry of its own, for the test of what it must wait for. -/
def probeLog (gk : Nat) (m : LaneMask) (n i a : Nat) : Log := { Log.empty with gk, mask := m, lanes := m, unit := n, cycle := 2 ^ 64, addr := [(i, a)] }
/-- The flag store of an FFENCE, as such an access (R322). -/
def flagLog (o : Op) : Log := { probeLog o.gk (maskOf fun i => i = o.lane) 4 o.lane (o.args.getD 1 0) with kind := .store }

namespace State
variable (s : State)

def log? (id : Nat) : Option Log := tabFind s.logs id
def setLog (id : Nat) (e : Log) : State := { s with logs := tabPut s.logs id e }
def modLog (id : Nat) (f : Log → Log) : State := match s.log? id with | some e => s.setLog id (f e) | none => s
def setPart (id k : Nat) (x : LaneSt) : State := s.modLog id fun e => { e with st := tabPut e.st k x }

/-- Space and position of the first byte of an access: two accesses meet when both agree. -/
def spaceOf (gk lane a : Nat) : Nat × Nat :=
  match s.placeOf gk lane a 1 with
  | some (.scratch x) => (1, x)
  | some (.vault x) => (2, x)
  | _ => match s.peek (coreOf gk) (s.asidOf gk) a with
    | .page pa _ _ => (0, pa)
    | _ => (3 + s.asidOf gk, a)

/-- Do two parts touch a common byte? -/
def meets (e : Log) (k : Nat) (f : Log) (j : Nat) : Bool :=
  let a := s.spaceOf e.gk (k / 64) (partAddr e k)
  let b := s.spaceOf f.gk (j / 64) (partAddr f j)
  a.1 = b.1 && a.2 < b.2 + partBytes f && b.2 < a.2 + partBytes e

/-- Is the page of an access one of another device? -/
def isAway (gk a : Nat) : Bool := apertureOf a = .glob && match s.peek (coreOf gk) (s.asidOf gk) a with | .elsewhere _ => true | _ => false

/-- Does a store touch source bytes that an older copy or pass of its thread has still to read (R154: its reads observe only the stores before it)? -/
def overCopy (id : Nat) (e : Log) (k : Nat) : Bool :=
  let a := partAddr e k
  s.ops.any fun q =>
    let o := q.2
    o.st = .pending && o.gk = e.gk && (partLanes e k).getLsbD o.lane && opSnap o ≤ id &&
    (srcRanges o).any fun r =>
      if apertureOf r.1 = .glob then apertureOf a = .glob && a < r.1 + r.2 && r.1 < a + partBytes e
      else
        let p := s.spaceOf e.gk o.lane r.1
        let b := s.spaceOf e.gk o.lane a
        p.1 = b.1 && b.2 < p.2 + r.2 && p.2 < b.2 + partBytes e

/-- Do two entries load as one event: the two paths of a combined event (R24, R344)? -/
def loadsWith (e f : Log) : Bool := e.kind = .load && f.kind = .load && !e.scalar && !f.scalar && e.gk = f.gk && e.cycle = f.cycle

/-- Does an older entry of the group hold a part back: overlapping bytes of one lane or of one combined event (R141, R344), a page of an entry that has waited for service (R96), or an acquire of the path (R146)? -/
def heldBack (e : Log) (k : Nat) (f : Log) : Bool :=
  (openParts f).any (fun j => (partLanes f j &&& partLanes e k ≠ 0 || f.cycle = e.cycle) && s.meets e k f j) ||
  (f.waited && openParts f ≠ [] && apertureOf (partAddr e k) = .glob && (partKeys f).any fun j => partAddr f j / 65536 = partAddr e k / 65536) ||
  (f.kind = .acquire && f.mask &&& e.mask ≠ 0)

/-- Must a part wait for another entry, for the flag store of an FFENCE (R322), or for a KSTAB's write in flight (R96, R133, R139, R141, R146, R343)? -/
def behind (id : Nat) (e : Log) (k : Nat) : Bool :=
  let page := partAddr e k / 65536
  let loads : Bool := e.kind = .load || e.kind = .acquire || e.kind = .lineLoad
  (s.ops.any fun q => q.2.kind = .ffence && q.2.st = .pending && q.2.gk = e.gk && opSnap q.2 ≤ id && (partLanes e k).getLsbD q.2.lane &&
    s.meets e k (flagLog q.2) (64 * q.2.lane)) ||
  (loads && s.share.remote.any fun r => 2 ^ 66 ≤ r.2.entry && r.2.entry < 2 ^ 67 && waiterCore r.2.entry = coreOf e.gk && r.2.pkt.op = Pk.store && r.2.pkt.asid = s.asidOf e.gk &&
    partAddr e k < r.2.pkt.va + r.2.pkt.arg 2 && r.2.pkt.va < partAddr e k + partBytes e) ||
  (s.logs.any fun q =>
    let f := q.2
    q.1 ≠ id && f.kind ≠ .prefetch && !loadsWith e f &&
    ((q.1 < id && f.gk = e.gk && s.heldBack e k f) ||
     -- accesses of this device to a page of another go out in issue order
     (q.1 < id && f.gk ≠ e.gk && s.isAway e.gk (partAddr e k) && s.asidOf f.gk = s.asidOf e.gk &&
       (openParts f).any fun j => partSt f j = .todo && partAddr f j / 65536 = page) ||
     -- a load of the core waits for the response of a store in flight to its bytes
     (coreOf f.gk = coreOf e.gk && loads &&
       (f.kind = .store || f.kind = .release || f.kind = .lineStore) && (openParts f).any fun j => partSt f j = .sent && s.meets e k f j))) ||
  (!loads && s.overCopy id e k)

/-- Must a part wait for now? Of one event's stores or atomics, lower lanes come first where bytes overlap, unless they perform together (R107, R344). -/
def blocked (id : Nat) (e : Log) (k : Nat) : Bool :=
  s.behind id e k ||
  (!e.parked && e.kind ≠ .load && e.kind ≠ .acquire && e.kind ≠ .lineLoad && (openParts e).any fun j => j < k && j / 64 < k / 64 && s.meets e k e j)

/-- The parts that can be performed now. A parked entry is performed whole, once every line it touches is present and nothing holds it back; one that found its lines present at issue performs, whatever a copy has cleared since (R107). -/
def readyParts (id : Nat) (e : Log) (lane : Option Nat) : List Nat :=
  let l := (partKeys e).filter fun k => partSt e k = .todo && !s.blocked id e k && (match lane with | some i => k / 64 = i | none => true)
  let free (k : Nat) : Bool := !s.behind id e k && match s.placeOf e.gk (k / 64) (partAddr e k) (partBytes e) with
    | some (.scratch p) => !s.touchesAbsent p (partBytes e)
    | _ => true
  if e.parked && !(openParts e).all free then [] else l

/-- The entries whose loads are one event with an entry's, itself among them. -/
def loadEvent (id : Nat) (e : Log) : List (Nat × Log) := s.logs.filter fun q => q.1 = id || loadsWith e q.2
/-- The line of a part. -/
def partLine (e : Log) (k : Nat) : Nat × Nat := let p := s.spaceOf e.gk (k / 64) (partAddr e k); (p.1, p.2 / 128)

/-- THE PARTS THAT ARE READ TOGETHER with a part (R107, R344): those of its event on its line; a parked entry's are read together, whatever their lines, and with what the event reads of those lines. -/
def loadSet (id : Nat) (e : Log) (k : Nat) : List (Nat × Nat) :=
  let ev := s.loadEvent id e
  let own := if e.parked then (openParts e).map (s.partLine e) else [s.partLine e k]
  let lines := own ++ ev.flatMap fun q =>
    if q.2.parked && (openParts q.2).any fun j => own.contains (s.partLine q.2 j) then (openParts q.2).map (s.partLine q.2) else []
  ev.flatMap fun q => ((openParts q.2).filter fun j => lines.contains (s.partLine q.2 j)).map fun j => (q.1, j)

/-- Can a part of a load be read now? A parked entry's lines must be present (R107). -/
def canLoad (q : Nat × Nat) : Bool :=
  match s.log? q.1 with
  | none => true
  | some f => partSt f q.2 = .todo && !s.blocked q.1 f q.2 &&
    (!f.parked || match s.placeOf f.gk (q.2 / 64) (partAddr f q.2) (partBytes f) with
      | some (.scratch p) => !s.touchesAbsent p (partBytes f)
      | _ => true)

/-- The entry has waited for service: later accesses of its group to its pages wait behind it (R96). -/
def setWaited (id : Nat) : State := s.modLog id fun e => { e with waited := true }

/-- An access that is not done yet waits; one whose translation misses waits for a recoverable fault's service (R95, R96). -/
def keepMiss (id gk a : Nat) (t : State) : State :=
  if apertureOf a = .glob && (s.translate (coreOf gk) (s.asidOf gk) a).1 = .walking then t.setWaited id else t

/-- A part meets a recoverable fault: it waits in the log for the service of the page (R95). -/
def faultPart (id k gk va : Nat) : State :=
  ((s.modLog id fun e => { e with st := tabPut e.st k (.faulted (va / 65536)), waited := true })).postOnce (.faultService (coreOf gk) (s.asidOf gk) va)

/-- A part goes to another device, or fails because it is DOWN (R204, R205). An owner-cache miss is a recoverable fault, for which it waits (R95, R96). -/
def sendPart (id k : Nat) (e : Log) (origin op : Nat) (body : List Nat) : State :=
  let a := partAddr e k
  match s.downFor origin (s.asidOf e.gk) a with
  | some d => s.logTrap id ⟨Cause.remote, 0, d, 0⟩ (partLanes e k) a
  | none =>
    let s1 := if (s.ownerLive (pageKey (s.asidOf e.gk) a)).any fun o => !o.pending then s else s.setWaited id
    (s1.setPart id k .sent).remoteIssue origin (s.asidOf e.gk) a op body id k

/-- The loads of one event on one line of another device go out as one request for the line (R344, R347); the first part of it to come sends it. -/
def sendLine (id k : Nat) (e : Log) (origin : Nat) : State :=
  let a := partAddr e k / 128 * 128
  let asid := s.asidOf e.gk
  let ev := s.loadEvent id e
  match s.share.remote.find? fun r => r.2.pkt.va = a && r.2.pkt.asid = asid && r.2.pkt.op = Pk.load && ev.any fun q => q.1 = r.2.entry && q.2.kind ≠ .prefetch with
  | some r => let t := s.setPart id k .sent; if (s.log? r.2.entry).any fun f => f.waited then t.setWaited id else t
  | none =>
    match s.downFor origin asid a with
    | some d => s.logTrap id ⟨Cause.remote, 0, d, 0⟩ (maskOf fun i => (openParts e).any fun j => partAddr e j / 128 * 128 = a && (partLanes e j).getLsbD i) (partAddr e k)
    | none =>
      let s1 := if (s.ownerLive (pageKey asid a)).any fun o => !o.pending then s else s.setWaited id
      (s1.setPart id k .sent).remoteIssue origin asid a Pk.load [128, 0] id k

/-- Parts of a load event that one answered request for a line serves: entry, key, and the bytes that the part takes of the line. -/
def lineParts (r : Remote) : List (Nat × Nat × Nat) :=
  match s.log? r.entry with
  | none => []
  | some e => (s.loadEvent r.entry e).flatMap fun q =>
    ((partKeys q.2).filter fun j => partSt q.2 j = .sent && partAddr q.2 j / 128 * 128 = r.pkt.va).map fun j => (q.1, j, q.2.unit)
/-- The target of an access lets it know that it waits there: its entries wait for service (R96, R205). -/
def marksWait (acc : Nat) : State :=
  match tabFind s.share.remote acc with
  | none => s
  | some r => if r.entry = 0 || 2 ^ 64 ≤ r.entry then s else (r.entry :: (s.lineParts r).map (·.1)).eraseDups.foldl (fun (t : State) id => t.setWaited id) s
/-- The lanes of an entry among them. -/
def servedLanes (id : Nat) (l : List (Nat × Nat × Nat)) : LaneMask := maskOf fun i => l.any fun p => p.1 = id && (match s.log? id with | some e => (partLanes e p.2.1).getLsbD i | none => false)

/-- The instruction has completed: its entry is freed (R94). -/
def freeLog (id : Nat) : State :=
  match s.log? id with
  | none => s
  | some e => State.unpark { s with logs := tabDel s.logs id } id e.gk

/-- Write the returned bytes of a load or atomic into its destination, all registers at once (R97); the values of a lane that has exited are discarded, a load's (R305) and an atomic's (R287). -/
def writeBack (e : Log) : State :=
  if e.cnt = 0 then s else
  s.modGrp e.gk fun g =>
    if e.scalar then g.wrS e.dst (BitVec.ofNat 64 (tabGet 0 e.got (lowLane e.lanes)))
    else g.each e.lanes fun h i =>
      if h.waitOf i = .exited then h else
      if e.kind = .lineLoad then h.wrV e.dst i (BitVec.ofNat 32 (tabGet 0 e.got (lowLane e.lanes) / 2 ^ (32 * i)))
      else
        let x := tabGet 0 e.got i
        (List.range e.cnt).foldl (fun h k => h.wrV (e.dst + k) i (BitVec.ofNat 32 (x / 2 ^ (32 * k)))) h

/-- Does an address lie on an FP64 exact-sum page, as a core's translation shows it? -/
def wideSum (c asid a : Nat) : Bool :=
  match s.esumOf asid a with
  | some d => d.f64 && (match s.peek c asid a with | .page _ p _ => Pte.xs p | _ => false)
  | none => false
/-- Does a line access under a mask name only one word of some FP64 exact-sum element (R349)? -/
def halfElement (gk a : Nat) (m : LaneMask) : Bool :=
  apertureOf a = .glob && s.wideSum (coreOf gk) (s.asidOf gk) a && (lanesOf m).any fun i => !m.getLsbD (i ^^^ 1)

/-- What reading a part answers (R343, R346, R349). -/
def loadPart (id k : Nat) : State :=
  match s.log? id with
  | none => s
  | some e =>
    if partSt e k ≠ .todo then s else
    let a := partAddr e k
    if e.kind = .lineLoad && s.halfElement e.gk a e.lanes then s.logTrap id ⟨Cause.prot, 0, 1, 0⟩ e.lanes a else
    match s.readAt e.gk (k / 64) a e.unit (if e.kind = .load then .l1 else .home) with
    | .ok x t s1 => s1.modLog id fun e => { e with got := tabPut e.got (k / 64) x, st := tabPut e.st k .done, tr := max e.tr t }
    | .fault va => s.faultPart id k e.gk va
    | .bad b => s.logTrap id b (maskOf fun i => i = k / 64) a
    | .away o => s.sendLine id k e o
    | .wait t => s.keepMiss id e.gk a t

/-- A prefetch: a line of a plain page enters the L1, one of another device once it has come; anything else ends it without effect (R345). -/
def prefetchPart (id k : Nat) : State :=
  match s.log? id with
  | none => s
  | some e =>
    if partSt e k ≠ .todo then s else
    let a := partAddr e k
    let s1 := s.setPart id k .done
    if !canonical a || a % e.unit ≠ 0 || apertureOf a ≠ .glob then s1 else
    match s.peek (coreOf e.gk) (s.asidOf e.gk) a with
    | .page _ p _ => if !Pte.r p || Pte.xs p then s1 else
      match s.readGlobal (coreOf e.gk) (s.asidOf e.gk) (s.team (teamOf e.gk)).ctx a e.unit .l1 with
      | .ok _ _ s2 => s2.setPart id k .done
      | .wait t => t
      | _ => s1
    | .elsewhere o =>
      match s.ownerLive (pageKey (s.asidOf e.gk) a) with
      | some w => if w.pending || w.owner = hostOwner || (s.downFor o (s.asidOf e.gk) a).isSome then s1
                  else (s.setPart id k .sent).remoteIssue o (s.asidOf e.gk) (a / 128 * 128) Pk.load [128, 0] id k
      | none => s1
    | _ => s1

/-- Is everything of a log entry performed? -/
def logDone (e : Log) : Bool := openParts e = []

/-- End of a load whose parts have all returned; an acquire's path waits until GTIME ≥ Tr (R146). -/
def finishLoad (id : Nat) (e : Log) : State :=
  let s1 := (s.writeBack e).setLog id { e with cnt := 0 }
  if e.kind ≠ .acquire || s1.reached (coreOf e.gk) e.tr then s1.freeLog id else s1.post [.loadReturn id]

end State

/-- LOADS RETURN (R97, R141, R343, R344): the loads of one event that read one line read it together; the destinations are written when the last has returned. -/
def execLoadReturn (entry : Nat) (s : State) : Out :=
  match s.log? entry with
  | none => .next s
  | some e =>
    if s.quiet e.gk then .next s
    else if e.kind = .prefetch then
      let s1 := (partKeys e).foldl (fun t k => t.prefetchPart entry k) s
      match s1.log? entry with
      | none => .next s1
      | some f => .next (if State.logDone f then s1.freeLog entry
                         else if (partKeys f).any fun k => partSt f k = .todo then s1.post [.loadReturn entry] else s1)
    else if State.logDone e then .next (s.finishLoad entry e)
    else
      let l := (partKeys e).filter fun k => partSt e k = .todo && (s.loadSet entry e k).all s.canLoad
      if l = [] then
        .next (if (partKeys e).any fun k => partSt e k = .todo then s.post [.loadReturn entry] else s)
      else
        let c := s.choose l.length
        let s1 := (s.loadSet entry e (l.getD c.1 0)).foldl (fun t q => t.loadPart q.1 q.2) c.2
        match s1.log? entry with
        | none => .next s1
        | some f => .next (if State.logDone f then s1.finishLoad entry f
                           else if (partKeys f).any fun k => partSt f k = .todo then s1.post [.loadReturn entry] else s1)

namespace State
variable (s : State)

/-- Words of a line store: lane and word, in the lanes of the event. -/
def lineWords (e : Log) : List (Nat × Nat) := e.data.map fun d => (d.1 / 64, d.2)

/-- THE WORDS OF A LINE STORE in one event (R147, R349): `put` writes n bytes. On an FP64 exact-sum page both words of an element are stored together. -/
def writeWords (wide : Bool) (put : State → Nat → Nat → Nat → Acc) (a : Nat) (w : List (Nat × Nat)) : Acc :=
  if wide && !w.all fun x => w.any fun y => y.1 = x.1 ^^^ 1 then .bad ⟨Cause.prot, 0, 2, 0⟩ else
  let step (r : Acc) (x : Nat × Nat) : Acc :=
    match r with
    | .ok _ t u =>
      if wide && x.1 % 2 = 1 then r else
      let hi := if wide then ((w.find? fun y => y.1 = x.1 + 1).map (·.2)).getD 0 else 0
      match put u (a + 4 * x.1) (if wide then 8 else 4) (x.2 + 2 ^ 32 * hi) with
      | .ok _ t2 u2 => .ok 0 (max t t2) u2
      | .wait _ => .waitFrom s fun u => put u (a + 4 * x.1) (if wide then 8 else 4) (x.2 + 2 ^ 32 * hi)
      | q => q
    | q => q
  w.foldl step (.ok 0 0 s)

/-- STORE OF A LINE by a group (R147, R349). -/
def writeLine (gk lane a : Nat) (w : List (Nat × Nat)) : Acc :=
  s.writeWords (apertureOf a = .glob && s.wideSum (coreOf gk) (s.asidOf gk) a) (fun u b n x => u.writeAt gk lane b n x) a w

/-- One store part is performed (R137, R139). -/
def storePart (id k : Nat) : State :=
  match s.log? id with
  | none => s
  | some e =>
    if partSt e k ≠ .todo then s else
    let a := partAddr e k
    let r := if e.kind = .lineStore then s.writeLine e.gk (k / 64) a (lineWords e) else s.writeAt e.gk (k / 64) a e.unit (tabGet 0 e.data k)
    match r with
    | .ok _ p s1 => ((s1.setPart id k .done).noteStore e.gk (partLanes e k) p).noteFar e.gk (partLanes e k) s1.devid p id
    | .fault va => s.faultPart id k e.gk va
    | .bad b => s.logTrap id b (maskOf fun i => i = k / 64) a
    | .wait t => s.keepMiss id e.gk a t
    | .away o =>
      if e.kind = .lineStore then s.sendPart id k e o Pk.store (256 :: (lineWords e).flatMap fun x => [x.1, x.2])
      else s.sendPart id k e o Pk.store [e.unit, tabGet 0 e.data k]

/-- What is left of a store entry is performed later; an entry with nothing left is freed. -/
def settleStore (id : Nat) (lane : Nat) : State :=
  match s.log? id with
  | none => s
  | some e =>
    if logDone e then s.freeLog id
    else if (partKeys e).any fun k => k / 64 = lane && partSt e k = .todo then s.post [.storePerformed id lane] else s

end State

/-- A STORE IS PERFORMED (R137, R139, R343): one single-copy unit of a lane, or every part of a parked entry together (R107). -/
def execStorePerformed (entry lane : Nat) (s : State) : Out :=
  match s.log? entry with
  | none => .next s
  | some e =>
    if s.quiet e.gk then .next s
    else if e.parked then
      let l := s.readyParts entry e none
      .next ((l.foldl (fun t k => t.storePart entry k) s).settleStore entry lane)
    else
      let l := s.readyParts entry e (some lane)
      let c := s.choose l.length
      match l[c.1]? with
      | none => .next (s.settleStore entry lane)
      | some k => .next ((c.2.storePart entry k).settleStore entry lane)

/-- An atomic as a packet carries it: the operation's position in class 0x8, its type code and `.wide`. -/
def atomWords : Instr → List Nat
  | .aadd x => [0, (tyCode x.ty).toNat, 0]
  | .amin x => [1, (tyCode x.ty).toNat, 0]
  | .amax x => [2, (tyCode x.ty).toNat, 0]
  | .aand x => [3, (tyCode x.ty).toNat, 0]
  | .aor x => [4, (tyCode x.ty).toNat, 0]
  | .axor x => [5, (tyCode x.ty).toNat, 0]
  | .axch x => [6, (tyCode x.ty).toNat, 0]
  | .acas x => [7, (tyCode x.ty).toNat, if x.wide then 1 else 0]
  | .afadd x => [8, (tyCode x.ty).toNat, 0]
  | .afmin x => [9, (tyCode x.ty).toNat, 0]
  | .afmax x => [10, (tyCode x.ty).toNat, 0]
  | _ => []

/-- The atomic that a packet's words name. -/
def atomFrom (op ty wide : Nat) : Instr :=
  let x : AtomArgs := { guard := Guard.always, d := 0, a := 0, b := 0, c := 0, wide := wide = 1, nr := false, scope := .dev,
                        ty := (tyOf (BitVec.ofNat 4 ty)).getD .s32, off := 0 }
  match op with
  | 0 => .aadd x | 1 => .amin x | 2 => .amax x | 3 => .aand x | 4 => .aor x | 5 => .axor x | 6 => .axch x | 7 => .acas x
  | 8 => .afadd x | 9 => .afmin x | _ => .afmax x

namespace State
variable (s : State)

/-- One atomic is performed at its home slice or array (R148, R284). -/
def atomPart (id k : Nat) : State :=
  match s.log? id with
  | none => s
  | some e =>
    if partSt e k ≠ .todo then s else
    let a := partAddr e k
    let i := e.atom.getD (.nop ⟨Guard.always⟩)
    let b := tabGet 0 e.data k
    let c := tabGet 0 e.data (k + 32)
    match s.atomAt e.gk (k / 64) a e.unit (atomOp i b c) with
    | .ok old p s1 =>
      let m := maskOf fun j => j = k / 64
      ((s1.modLog id fun e => { e with got := tabPut e.got (k / 64) old, st := tabPut e.st k .done, tr := max e.tr p }).noteAtomic e.gk m p e.scope).noteFar e.gk m s1.devid p id
    | .fault va => s.faultPart id k e.gk va
    | .bad x => s.logTrap id x (maskOf fun j => j = k / 64) a
    | .away o => s.sendPart id k e o Pk.atomic ([e.unit, b, c] ++ atomWords i)
    | .wait t => s.keepMiss id e.gk a t

/-- An atomic entry whose lanes have all performed has its response next. -/
def settleAtom (id lane : Nat) : State :=
  match s.log? id with
  | none => s
  | some e =>
    if logDone e then s.postOnce (.atomicResponse id)
    else if partSt e (64 * lane) = .todo then s.post [.homeAtomic id lane] else s

/-- An atomic that had been sent before the halt returns to a team that has halted or left its core: its old value is written at once, into the record (R286). -/
def landAtom (id lane : Nat) (e : Log) : State :=
  if partSt e (64 * lane) ≠ .done then s else
  let s1 := if e.nr then s else s.writeBack { e with lanes := e.lanes &&& maskOf fun i => i = lane }
  if logDone e then s1.postOnce (.atomicResponse id) else s1

end State

/-- A HOME SLICE OR ARRAY PERFORMS ONE ATOMIC as a single-copy event (R148, R284, R285). -/
def execHomeAtomic (entry lane : Nat) (s : State) : Out :=
  match s.log? entry with
  | none => .next s
  | some e =>
    if s.quiet e.gk then .next (s.landAtom entry lane e) else
    let l := s.readyParts entry e (if e.parked then none else some lane)
    .next ((l.foldl (fun t k => t.atomPart entry k) s).settleAtom entry lane)

/-- THE RESPONSE OF AN ATOMIC RETURNS (R150): a returning one writes its old values; a no-return one completes for ATOMNR once GTIME ≥ P + ε. -/
def execAtomicResponse (entry : Nat) (s : State) : Out :=
  match s.log? entry with
  | none => .next s
  | some e =>
    if !State.logDone e then .next s
    else if !e.nr then .next ((s.writeBack e).freeLog entry)
    else if s.reached (coreOf e.gk) (e.tr + epsilon e.scope) then
      .next (((s.ops.filter fun o => o.2.mark = e.mark && o.2.kind = .atomNr).foldl (fun t o => t.endOp o.1 0) s).freeLog entry)
    else .next (s.post [.atomicResponse entry])

/-- A load that misses reads the home slice, and the line enters the core's L1 with its lease (R138). -/
def execHomeRead (core pa : Nat) (row1 : Bool) (s : State) : Out :=
  match s.allocLine (pa / 128) with
  | some t => .next (t.homeFill core pa row1 (s.frameOf (pa / 65536)).ctx)
  | none => .next ((s.postOnce (evictWait (pa / 128))).post [.homeRead core pa row1])

/-- AN ALLOCATION IN A FULL SET (R138): a line whose horizon has passed leaves and the awaited line comes in; while every line's horizon lies ahead, the access waits. -/
def execSliceEvictWait (slice line : Nat) (s : State) : Out :=
  if slice ≠ sliceOf (line * 128) then .next s else
  match s.allocLine line with
  | some t => .next t
  | none => .next (s.post [evictWait line])

/-- THE INVALIDATE OPERATION (R122): firmware takes note of the tables as they now stand (R124); it drops the matching entries, and completes when no access that translated through one of them is under way. An access of this module's own memory translates and performs in one event; what remains are accesses that a kind-5 entry sent to another device. -/
def execInvalidate (asid lo hi : Nat) (s : State) : Out :=
  let mine (e : Nat × Nat × Nat × List Nat) : Bool := e.1 = asid && e.2.1 = lo && e.2.2.1 = hi
  let rest := s.invals.filter fun e => !mine e
  match s.invals.find? mine with
  | none =>
    let out := (s.share.remote.filter fun e => e.2.pkt.asid = asid && lo ≤ e.2.pkt.va && e.2.pkt.va < hi).map (·.1)
    let t := (s.noteContext asid (s.ctxOf asid)).dropTlb asid lo hi
    .next (if out = [] then t else State.post { t with invals := t.invals ++ [(asid, lo, hi, out)] } [.invalidate asid lo hi])
  | some e =>
    if e.2.2.2.any fun a => (tabFind s.share.remote a).isSome then .next (s.post [.invalidate asid lo hi]) else .next { s with invals := rest }

namespace State
variable (s : State)

/-- Frames whose F is set (R124, R125). -/
def freeFrames : Nat :=
  Config.frames - (s.mem.frames.filter fun e => !e.2.f && !s.pinnedFrame e.1).length - s.mem.pinned.foldl (fun n r => n + r.2.1) 0 - s.mem.retired.length

/-- The sweeper examines the frame under a tower's hand (R125). DESIGN CHOICE (log 21): tower t sweeps the frames whose number is t modulo 8, and its hand stays at a frame that the full ring of 262,144 numbers cannot take. -/
def sweepTower (t : Nat) : State :=
  let h := tabGet t s.mem.hands t
  let f := s.frameOf h
  let m := { s.mem with hands := tabPut s.mem.hands t (if h + 8 < Config.frames then h + 8 else t) }
  if f.f || f.p || f.q then { s with mem := m }
  else if f.a then { s with mem := { m with frames := tabSet Frame.free m.frames h { f with a := false } } }
  else if Config.coldQueue ≤ m.coldQueue.length then s
  else { s with mem := { m with frames := tabSet Frame.free m.frames h { f with q := true }, coldQueue := m.coldQueue ++ [h] } }

end State

/-- One cycle of the sweeper (R125). -/
def execSweeperStep (s : State) : Out :=
  if (s.freeFrames + s.mem.coldQueue.length) * 1000 < s.mem.watermark * Config.frames then
    .next ((List.range 8).foldl (fun t i => t.sweepTower i) s)
  else .next s

namespace State
variable (s : State)

/-- The end of an eviction (R125): the frame is free and reads zero (R101, R379), and the leaf becomes kind 2 or 3 with its permissions and attributes. An eviction to host memory drops C (R126). -/
def evictEnd (f : Nat) (v : Evict) (kind payload device : Nat) : State :=
  let e := Pte.evicted v.leaf kind payload device
  State.putPte { s with mem := { s.mem with frames := tabDel s.mem.frames f, evicting := tabDel s.mem.evicting f, dram := s.mem.dram.filter fun b => b.1 / 65536 ≠ f } } v.at_
    (if kind = 2 then e &&& ~~~(0x4000000000000000 : DWord) else e)

/-- Firmware keeps a frame that was touched after queuing: the leaf comes back and Q clears (R125). -/
def evictKeep (f : Nat) (v : Evict) : State :=
  let x := s.frameOf f
  State.putPte { s with mem := { s.mem with frames := tabSet Frame.free s.mem.frames f { x with q := false }, evicting := tabDel s.mem.evicting f } } v.at_ v.leaf

/-- Copy a frame's bytes to a page of the host memory held for the module (R119, R125). -/
def copyToHost (f payload : Nat) : State :=
  let host := s.mem.host.filter fun b => b.1 / 65536 ≠ payload
  let put (t : List Host.Cell) (b : Host.Cell) : List Host.Cell := tabSet (0 : Byte) t (payload * 65536 + b.1 % 65536) b.2
  let pages := if s.mem.hostPages.contains payload then s.mem.hostPages else payload :: s.mem.hostPages
  { s with mem := { s.mem with host := (s.mem.dram.filter fun b => b.1 / 65536 = f).foldl put host, hostPages := pages } }

/-- Copy a frame to a peer, line by line (R125). DESIGN CHOICE (log 23): the spec gives no packets for it; the model's travel in the ordered class. -/
def copyToPeer (f d : Nat) : State :=
  (List.range 512).foldl (fun t i => t.sendMsg d 0 Pk.give 0 0 [f, i, memNat t.mem.dram (f * 65536 + 128 * i) 128]) s

end State

/-- FIRMWARE EVICTS A QUEUED FRAME (R125), in its order: it takes the frame from the queue and writes the leaf as kind 4; a frame touched since it was queued, or one that backs an S page, is kept; otherwise the page is copied to host memory or to a peer, and the leaf becomes kind 2 or 3. An access between these steps waits under kind 4. -/
def execFrameEvict (asid va pa : Nat) (peer : Option Nat) (payload : Nat) (s : State) : Out :=
  let f := pa / 65536
  let x := s.frameOf f
  match tabFind s.mem.evicting f with
  | some v =>
    if v.sent then .next s
    else if x.a then .next (s.evictKeep f v)
    else match peer with
      | none => .next ((s.copyToHost f payload).evictEnd f v 2 payload 0)
      | some d =>
        if s.peerDown d then .next (s.evictKeep f v)
        else .next ({ s with mem := { s.mem with evicting := tabPut s.mem.evicting f { v with sent := true, peer := d } } }.copyToPeer f d)
  | none =>
    if !s.mem.coldQueue.contains f then .fault .noSuchObject else
    let s0 := { s with mem := { s.mem with coldQueue := s.mem.coldQueue.filter (· ≠ f) } }
    let keep : State := { s0 with mem := { s0.mem with frames := tabSet Frame.free s0.mem.frames f { x with q := false } } }
    match s0.walk asid va with
    | .page q e size =>
      if q / 65536 ≠ f || size ≠ 65536 || Pte.s e then .next keep else
      let at_ := s0.leafPlace asid va
      let s1 := { s0 with mem := { s0.mem with evicting := tabPut s0.mem.evicting f ⟨at_, e, false, 0⟩ } }
      .next (((s1.putPte at_ (Pte.evicted e 4 0 0)).dropTlb asid (va / 65536 * 65536) (va / 65536 * 65536 + 65536)).post [.frameEvict asid va pa peer payload])
    | _ => .next keep

end Sys2Proof.Machine
end

