-- ==== Sys2Proof/Machine/Engines.lean ====
section
/-! DEFINITION. Reads and writes of the engines, the copies, and the handle instructions: class 0xA (R90, R112 to R114, R154, R302, R303, R328 to R331). -/

namespace Sys2Proof.Machine

/-- What an engine's read of bytes answers. -/
inductive EngRead where
  | ok (x : Nat) (s : State)
  | bad (b : State.Bad)
  /-- the bytes are not here yet -/
  | wait (s : State)

/-- What an engine's write answers. -/
inductive EngWrite where
  | ok (p : Nat) (s : State)
  | bad (b : State.Bad)
  | wait (s : State)

namespace State
variable (s : State)

/-- A recoverable fault of an engine access is serviced while the operation waits (R112). -/
def engFault (asid ctx va : Nat) : EngRead :=
  match s.serviceFault asid ctx va with
  | .ok t => .wait ((t.tally 11).walkServed asid va)
  | .bad b => .bad { b with addr := va }
  | .wait => .wait s
  | .pull d f => .wait (s.startPull d f)

/-- Bytes of a scratchpad or vault range, byte by byte where a cluster's vault share may pass from member to member. -/
def arrayBytes (gk lane a : Nat) : Nat → Nat
  | 0 => 0
  | n + 1 => (match s.placeOf gk lane a 1 with | some p => (s.readArray p 1).1 | none => 0) + 256 * arrayBytes gk lane (a + 1) n
def putArray (gk lane a x : Nat) : Nat → Nat × State
  | 0 => (0, s)
  | n + 1 =>
    let r := putArray gk lane a x n
    match s.placeOf gk lane (a + n) 1 with
    | some p => let q := r.2.writeArray p 1 (x / 256 ^ n % 256); (max r.1 q.1, q.2)
    | none => r

/-- READ n bytes within one line for an operation; [ra, ra + rn) is the whole range they belong to, which covers whole elements on an exact-sum page (R153). -/
def engRead (op : Nat) (o : Op) (a n ra rn : Nat) : EngRead :=
  if apertureOf a ≠ .glob then
    if (s.placeOf o.gk o.lane a n).isNone then .bad ⟨Cause.prot, 0, 1, a⟩ else .ok (s.arrayBytes o.gk o.lane a n) s
  else
  let c := coreOf o.gk
  let wide : Option (Nat × Nat) := match s.esumOf o.asid a, s.peek c o.asid a with
    | some d, .page _ p _ => if Pte.xs p then some (d.base, if d.f64 then 8 else 4) else none
    | _, _ => none
  let lo := match wide with | some (b, e) => a - (a - b) % e | none => a
  let hi := match wide with | some (b, e) => let z := a + n; z + (e - (z - b) % e) % e | none => a + n
  if wide.any fun w => (ra - w.1) % w.2 ≠ 0 || rn % w.2 ≠ 0 then .bad ⟨Cause.prot, 0, 1, a⟩ else
  match s.readGlobal c o.asid o.ctx lo (hi - lo) .engine with
  | .ok x _ t => .ok (x / 256 ^ (a - lo) % 256 ^ n) t
  | .bad b => .bad { b with addr := a }
  | .fault va => s.engFault o.asid o.ctx va
  | .wait t => .wait t
  | .away origin =>
    match tabFind (s.op op).got a with
    | some x => .ok (x % 256 ^ n) s
    | none =>
      if s.remoteBusy (opWaiter op) a then .wait s else
      match s.downFor origin o.asid a with
      | some d => .bad ⟨Cause.remote, 0, d, a⟩
      | none => .wait (s.remoteIssue origin o.asid a Pk.load [n, 1] (opWaiter op) a)

/-- Read a longer range, line by line, lowest first. -/
def engRange (op : Nat) (o : Op) (ra rn : Nat) : Nat → Nat → Nat → State → EngRead
  | 0, _, _, u => .wait u
  | fuel + 1, a, n, u =>
    if n = 0 then .ok 0 u else
    let k := min n (128 - a % 128)
    match u.engRead op o a k ra rn with
    | .ok x t => match engRange op o ra rn fuel (a + k) (n - k) t with
      | .ok y v => .ok (x + 256 ^ k * y) v
      | r => r
    | r => r

/-- WRITE n bytes within one line for an operation (R113, R137). A write to another device ends with its response. -/
def engWrite (op : Nat) (o : Op) (a n x key : Nat) : EngWrite :=
  if apertureOf a ≠ .glob then
    if (s.placeOf o.gk o.lane a n).isNone then .bad ⟨Cause.prot, 0, 2, a⟩ else let r := s.putArray o.gk o.lane a x n; .ok r.1 r.2
  else
  let c := coreOf o.gk
  match s.writeGlobal c o.asid a n x with
  | .ok _ p t =>
    -- the line leaves the issuing core's L1 (R113)
    match s.peek c o.asid a with
    | .page pa _ _ => .ok p (t.modCore c fun k => { k with l1 := tabDel k.l1 (pa / 128) })
    | _ => .ok p t
  | .bad b => .bad { b with addr := a }
  | .fault va => match s.engFault o.asid o.ctx va with
    | .bad b => .bad b
    | .wait t => .wait t
    | .ok _ t => .wait t
  | .wait t => .wait t
  | .away origin =>
    if s.remoteBusy (opWaiter op) key then .wait s else
    match s.downFor origin o.asid a with
    | some d => .bad ⟨Cause.remote, 0, d, a⟩
    | none => .wait (s.remoteIssue origin o.asid a Pk.store [n, x] (opWaiter op) key)

/-- Bytes of a live copy of another device's line in a core's L1 (R138, row 3). -/
def farCopy (c asid a n : Nat) : Option Nat :=
  ((tabFind (s.core c).l1 (farLine asid a)).filter fun l => s.gtime c < l.expiry).map fun l => natOf ((l.data.drop (a % 128)).take n)

/-- A read for an instruction that takes no log entry (KSTAB) or for the agent. One of another device's page waits for its owner's answer, or takes the bytes from a live copy in the core's L1. -/
def plainRead (c asid ctx a n : Nat) (w : Nat := plainWaiter c) : EngRead :=
  match s.readGlobal c asid ctx a n .engine with
  | .ok x _ t => .ok x t
  | .bad b => .bad b
  | .fault va => s.engFault asid ctx va
  | .wait t => .wait t
  | .away origin =>
    match s.reply? w (readPlace a n) with
    | some r => match r.fails with
      | some b => .bad ⟨b.1, b.2.1, b.2.2, 0⟩
      | none => .ok r.value (s.dropReply w (readPlace a n))
    | none =>
      match s.farCopy c asid a n with
      | some x => .ok x s
      | none =>
        if s.remoteBusy w (readPlace a n) then .wait s else
        match s.downFor origin asid a with
        | some d => .bad ⟨Cause.remote, 0, d, 0⟩
        | none => .wait (s.remoteIssue origin asid a Pk.load [n, 0] w (readPlace a n))

/-- The same for a write, which has been made once the owner has answered. -/
def plainWrite (c asid ctx a n x : Nat) (w : Nat := plainWaiter c) : EngWrite :=
  match s.writeGlobal c asid a n x with
  | .ok _ p t => .ok p t
  | .bad b => .bad b
  | .fault va => match s.engFault asid ctx va with
    | .bad b => .bad b
    | .wait t => .wait t
    | .ok _ t => .wait t
  | .wait t => .wait t
  | .away origin =>
    let ask (u : State) : EngWrite :=
      match u.downFor origin asid a with
      | some d => .bad ⟨Cause.remote, 0, d, 0⟩
      | none => .wait (u.remoteIssue origin asid a Pk.store [n, x] w (writePlace a))
    match s.reply? w (writePlace a) with
    | some r => match r.fails with
      | some b => .bad ⟨b.1, b.2.1, b.2.2, 0⟩
      -- an answer to a write of other bytes is none to this one
      | none => if r.value = x then .ok r.time (s.dropReply w (writePlace a)) else ask (s.dropReply w (writePlace a))
    | none => if s.remoteBusy w (writePlace a) then .wait s else ask s

/-- The device that has performed a write of a waiter: the one that answered, or this one. -/
def writtenBy (w a : Nat) : Nat := match s.reply? w (writePlace a) with | some r => r.dev | none => s.devid

/-- While KSTAB waits for its write, the bytes that another device has returned for its descriptor are kept for it. -/
def keepReply (u : State) (w a d : Nat) : State :=
  if (s.reply? w (readPlace a 16)).isSome || !(match u.peek (waiterCore w) (u.tm.asid) a with | .elsewhere _ => true | _ => false) || apertureOf a ≠ .glob then s
  else s.addReply ⟨w, readPlace a 16, d, 0, 0, none⟩

end State

/-- A quad as four words. -/
def tileWord (g : Group) (c lane k : Nat) : Nat := (g.rdV (c + k) lane).toNat

/-- Operands of one lane's copy as the operation keeps them (R112, R114); the last is the first younger log entry. -/
def copyArgs (s : State) (x : CpyArgs) (tile : Bool) (i : Nat) : List Nat :=
  let dst := (s.g.rdPair x.a.toNat i).toNat
  let src := (s.g.rdPair x.b.toNat i).toNat
  let c := x.c.toNat
  if tile then
    let w (k : Nat) : Nat := tileWord s.g c i k
    [dst, src, w 0, w 1 / 65536, w 1 % 65536, 2 ^ (w 2 / 256 % 4), w 2 / 16 % 16, w 2 % 16, w 3, s.nextLog]
  else [dst, src, (s.g.rdV c i).toNat, s.nextLog]

/-- Validity of a tile descriptor (R114): `w2` is its third word. -/
def tileOk (args : List Nat) (w2 : Nat) : Bool :=
  let a (i : Nat) : Nat := args.getD i 0
  let row := (a 4 + 2 * a 7) * a 5
  w2 < 1024 && 1 ≤ a 3 && a 3 ≤ 4096 && 1 ≤ a 4 && a 4 ≤ 4096 && a 2 % a 5 = 0 && a 8 % 128 = 0 && row ≤ a 8 && row ≤ 4096

/-- Does [a, a + n) lie in one aperture (R104, R112)? DESIGN CHOICE (log 109): bytes that are not canonical, on which a range may run out of GLOBAL, count as GLOBAL's here; an access to one finds no mapping. -/
def oneAperture (a n : Nat) : Bool :=
  n = 0 || (apertureOf a = apertureOf (a + n - 1) && (apertureOf a ≠ .glob || [teamBase, clusBase, vaultBase, privBase].all fun w => a + n ≤ w || w ≤ a))
/-- Does [a, a + n) touch PRIV? -/
def touchesPriv (a n : Nat) : Bool := n ≠ 0 && a < privBase + 0x100000000 && privBase < a + n
/-- Does [a, a + n) of VAULT touch a hole (R108)? -/
def touchesHole (a n : Nat) : Bool :=
  n ≠ 0 && apertureOf a = .vault && (List.range ((a - vaultBase + n - 1) / 2 ^ 24 - (a - vaultBase) / 2 ^ 24 + 1)).any fun i => vaultHole (a - vaultBase + i * 2 ^ 24)

namespace State
variable (s : State)

/-- THE CHECKS OF R112 in their order, over the lanes of a mask. DESIGN CHOICE (log 50): of CPYH, the PRIV, aperture and allocation checks look at the bytes of each row, and all rows of a range share one aperture; an empty range touches nothing. DESIGN CHOICE (log 86): NOMAP for a hole of VAULT (R108), to which the order gives no place, comes just before the allocation check. -/
def copyChecks (x : CpyArgs) (tile : Bool) (t : LaneMask) : Option Trap :=
  let o (i : Nat) : Op := { Op.none with kind := if tile then .tile else .copy, args := copyArgs s x tile i }
  let rows (i : Nat) : List (Nat × Nat × Nat) := copyRows (o i)
  let dst (i : Nat) : Nat := (o i).args.getD 0 0
  let src (i : Nat) : Nat := match rows i with | r :: _ => r.2.1 | [] => (o i).args.getD 1 0
  let meet (p : Nat → Bool) : LaneMask := maskOf fun i => t.getLsbD i && p i
  let trap (c d : Nat) (m : LaneMask) (a : Nat → Nat) : Option Trap := some { cause := c, detail := d, mask := m, addr := BitVec.ofNat 64 (a (lowLane m)) }
  let c1d := meet fun i => !canonical (dst i)
  let c1s := meet fun i => !canonical (src i) || !canonical ((o i).args.getD 1 0)
  let c2 := meet fun i => tile && dst i % 128 ≠ 0
  let c3d := meet fun i => (rows i).any fun r => touchesPriv r.1 r.2.2
  let c3s := meet fun i => (rows i).any fun r => touchesPriv r.2.1 r.2.2
  let same (l : List (Nat × Nat)) : Bool := l.all fun r => oneAperture r.1 r.2 && apertureOf r.1 = apertureOf (l.headD (0, 0)).1
  let c4d := meet fun i => !same ((rows i).map fun r => (r.1, r.2.2))
  let c4s := meet fun i => !same ((rows i).map fun r => (r.2.1, r.2.2))
  let c5 := meet fun i => tile && apertureOf (dst i) ≠ .team && apertureOf (dst i) ≠ .clus
  let c5d := meet fun i => tile && !tileOk (o i).args (tileWord s.g x.c.toNat i 2)
  let c6h := meet fun i => (rows i).any fun r => touchesHole r.1 r.2.2 || touchesHole r.2.1 r.2.2
  let c6d := meet fun i => (rows i).any fun r => !s.rangeHeld s.cur.gk i r.1 r.2.2
  let c6s := meet fun i => (rows i).any fun r => !s.rangeHeld s.cur.gk i r.2.1 r.2.2
  if c1d ≠ 0 then trap Cause.nomap 0 c1d dst
  else if c1s ≠ 0 then trap Cause.nomap 0 c1s src
  else if c2 ≠ 0 then trap Cause.misalign 0 c2 dst
  else if c3d ≠ 0 then trap Cause.prot 2 c3d dst
  else if c3s ≠ 0 then trap Cause.prot 1 c3s src
  else if c4d ≠ 0 then trap Cause.apspan 0 c4d dst
  else if c4s ≠ 0 then trap Cause.apspan 0 c4s src
  else if c5 ≠ 0 then trap Cause.prot 2 c5 dst
  else if c5d ≠ 0 then trap Cause.illegal 0xA01 c5d (fun _ => 0)
  else if c6h ≠ 0 then trap Cause.nomap 0 c6h (fun i => if (rows i).any (fun r => touchesHole r.1 r.2.2) then dst i else src i)
  else if c6d ≠ 0 then trap Cause.prot 2 c6d dst
  else if c6s ≠ 0 then trap Cause.prot 1 c6s src
  else none

/-- Destination lines of a copy, by address div 128. A row of a tile also covers the lines up to the next row (R114). DESIGN CHOICE (log 110): the last row, which no row follows, covers the lines of its own bytes. -/
def copyLines (o : Op) : List Nat :=
  let l := copyRows o
  let n (r : (Nat × Nat × Nat) × Nat) : Nat := if r.2 + 1 < l.length then o.args.getD 8 0 / 128 else (r.1.1 % 128 + r.1.2.2 + 127) / 128
  (l.zip (List.range l.length)).flatMap fun r => (List.range (n r)).map (· + r.1.1 / 128)

/-- Copies outstanding on a core, counted in lanes (R302). -/
def copiesOn (c : Nat) : Nat := (s.ops.filter fun e => (e.2.kind = .copy || e.2.kind = .tile) && e.2.st = .pending && coreOf e.2.gk = c).length

/-- Clear the presence bits of a copy's scratchpad lines (R113). -/
def clearPresence (i : Nat) : State :=
  let o := s.op i
  let one (t : State) (l : Nat) : State :=
    match t.placeOf o.gk o.lane (128 * l) 1 with
    | some (.scratch p) =>
      let k := p / 128
      { t with mem := { t.mem with absent := tabSet false t.mem.absent k true, filling := tabPut t.mem.filling k (i :: tabGet [] t.mem.filling k) } }
    | _ => t
  o.todo.foldl one s

/-- ISSUE OF A COPY (R112, R113, R302, R303). -/
def copyIssue (x : CpyArgs) (tile : Bool) : Out :=
  s.enter ((x.a.toNat, 2) :: (x.b.toNat, 2) :: [(x.c.toNat, if tile then 4 else 1)]) [] fun s =>
    let t := s.trueLanes x.guard
    if t = 0 then .next ((s.advance s.cur.mask).finish true) else
    s.readHandle t x.h.toNat fun s =>
    match s.copyChecks x tile t with
    | some p => .next (s.takeTrap p)
    | none =>
      if s.ctrFull 0 || Config.copiesPerCore < s.copiesOn s.curCore + popMask t then .next s.stall else
      let mk (i : Nat) : Op × List Nat :=
        let o : Op := { Op.none with kind := if tile then .tile else .copy, gk := s.cur.gk, lane := i, st := .pending, pc := s.cur.pc, asid := s.tm.asid,
                                     ctx := s.tm.ctx, args := copyArgs s x tile i }
        let l := copyLines o
        ({ o with todo := l, st := if l = [] then .complete else .pending }, [i])
      let r := s.startOps ((lanesOf t).map mk) (some x.h.toNat)
      let s1 := r.1.foldl (fun u i => (u.clearPresence i).post ((u.op i).todo.map fun l => .copyLineWrite i l)) r.2
      .next ((s1.advance s.cur.mask).finish true)

end State

def execCpy (x : CpyArgs) (s : State) : Out := s.copyIssue x false
def execCpyh (x : CpyArgs) (s : State) : Out := s.copyIssue x true

namespace State
variable (s : State)

/-- Does an older store of the issuing thread still have to be performed (R113, R154), or does its path wait for an acquire (R146)? -/
def priorStores (o : Op) (snap : Nat) : Bool :=
  s.logs.any fun q => q.1 < snap && q.2.gk = o.gk && ((q.2.kind = .acquire && q.2.mask.getLsbD o.lane) || (q.2.kind = .store || q.2.kind = .release || q.2.kind = .lineStore || q.2.kind = .atomic) &&
    (openParts q.2).any fun k => (partLanes q.2 k).getLsbD o.lane)

/-- Does an access that issued before the copy, on a line that was present, still have to be performed there (R107)? -/
def priorLine (snap line : Nat) : Bool :=
  s.logs.any fun q => q.1 < snap && !q.2.parked && (openParts q.2).any fun k =>
    match s.placeOf q.2.gk (k / 64) (partAddr q.2 k) (partBytes q.2) with
    | some (.scratch p) => (scratchLines p (partBytes q.2)).contains line
    | _ => false

/-- Where the bytes of a range outside GLOBAL lie: space, position and length, in pieces; a range of CLUS may run over several members (R105). -/
def rangePieces (gk lane a n : Nat) : List (Nat × Nat × Nat) :=
  let piece (b k : Nat) : Nat × Nat × Nat := let p := s.spaceOf gk lane b; (p.1, p.2, k)
  if n = 0 then [] else
  if apertureOf a ≠ .clus then [piece a n] else
  (List.range ((a % 128 + n + 127) / 128)).map fun j =>
    let lo := max a (a / 128 * 128 + 128 * j)
    piece lo (min (a + n) (a / 128 * 128 + 128 * j + 128) - lo)

/-- Do source and destination of a copy overlap? -/
def copyOverlaps (o : Op) : Bool :=
  let l := copyRows o
  l.any fun r => l.any fun q =>
    if apertureOf r.1 = .glob then apertureOf q.2.1 = .glob && r.1 < q.2.1 + q.2.2 && q.2.1 < r.1 + r.2.2
    else apertureOf q.2.1 ≠ .glob && (s.rangePieces o.gk o.lane r.1 r.2.2).any fun a => (s.rangePieces o.gk o.lane q.2.1 q.2.2).any fun b =>
      a.1 = b.1 && a.2.1 < b.2.1 + b.2.2 && b.2.1 < a.2.1 + a.2.2

/-- The segment of a destination line: destination byte, source byte, count, and its row. -/
def lineSegment (o : Op) (line : Nat) : Option (Nat × Nat × Nat × (Nat × Nat × Nat) × Nat) :=
  let l := copyRows o
  let at_ (i : Nat) : Nat := l.foldl (fun (p : Nat × Nat) r => if p.2 < i then (p.1 + r.2.2, p.2 + 1) else (p.1, p.2 + 1)) (0, 0) |>.1
  ((List.range l.length).zip l).findSome? fun e =>
    let r := e.2
    let lo := max r.1 (128 * line)
    let hi := min (r.1 + r.2.2) (128 * line + 128)
    if lo < hi then some (lo, r.2.1 + (lo - r.1), hi - lo, r, at_ e.1 + (lo - r.1)) else none

/-- Read every source byte of an overlapping copy before its first write (R113). -/
def copySnapshot (op : Nat) (o : Op) : List (Nat × Nat × Nat) → State → EngRead
  | [], u => .ok 0 u
  | r :: l, u => match engRange op o r.2.1 r.2.2 (r.2.2 + 2) r.2.1 r.2.2 u with
    | .ok x v => match copySnapshot op o l v with
      | .ok y w => .ok (x + 256 ^ r.2.2 * y) w
      | q => q
    | q => q

/-- Where the destination of an overlapping copy lies above its source, each overlapped byte may keep either value (R113): free values choose. -/
def mixBytes (fresh now : Nat) (salt : Nat) : Nat → Nat
  | 0 => 0
  | n + 1 => (if Config.overlapTakesNew (salt + n) then fresh else now) % 256 + 256 * mixBytes (fresh / 256) (now / 256) salt n

/-- A line of a copy is written: it is present, and the copy has one line less (R107, R113); the older copies of the same core have lost the line to it. DESIGN CHOICE (log 87): of two lanes' copies of one issue event the higher lane's counts as issued later; and a line that an older and a younger copy have both cleared is present once one of them has written it. -/
def copyLineDone (op line d p : Nat) : State :=
  let o := s.op op
  let s1 := match s.placeOf o.gk o.lane (128 * line) 1 with
    | some (.scratch q) =>
      let k := q / 128
      let rest := (tabGet [] s.mem.filling k).filter fun j => op < j || (j ≠ op && coreOf (s.op j).gk ≠ coreOf o.gk)
      if (tabGet [] s.mem.filling k).contains op then
        { s with mem := { s.mem with absent := tabDel s.mem.absent k, filling := tabSet [] s.mem.filling k rest } }
      else s
    | _ => s
  let s2 := s1.modOp op fun o => ({ o with todo := o.todo.filter (· ≠ line) } : Op).wrote d p
  if (s2.op op).todo = [] then s2.postOnce (.copyComplete op) else s2

/-- Is a line of this copy superseded by a later copy of its core that has written it already (R113)? -/
def superseded (op : Nat) (o : Op) (line : Nat) : Bool :=
  match s.placeOf o.gk o.lane (128 * line) 1 with
  | some (.scratch q) => !(tabGet [] s.mem.filling (q / 128)).contains op
  | _ => false

end State

/-- ONE DESTINATION LINE OF A COPY (R113): the covered bytes are written in one event, and a scratchpad line becomes present in the same event. -/
def execCopyLineWrite (op line : Nat) (s : State) : Out :=
  let o := s.op op
  if o.st ≠ .pending || !o.todo.contains line || switchedOut o.gk then .next s else
  let again (t : State) : Out := .next (t.post [.copyLineWrite op line])
  let phys : Option Nat := match s.placeOf o.gk o.lane (128 * line) 1 with | some (.scratch q) => some (q / 128) | _ => none
  if s.priorStores o (opSnap o) || phys.any (s.priorLine (opSnap o)) then again s else
  if s.remoteBusy (opWaiter op) (2 ^ 64 + line) then .next s else
  if s.superseded op o line then .next (s.copyLineDone op line s.devid 0) else
  match State.lineSegment o line with
  | none => .next (s.copyLineDone op line s.devid 0)
  | some (d, a, n, r, pos) =>
    let put (x : Nat) (t : State) : Out :=
      match t.engWrite op o d n x (2 ^ 64 + line) with
      | .ok p u => .next (u.copyLineDone op line u.devid p)
      | .bad b => .next (t.failOp op b)
      | .wait u => if u.remoteBusy (opWaiter op) (2 ^ 64 + line) then .next u else again u
    if s.copyOverlaps o then
      if o.src = [] then
        match State.copySnapshot op o (copyRows o) s with
        | .ok x t => again (t.modOp op fun o => { o with src := bytesOf x ((copyRows o).foldl (fun m r => m + r.2.2) 0) })
        | .bad b => .next (s.failOp op b)
        | .wait t => again t
      else
        let old := natOf ((o.src.drop pos).take n)
        if o.args.getD 1 0 < o.args.getD 0 0 then
          match State.engRange op o r.2.1 r.2.2 4 a n s with
          | .ok now t => put (State.mixBytes now old s.ticks n) { t with ticks := t.ticks + n }
          | .bad b => .next (s.failOp op b)
          | .wait t => again t
        else put old s
    else
      match State.engRange op o r.2.1 r.2.2 4 a n s with
      | .ok x t => put x t
      | .bad b => .next (s.failOp op b)
      | .wait t => again t

/-- A COPY IS COMPLETE when every write is performed (R113). -/
def execCopyComplete (op : Nat) (s : State) : Out :=
  if (s.op op).st = .pending && (s.op op).todo = [] then .next ((s.endOp op 0).wakeHandles) else .next s

/-- HTST never blocks: the predicate is 0 for a pending handle, 1 otherwise (R329). -/
def execHtst (x : HandArgs) (s : State) : Out :=
  s.enter [] [] fun s =>
    let t := s.trueLanes x.guard
    let s1 := s.modG fun g => g.each t fun h i =>
      h.wrP x.d.toNat i (g.rdH x.h.toNat i = 0 || (s.op (g.rdH x.h.toNat i)).st ≠ .pending)
    .next ((s1.advance s.cur.mask).finish true)

/-- HCAN cancels the operation of each true-guard lane's handle (R330). -/
def execHcan (x : HandArgs) (s : State) : Out :=
  s.enter [] [] fun s =>
    let t := s.trueLanes x.guard
    let s1 := (lanesOf t).foldl (fun u i => if u.g.rdH x.h.toNat i = 0 then u else u.cancelOp (u.g.rdH x.h.toNat i)) s
    .next ((s1.advance s.cur.mask).finish true)

/-- HMOV copies the handle's state, tag and status word: both handles follow one operation, and reading one leaves the other (R331). -/
def execHmov (x : HandArgs) (s : State) : Out :=
  s.enter [] [] fun s =>
    let t := s.trueLanes x.guard
    s.readHandle t x.d.toNat fun s =>
      let s1 := s.modG fun g => g.each t fun h i => h.copyH x.d.toNat x.h.toNat i
      .next ((s1.advance s.cur.mask).finish true)

end Sys2Proof.Machine
end

