-- ==== Sys2Proof/Machine/Floating.lean ====
section
/-! DEFINITION. Class 0x3: floating arithmetic, minimum and maximum, compare and classify (R308 to R312). -/

namespace Sys2Proof.Machine

/-- A two-source floating instruction: each element exact, then rounded once (R309). -/
def fltOp (x : VArgs) (z : FVal → FVal → FVal × Bool) (s : State) : Out :=
  s.vec3 .float2 x (.ofTy x.ty) fun t i =>
    halves x.ty fun k => let a := fltArgs t x i k; outOf x.ty.fmt x.rnd x.sat (z a.1 a.2)
def fltOpI (x : VImm) (z : FVal → FVal → FVal × Bool) (s : State) : Out :=
  s.vecImm .float2 x (.ofTy x.ty) fun t i =>
    halves x.ty fun k => let a := fltArgsI t x i k; outOf x.ty.fmt x.rnd x.sat (z a.1 a.2)

def execFadd (x : VArgs) (s : State) : Out := fltOp x (addVal x.rnd) s
def execFaddI (x : VImm) (s : State) : Out := fltOpI x (addVal x.rnd) s
def execFsub (x : VArgs) (s : State) : Out := fltOp x (fun a b => addVal x.rnd a (b.modify false true)) s
def execFmul (x : VArgs) (s : State) : Out := fltOp x mulVal s
def execFmulI (x : VImm) (s : State) : Out := fltOpI x mulVal s
/-- FFMA; M[88] negates C (R308). -/
def execFfma (x : VArgs) (s : State) : Out :=
  s.vec3 .float3 x (.ofTy x.ty) fun t i =>
    halves x.ty fun k =>
      let a := fltArgs t x i k
      outOf x.ty.fmt x.rnd x.sat (fmaVal x.rnd a.1 a.2 (floatOperand x.ty false (x.op8.getLsbD 0) (t.rdSrc x.ty.wide x.c i) k))
/-- The I-form adds D itself (R54). -/
def execFfmaI (x : VImm) (s : State) : Out :=
  s.vecImm .float2 x (.ofTy x.ty) fun t i =>
    halves x.ty fun k =>
      let a := fltArgsI t x i k
      let d := match x.d with | .reg n => t.rdSrc x.ty.wide (.reg n) i | .nw => 0
      outOf x.ty.fmt x.rnd x.sat (fmaVal x.rnd a.1 a.2 (floatOperand x.ty false false d k))

/-- FMIN and FMAX on the modified codes (R310). -/
def fltMinMax (least : Bool) (x : VArgs) (s : State) : Out :=
  s.vec3 .floatMin x (.ofTy x.ty) fun t i =>
    let a := t.rdSrc x.ty.wide x.a i
    let b := t.rdSrc x.ty.wide x.b i
    halves x.ty fun k =>
      (BitVec.ofNat 64 (minMax x.ty.fmt least (modCode x.ty.fmt x.absA x.negA (elem x.ty a k)) (modCode x.ty.fmt x.absB x.negB (elem x.ty b k))), 0)
def execFmin (x : VArgs) (s : State) : Out := fltMinMax true x s
def execFmax (x : VArgs) (s : State) : Out := fltMinMax false x s

def execFsetp (x : VArgs) (s : State) : Out :=
  s.vec3 .floatSetp x .pred fun t i => let a := fltArgs t x i 0; boolOut (cmpVal x.cmp a.1 a.2)
def execFsetpI (x : VImm) (s : State) : Out :=
  s.vecImm .floatSetp x .pred fun t i => let a := fltArgsI t x i 0; boolOut (cmpVal x.cmp a.1 a.2)

def execFclass (x : VArgs) (s : State) : Out :=
  s.vec3 .floatClass x .word fun t i => (BitVec.ofNat 64 (classOf x.ty.fmt (elem x.ty (t.rdSrc x.ty.wide x.a i) 0)), 0)

end Sys2Proof.Machine
end

