-- ==== Sys2Proof/Machine/Flows.lean ====
section
/-! DEFINITION. Residual flows: coding, generations, multicast, FSEND, FSYNC, and FFENCE (R155, R219 to R236, R321 to R325). -/

namespace Sys2Proof.Machine

/-- Bytes of block b of a frame (R219). -/
def blockBytes (frame b : Nat) : Nat := min 4096 (frame - 4096 * b)
def blockCount (frame : Nat) : Nat := (frame + 4095) / 4096
/-- Block b of a plane; a block that nothing has written is zero (R221). -/
def blockOf (frame : Nat) (plane : Tab (List Byte)) (b : Nat) : List Byte := tabGet (List.replicate (blockBytes frame b) 0) plane b
/-- Replace the first bytes of a block of a plane. -/
def setBlock (frame : Nat) (plane : Tab (List Byte)) (b : Nat) (new : List Byte) : Tab (List Byte) :=
  tabPut plane b (new ++ (blockOf frame plane b).drop new.length)

/-- Checksum of a block: its little-endian 16-bit words modulo 2^16 (R224). -/
def checksum : List Byte → Nat
  | [] => 0
  | [b] => b.toNat
  | a :: b :: l => (a.toNat + 256 * b.toNat + checksum l) % 65536

/-- Elements of e bytes. -/
def elemsOf (e : Nat) : Nat → List Byte → List Nat
  | 0, _ => []
  | n + 1, l => natOf (l.take e) :: elemsOf e n (l.drop e)

/-- Width of the OR of a group's residuals (R223). -/
def residWidth (r : List Nat) : Nat := let o := r.foldl (· ||| ·) 0; if o = 0 then 0 else Nat.log2 o + 1
/-- The sixteen residuals packed at w bits (R222). -/
def packResid (w : Nat) (r : List Nat) : Nat := r.foldr (fun x n => x + 2 ^ w * n) 0

/-- Codes of a run of n zero groups (R223). -/
def runCodes (n : Nat) : List Byte := List.replicate (n / 64) 63 ++ (if n % 64 = 0 then [] else [BitVec.ofNat 8 (n % 64 - 1)])

/-- THE ENCODER (R222, R223): groups of 16·e new bytes against their predictor; `z` counts the zero groups before. -/
def encodeGroups (e : Nat) : Nat → Nat → List Byte → List Byte → List Byte
  | 0, z, _, _ => runCodes z
  | n + 1, z, new, pred =>
    let g := new.take (16 * e)
    let r := List.zipWith (· ^^^ ·) (elemsOf e 16 g) (elemsOf e 16 pred)
    let w := residWidth r
    if w = 0 then encodeGroups e n (z + 1) (new.drop (16 * e)) (pred.drop (16 * e))
    else
      runCodes z ++ (if w < 8 * e then BitVec.ofNat 8 (64 + w) :: bytesOf (packResid w r) (2 * w) else 128 :: g) ++
        encodeGroups e n 0 (new.drop (16 * e)) (pred.drop (16 * e))

/-- THE DECODER (R222, R227): the covered new bytes, or nothing for a reserved header, a bad width, or codes that do not fit. `fuel` bounds the codes. -/
def decodeGroups (e : Nat) : Nat → List Byte → List Byte → Option (List Byte)
  | _, [], _ => some []
  | 0, _, _ => none
  | fuel + 1, h :: l, pred =>
    let k := h.toNat / 64
    let x := h.toNat % 64
    if k = 0 then
      let n := 16 * e * (x + 1)
      if pred.length < n then none else (decodeGroups e fuel l (pred.drop n)).map fun t => pred.take n ++ t
    else if pred.length < 16 * e then none
    else if k = 1 then
      if x = 0 || 32 < x || 8 * e < x || l.length < 2 * x then none else
      let r := natOf (l.take (2 * x))
      let g := (List.range 16).flatMap fun j => bytesOf (r / 2 ^ (x * j) % 2 ^ x ^^^ natOf ((pred.drop (e * j)).take e)) e
      (decodeGroups e fuel (l.drop (2 * x)) (pred.drop (16 * e))).map fun t => g ++ t
    else if k = 2 && x = 0 then
      if l.length < 16 * e then none else (decodeGroups e fuel (l.drop (16 * e)) (pred.drop (16 * e))).map fun t => l.take (16 * e) ++ t
    else none

/-- A coded or raw block with its header (R224, R231). The flags byte of a unicast coded block is 0, that of a multicast one holds G − B in bits 7 to 1. -/
def codedBlock (b gen flags sum : Nat) (body : List Byte) : List Byte := bytesOf b 2 ++ [BitVec.ofNat 8 gen, BitVec.ofNat 8 flags] ++ bytesOf sum 2 ++ body
def rawFlags : Nat := 1
def multiFlags (diff : Nat) : Nat := 2 * (diff % 128)

/-- The 8-byte segment header (R225): flow, transfer, length of the coded block, offset, first and last block of the transfer, raw. -/
def segHeader (id t len off : Nat) (first last raw : Bool) : Nat :=
  id % 4096 + 2 ^ 16 * (t % 65536) + 2 ^ 32 * (len % 65536) + 2 ^ 48 * (off % 8192 + (if first then 2 ^ 13 else 0) + (if last then 2 ^ 14 else 0) + if raw then 2 ^ 15 else 0)
/-- Fields of a segment's packet: its header, its bytes and how many they are, and how many bytes of its block the transfer covers, which R225 names no field for: DESIGN CHOICE (log 24), reserved bytes of the packet's header hold it. A complete block handed on to execFlowBlockReceive has its block after that. -/
def segFlow (p : Pkt) : Nat := p.arg 0 % 4096
def segTransfer (p : Pkt) : Nat := p.arg 0 / 2 ^ 16 % 65536
def segLen (p : Pkt) : Nat := p.arg 0 / 2 ^ 32 % 65536
def segOffset (p : Pkt) : Nat := p.arg 0 / 2 ^ 48 % 8192
def segFirst (p : Pkt) : Bool := p.arg 0 / 2 ^ 61 % 2 = 1
def segLast (p : Pkt) : Bool := p.arg 0 / 2 ^ 62 % 2 = 1
def segRaw (p : Pkt) : Bool := p.arg 0 / 2 ^ 63 % 2 = 1
def segCover (p : Pkt) : Nat := p.arg 3
def segBlock (p : Pkt) : Nat := p.arg 4

/-- Bytes of a flow's mirror region, of an entry of its generation table, and of the table (R221). -/
def mirrorSize (f : Flow) : Nat := if f.multi then 2 * f.frame else f.frame
def entrySize (f : Flow) : Nat := if f.sender && f.multi then 36 else 2
def tableSize (f : Flow) : Nat := entrySize f * blockCount f.frame
/-- THE GENERATION TABLE'S ENTRY of block b (R221): 2 bytes, or 36 for a multicast sender. -/
def tableEntry (f : Flow) (b : Nat) : List Byte :=
  let bit (x : Bool) (n : Nat) : Nat := if x then 2 ^ n else 0
  if f.sender then
    if f.multi then
      bytesOf (tabGet 0 f.gen0 b + 256 * tabGet 0 f.gen1 b) 4 ++ (List.range 16).flatMap fun i =>
        let k := 16 * b + i
        bytesOf (tabGet 0 f.ackGen k + bit (tabGet false f.slotFlight k) 8 + bit (tabGet false f.slotQueued k) 9 + bit (tabGet false f.slotBehind k) 10) 2
    else bytesOf (tabGet 0 f.gen0 b + bit (tabGet false f.inflight b) 8 + bit (tabGet false f.owed b) 9) 2
  else bytesOf (tabGet 0 f.gen0 b + if f.multi then 256 * tabGet 0 f.gen1 b else 0) 2

namespace State
variable (s : State)

def flow? (k : Nat) : Option Flow := tabFind s.flows k
def modFlow (k : Nat) (f : Flow → Flow) : State := match s.flow? k with | some x => { s with flows := tabPut s.flows k (f x) } | none => s

/-- THE MIRROR REGION AND THE GENERATION TABLE IN MEMORY (R221): the bytes of some blocks' planes and entries as the engine now has them. DEDUCED (log 121): no page table names them, and they lie at their addresses in DRAM. -/
def syncFlow (k : Nat) (l : List Nat) : State :=
  match s.flow? k with
  | none => s
  | some f =>
    let one (m : List Host.Cell) (b : Nat) : List Host.Cell :=
      let n := blockBytes f.frame b
      let m1 := memPut m (f.mirror + 4096 * b) (natOf (blockOf f.frame f.plane0 b)) n
      let m2 := if f.multi then memPut m1 (f.mirror + f.frame + 4096 * b) (natOf (blockOf f.frame f.plane1 b)) n else m1
      memPut m2 (f.table + entrySize f * b) (natOf (tableEntry f b)) (entrySize f)
    if f.mirror + mirrorSize f ≤ 65536 * Config.frames && f.table + tableSize f ≤ 65536 * Config.frames then
      { s with mem := { s.mem with dram := (l.filter (· < blockCount f.frame)).foldl one s.mem.dram } }
    else s

/-- The frames of a flow's mirror region and generation table, as ranges (R221, R124). -/
def flowFrames (f : Flow) : List (Nat × Nat × Nat) :=
  let frames (a n : Nat) : Nat × Nat × Nat := (a / 65536, (a % 65536 + n + 65535) / 65536, f.ctx)
  [frames f.mirror (mirrorSize f), frames f.table (tableSize f)]
/-- CREATION (R101, R221): the mirror region and the generation table are zero, and their frames pinned. Destruction leaves the bytes and pins nothing. -/
def createFlow (k : Nat) (f : Flow) : State :=
  let gone (c : Host.Cell) : Bool := (f.mirror ≤ c.1 && c.1 < f.mirror + mirrorSize f) || (f.table ≤ c.1 && c.1 < f.table + tableSize f)
  { s with flows := tabPut s.flows k f, mem := { s.mem with dram := s.mem.dram.filter fun c => !gone c, pinned := s.mem.pinned ++ flowFrames f } }
def destroyFlow (k : Nat) : State :=
  match s.flow? k with
  | none => s
  | some f => { s with flows := tabDel s.flows k, mem := { s.mem with pinned := (flowFrames f).foldl (fun l r => l.erase r) s.mem.pinned } }

end State

/-- Key of a flow's receiving end (R219); a sending end's key is its id. -/
def recvKey (src id : Nat) : Nat := 4096 * (src + 1) + id
/-- Key under which an operation keeps an acknowledgement it is owed. -/
def ackKey (block slot : Nat) : Nat := 2 ^ 70 + 16 * block + slot
/-- Is generation a at or after g, modulo 256? -/
def genReached (a g : Nat) : Bool := (a + 256 - g % 256) % 256 < 128

namespace State
variable (s : State)

/-- Blocks of this device that a destination has not acknowledged (R225). -/
def outstandingTo (d : Nat) : Nat :=
  s.flows.foldl (fun n e =>
    let f := e.2
    if !f.sender then n else
    if f.multi then n + (f.slotFlight.filter fun q => q.2 && f.dests.getD (q.1 % 16) 256 = d).length
    else if f.dests.headD 256 = d then n + (f.inflight.filter fun q => q.2).length else n) 0
def hasCredit (d : Nat) : Bool := s.outstandingTo d < (s.peer d).flowCredit

/-- The operation whose content a block takes next: the oldest that has it to send; an FSYNC's blocks come after those of older transfers (R234, R236). An FSEND of a team that is switched out waits (R235); an FSYNC stays with the engine, even once it has ended for its counter because every destination is DOWN. -/
def flowOp (id b : Nat) : Option (Nat × Op) :=
  let sends (o : Op) : Bool := (o.kind = .fsync || (o.kind = .fsend && o.st = .pending)) && o.args.headD 0 = id && o.todo ≠ []
  (s.ops.find? fun e => sends e.2 && e.2.todo.contains b && (e.2.kind = .fsync || !switchedOut e.2.gk)).filter fun e =>
    e.2.kind ≠ .fsync || !s.ops.any fun q => q.1 < e.1 && sends q.2

/-- Queue the first of a block's segments; the others follow, one by one (R225, R235). -/
def queueSegments (d id key : Nat) : List (List Nat) → State
  | [] => s.modFlow id fun f => { f with rest := tabDel f.rest key }
  | seg :: l =>
    let t := (s.sendMsg d 1 Pk.block 0 0 seg).modFlow id fun f => { f with rest := tabSet [] f.rest key l, queuedAt := tabPut f.queuedAt (key / 16) s.now }
    if l = [] then t else t.post [.flowBlockSend id (key / 16) (key % 16)]

/-- A block goes out to a slot in segments, packets of the bulk class (R225). -/
def sendBlock (d id key : Nat) (x : SendTag) (raw : Bool) (data : List Byte) : State :=
  let seg (i : Nat) : List Nat :=
    let part := (data.drop (4088 * i)).take 4088
    [segHeader id x.t data.length (4088 * i) (x.flags / 2 % 2 = 1) (x.flags % 2 = 1) raw, natOf part, part.length, x.cover]
  s.queueSegments d id key ((List.range ((data.length + 4087) / 4088)).map seg)

/-- Bytes of a transfer that lie in block b. -/
def coverOf (o : Op) (b : Nat) : Nat :=
  let off := o.args.getD 2 0
  let n := o.args.getD 3 0
  min 4096 (off + n - 4096 * b)
/-- First and last flags of a block of a transfer: 2·first + last. -/
def flagsOf (o : Op) (b : Nat) : Nat :=
  let off := o.args.getD 2 0
  let n := o.args.getD 3 0
  (if b = off / 4096 then 2 else 0) + (if b = (off + n - 1) / 4096 then 1 else 0)

/-- New bytes of a transfer's block, read after the issuing thread's prior stores (R154, R233); an FSYNC sends the mirror. -/
def flowSource (op : Nat) (o : Op) (b : Nat) (mirror : List Byte) : EngRead :=
  if o.kind = .fsync then .ok (natOf mirror) s else
  let off := o.args.getD 2 0
  let src := o.args.getD 4 0
  let a := src + (4096 * b - off)
  let n := coverOf o b
  if s.priorStores o (opSnap o) then .wait s else engRange op o src (o.args.getD 3 0) (n / 32 + 3) a n s

/-- Queue a block of a unicast flow and take its generation (R226). -/
def queueUnicast (id : Nat) (f : Flow) (b : Nat) (new : List Byte) (raw : Bool) (x : SendTag) : State :=
  let mirror := blockOf f.frame f.plane0 b
  let g := tabGet 0 f.gen0 b
  let g1 := (g + 1) % 256
  let data :=
    if raw then codedBlock b g1 rawFlags (checksum new) new
    else codedBlock b g 0 (checksum mirror) (encodeGroups f.esize (x.cover / (16 * f.esize)) 0 new mirror)
  let s1 := State.tally (s.sendBlock (f.dests.headD 0) id (16 * b) x raw data) 14 (if raw then 0 else data.length)
  s1.modFlow id fun f => { f with plane0 := setBlock f.frame f.plane0 b new, gen0 := tabSet 0 f.gen0 b g1, inflight := tabSet false f.inflight b true,
                                  owed := tabSet false f.owed b false, lastSent := tabPut f.lastSent b x }

/-- What a block was last sent for, and what its base plane was sent for: before the first transfer, a number that lies behind it. -/
def tagOf (t : Tab SendTag) (b : Nat) : SendTag := tabGet ⟨65535, 3, 0⟩ t b

/-- Queue a block of a multicast flow for one slot: the groups that the latest send covers, against the base; or, for a slot that is behind, the base raw, under the transfer that the base was sent for (R230 to R233). -/
def queueSlot (id : Nat) (f : Flow) (b slot : Nat) : State :=
  let d := f.dests.getD slot 0
  let base := blockOf f.frame f.plane0 b
  let latest := blockOf f.frame f.plane1 b
  let gb := tabGet 0 f.gen0 b
  let gl := tabGet 0 f.gen1 b
  let k := 16 * b + slot
  let x := tagOf f.lastSent b
  let behind := tabGet false f.slotBehind k
  let data :=
    if behind then codedBlock b gb rawFlags (checksum base) base
    else codedBlock b gb (multiFlags (gl + 256 - gb)) (checksum base) (encodeGroups f.esize (x.cover / (16 * f.esize)) 0 latest base)
  (State.tally (s.sendBlock d id k (if behind then tagOf f.baseSent b else x) behind data) 14 (if behind then 0 else data.length)).modFlow id fun f =>
    { f with slotFlight := tabSet false f.slotFlight k true, slotRaw := tabSet false f.slotRaw k behind,
             slotQueued := if behind then f.slotQueued else tabSet false f.slotQueued k false }

/-- The base plane of a multicast block takes in the latest (R230, R232). -/
def rebase (f : Flow) (b : Nat) : Flow :=
  { f with plane0 := setBlock f.frame f.plane0 b (blockOf f.frame f.plane1 b), gen0 := tabSet 0 f.gen0 b (tabGet 0 f.gen1 b), baseSent := tabPut f.baseSent b (tagOf f.lastSent b) }

/-- A new state of a multicast block enters the latest plane (R230); a state that would make G − B = 128 first forces the base forward (R232). -/
def newState (id : Nat) (f : Flow) (b : Nat) (new : List Byte) (x : SendTag) : State :=
  let gl := tabGet 0 f.gen1 b
  let slots := List.range f.dests.length
  let force : Bool := (gl + 1 + 256 - tabGet 0 f.gen0 b) % 256 = 128
  let late (t : Tab Bool) (i : Nat) : Tab Bool := if tabGet 0 f.ackGen (16 * b + i) ≠ gl then tabSet false t (16 * b + i) true else t
  let f1 : Flow := if force then { rebase f b with slotBehind := slots.foldl late f.slotBehind } else f
  let queued (t : Tab Bool) (i : Nat) : Tab Bool := tabSet false t (16 * b + i) true
  let f2 := { f1 with plane1 := setBlock f.frame f1.plane1 b new, gen1 := tabSet 0 f1.gen1 b ((gl + 1) % 256), lastSent := tabPut f1.lastSent b x,
                      slotQueued := slots.foldl queued f1.slotQueued }
  ({ s with flows := tabPut s.flows id f2 }).post (slots.map fun i => .flowBlockSend id b i)

/-- A multicast block's part in an FSYNC (R234): every slot is behind, and the block as it stands goes out under the FSYNC's transfer, the base raw and the current state after it (R232). No state is made. -/
def syncState (id : Nat) (f : Flow) (b : Nat) (x : SendTag) : State :=
  let slots := List.range f.dests.length
  let mark (t : Tab Bool) (i : Nat) : Tab Bool := tabSet false t (16 * b + i) true
  -- what is in flight now does not end a slot's being behind
  let stale (t : Tab Bool) (i : Nat) : Tab Bool := tabSet false t (16 * b + i) false
  let f1 := { f with slotRaw := slots.foldl stale f.slotRaw, lastSent := tabPut f.lastSent b x, baseSent := if tabGet 0 f.gen0 b = tabGet 0 f.gen1 b then tabPut f.baseSent b x else f.baseSent,
                     slotBehind := slots.foldl mark f.slotBehind }
  ({ s with flows := tabPut s.flows id f1 }).post (slots.map fun i => .flowBlockSend id b i)

/-- A flow operation ends when it has nothing left to queue and no acknowledgement is owed (R233, R234). -/
def settleFlowOp (i : Nat) : State :=
  let o := s.op i
  if o.st = .pending && (o.kind = .fsend || o.kind = .fsync) && o.todo = [] && !o.got.any fun e => 2 ^ 70 ≤ e.1 then
    (s.endOp i (if o.result = 0x80 then 0x80 else 0)).wakeHandles
  else s

/-- Acknowledgements that an operation is owed once its block is queued: one for each destination that is not DOWN. -/
def oweAcks (i : Nat) (f : Flow) (b gen : Nat) : State :=
  let slots := (List.range f.dests.length).filter fun k => !s.peerDown (f.dests.getD k 0)
  let add (t : Tab Nat) (k : Nat) : Tab Nat := tabPut t (ackKey b k) gen
  s.modOp i fun o => { o with todo := o.todo.filter (· ≠ b), got := slots.foldl add o.got }

end State

/-- A FLOW ENGINE SENDS A BLOCK (R226, R230, R232, R234). Slot 16 stands for the arrival of a transfer's block at a multicast flow. -/
def execFlowBlockSend (flow block slot : Nat) (s : State) : Out :=
  match s.flow? flow with
  | none => .next s
  | some f =>
    if !f.sender then .next s else
    let again (t : State) : Out := .next (t.post [.flowBlockSend flow block slot])
    let left := if slot < 16 then tabGet [] f.rest (16 * block + slot) else []
    -- the block before has segments left
    if left ≠ [] then .next (s.queueSegments (f.dests.getD slot 0) flow (16 * block + slot) left)
    else if f.multi && slot < 16 then
      let k := 16 * block + slot
      let d := f.dests.getD slot 0
      if !(tabGet false f.slotBehind k || tabGet false f.slotQueued k) || tabGet false f.slotFlight k || s.peerDown d then .next s
      else if !s.hasCredit d then again s
      else .next ((s.queueSlot flow f block slot).syncFlow flow [block])
    else if !f.multi && tabGet false f.inflight block then .next s
    else if !f.multi && !s.hasCredit (f.dests.headD 0) then again s
    else
      let mirror := blockOf f.frame (if f.multi then f.plane1 else f.plane0) block
      let owed := tabGet false f.owed block
      match s.flowOp flow block with
      | none => -- a block that an FSYNC has still to send waits for its turn there (R234)
                if s.ops.any fun e => e.2.kind = .fsync && e.2.args.headD 0 = flow && e.2.todo.contains block then again s
                else if owed && !f.multi then .next ((s.queueUnicast flow f block mirror true (State.tagOf f.lastSent block)).syncFlow flow [block])
                else .next s
      | some (i, o) =>
        match s.flowSource i o block mirror with
        | .wait t => again t
        | .bad b => .next ((s.failOp i b).post [.flowBlockSend flow block slot])
        | .ok x t =>
          let sync := o.kind = .fsync
          let n := if sync then mirror.length else State.coverOf o block
          let new := bytesOf x n ++ mirror.drop n
          let tag : SendTag := ⟨o.args.getD 1 0, State.flagsOf o block, n⟩
          let next := (tabGet 0 (if f.multi then f.gen1 else f.gen0) block + 1) % 256
          let t1 :=
            if !f.multi then (t.queueUnicast flow f block new (owed || sync) tag).oweAcks i f block next
            else if sync then (t.syncState flow f block tag).oweAcks i f block (tabGet 0 f.gen1 block)
            else (t.newState flow f block new tag).oweAcks i f block next
          .next ((t1.settleFlowOp i).syncFlow flow [block])

namespace State
variable (s : State)

/-- Acknowledged blocks of the operations of a flow (R233, R234): this generation or a later one; an FSYNC's only when `raw` says that nothing is still to be sent raw. -/
def ackOps (flow block slot gen : Nat) (raw : Bool) : State :=
  let ids := (s.ops.filter fun e => (e.2.kind = .fsend || (e.2.kind = .fsync && raw)) && e.2.st = .pending && e.2.args.headD 0 = flow).map (·.1)
  let one (t : State) (i : Nat) : State :=
    (t.modOp i fun o => { o with got := o.got.filter fun e => !(e.1 = ackKey block slot && genReached gen e.2) }).settleFlowOp i
  ids.foldl one s

end State

/-- AN ACKNOWLEDGEMENT OF A UNICAST BLOCK (R226): in flight clears when it names the block's generation. -/
def execFlowAck (flow block slot gen : Nat) (s : State) : Out :=
  match s.flow? flow with
  | none => .next s
  | some f =>
    if !f.sender || f.multi || tabGet 0 f.gen0 block ≠ gen then .next s else
    let s1 := s.modFlow flow fun f => { f with inflight := tabSet false f.inflight block false }
    .next (((s1.ackOps flow block slot gen true).post [.flowBlockSend flow block 0]).syncFlow flow [block])

/-- AN ACKNOWLEDGEMENT OF A MULTICAST BLOCK (R230, R232): the base advances when every destination has the latest generation. -/
def execMulticastAck (flow block slot gen : Nat) (s : State) : Out :=
  match s.flow? flow with
  | none => .next s
  | some f =>
    if !f.sender || !f.multi then .next s else
    let k := 16 * block + slot
    let g := tabGet 0 f.gen1 block
    let wasBehind := tabGet false f.slotBehind k && tabGet false f.slotRaw k && gen = tabGet 0 f.gen0 block
    let ack := tabSet 0 f.ackGen k gen
    let all := (List.range f.dests.length).all fun i => tabGet 0 ack (16 * block + i) = g
    let f1 : Flow := { f with ackGen := ack, slotFlight := tabSet false f.slotFlight k false,
                              slotBehind := if wasBehind then tabSet false f.slotBehind k false else f.slotBehind,
                              slotQueued := if wasBehind then tabSet false f.slotQueued k (decide (g ≠ gen)) else f.slotQueued }
    let f2 : Flow := if all then State.rebase f1 block else f1
    let s1 := State.ackOps { s with flows := tabPut s.flows flow f2 } flow block slot gen (!tabGet false f1.slotBehind k)
    .next ((s1.post [.flowBlockSend flow block slot]).syncFlow flow [block])

/-- A RESYNC REQUEST (R228, R232): the block is sent raw as soon as it is not in flight; a multicast slot is behind. -/
def execResyncRequest (flow block slot : Nat) (s : State) : Out :=
  match s.flow? flow with
  | none => .next s
  | some f =>
    if !f.sender then .next s
    else if f.multi then
      let k := 16 * block + slot
      .next (((s.modFlow flow fun f => { f with slotBehind := tabSet false f.slotBehind k true, slotFlight := tabSet false f.slotFlight k false }).post [.flowBlockSend flow block slot]).syncFlow flow [block])
    else .next (((s.modFlow flow fun f => { f with owed := tabSet false f.owed block true }).post [.flowBlockSend flow block 0]).syncFlow flow [block])

/-- NO ACKNOWLEDGEMENT WITHIN 16·T_s (R226): the block goes raw from the mirror with the next generation. -/
def execFlowTimeout (flow block : Nat) (s : State) : Out :=
  match s.flow? flow with
  | none => .next s
  | some f =>
    if !f.sender || s.now ≤ tabGet 0 f.queuedAt block + 16 * s.fab.slotNs then .next s
    else if f.multi then
      let late := (List.range f.dests.length).filter fun i => tabGet false f.slotFlight (16 * block + i)
      let mark (t : Tab Bool) (i : Nat) : Tab Bool := tabSet false t (16 * block + i) true
      let land (t : Tab Bool) (i : Nat) : Tab Bool := tabSet false t (16 * block + i) false
      .next (((s.modFlow flow fun f => { f with slotBehind := late.foldl mark f.slotBehind, slotFlight := late.foldl land f.slotFlight,
                                                queuedAt := tabPut f.queuedAt block s.now }).post (late.map fun i => .flowBlockSend flow block i)).syncFlow flow [block])
    else if tabGet false f.inflight block then
      let m := blockOf f.frame f.plane0 block
      .next ((s.queueUnicast flow f block m true (State.tagOf f.lastSent block)).syncFlow flow [block])
    else .next s

/-- REASSEMBLY BUFFERS are discarded when 16·T_s pass without a new segment (R225). -/
def execReassemblyTimeout (s : State) : Out :=
  .next { s with reasm := s.reasm.filter fun e => s.now ≤ e.2.stamp + 16 * s.fab.slotNs }

namespace State
variable (s : State)

/-- A SEGMENT ARRIVES (R225): it joins the buffer that matches it in flow, block, transfer and raw bit, or starts one, discarding an older buffer of the block that differs. The first segment names the block in its bytes; a later one belongs with it by its transport sequence number, as a sender queues the segments of a block one after another. A block whose every byte has arrived is handed on, with its number in the order of arrival. -/
def segmentIn (p : Pkt) : State :=
  let id := segFlow p
  if (s.flow? (recvKey p.src id)).isNone then s else
  let start := p.seq - segOffset p / 4088
  let mine (r : Reasm) : Bool := r.src = p.src && r.flow = id && r.transfer = segTransfer p && r.raw = segRaw p
  -- the buffer of the block's other segments of this sending, and the buffer of an earlier sending of the block
  let here := s.reasm.find? fun e => mine e.2 && e.2.starts.contains start
  let block := if segOffset p = 0 then some (p.arg 1 % 65536) else here.bind (·.2.block)
  let there := s.reasm.find? fun e => mine e.2 && block.isSome && e.2.block = block && !e.2.starts.contains start
  let fresh : Reasm := { src := p.src, flow := id, block := none, starts := [start], transfer := segTransfer p, raw := segRaw p, len := segLen p, bytes := [], first := segFirst p, last := segLast p, stamp := s.now }
  let k := match there, here with | some e, _ => e.1 | none, some e => e.1 | none, none => s.nextReasm
  let r : Reasm := match there, here with
    | some e, some h => { e.2 with starts := e.2.starts ++ h.2.starts, bytes := h.2.bytes.foldl (fun t x => tabPut t x.1 x.2) e.2.bytes }
    | some e, none => { e.2 with starts := e.2.starts ++ [start] }
    | none, some h => h.2
    | none, none => fresh
  let put (t : Tab Nat) (i : Nat) : Tab Nat := tabPut t (segOffset p + i) (p.arg 1 / 256 ^ i % 256)
  let r1 : Reasm := { r with block, bytes := (List.range (p.arg 2)).foldl put r.bytes, stamp := s.now }
  let others := s.reasm.filter fun e => !(e.1 = k || here.any (·.1 = e.1))
  -- of two buffers of one block that differ the one that started later stays
  let twin (e : Nat × Reasm) : Bool := block.isSome && e.2.src = p.src && e.2.flow = id && e.2.block = block
  let keep := others.filter fun e => !(twin e && e.1 < k)
  let next := max s.nextReasm (k + 1)
  if others.any (fun e => twin e && k < e.1) then { s with reasm := others }
  else if decide (r1.bytes.length = r1.len) then
    let data := natOf (r1.bytes.map fun e => BitVec.ofNat 8 e.2)
    ({ s with reasm := keep, nextReasm := next + 1 }).post
      [.flowBlockReceive { p with body := [segHeader id r1.transfer r1.len 0 r1.first r1.last r1.raw, data, r1.len, segCover p, block.getD 0, next, 0, 0] }]
  else { s with reasm := tabPut keep k r1, nextReasm := next }

/-- Did an earlier complete block of the same block arrive that has not been applied (R236)? -/
def behindBlock (p : Pkt) : Bool :=
  s.agenda.any fun e => match e with
    | .flowBlockReceive q => q.op = Pk.block && q.src = p.src && segFlow q = segFlow p && segBlock q = segBlock p && q.arg 5 < p.arg 5
    | _ => false

/-- Buffers that a source still has free here: the credit that acknowledgements carry (R225). -/
def bufferCredit (src : Nat) : Nat := 64 - (s.reasm.filter fun e => e.2.src = src).length

/-- Write bytes of the delivery buffer, line by line, from byte n on: how far the writes have come, their greatest performed time, and whether all are done (R227). -/
def deliver (f : Flow) (base : Nat) (l : List Byte) : Nat → Nat → Nat → State → Nat × Nat × Bool × State
  | 0, n, p, u => (n, p, false, u)
  | fuel + 1, n, p, u =>
    if l.length ≤ n then (n, p, true, u) else
    let a := base + n
    let k := min (l.length - n) (128 - a % 128)
    match u.plainWrite portCore f.asid f.ctx a k (natOf ((l.drop n).take k)) with
    | .ok q v => deliver f base l fuel (n + k) (max p q) v
    | .bad _ => (n, p, false, u.takeFail (plainWaiter portCore))
    | .wait v => (n, p, false, v)

/-- How far a transfer number lies ahead of the count of completed transfers; from 32,768 on it lies behind. -/
def aheadOf (f : Flow) (t : Nat) : Nat := (t + 65536 - f.done % 65536) % 65536

/-- Account a block to its transfer (R229). -/
def noteBlock (f : Flow) (t b : Nat) (first last : Bool) (cover p : Nat) : Flow :=
  if 32768 ≤ aheadOf f t then f else
  let old := (f.running.find? fun e => e.t = t).getD ⟨t, 2 ^ 40, 2 ^ 40, [], 0, 0⟩
  let e : Xfer := { old with first := if first then b else old.first, last := if last then b else old.last, seen := if old.seen.contains b then old.seen else b :: old.seen,
                             cover := if last then cover else old.cover, perf := max old.perf p }
  { f with running := e :: f.running.filter fun x => x.t ≠ t }

/-- The latest generation that a receiver holds of a block. -/
def latestGen (f : Flow) (b : Nat) : Nat :=
  let g0 := tabGet 0 f.gen0 b
  let g1 := tabGet 0 f.gen1 b
  if f.multi && genReached g1 g0 then g1 else g0

/-- A multicast receiver takes note of the states that a block has skipped, by its generations (R230): `f` before the block, `f1` after it. -/
def noteSkips (f f1 : Flow) (t b : Nat) : Flow :=
  if !f.multi || 32768 ≤ aheadOf f t then f1 else
  let n := (latestGen f1 b + 255 - latestGen f b) % 256
  let hi := f.done + aheadOf f t
  let lo := max f.done (tabGet 0 f.latestT b)
  { f1 with latestT := tabPut f1.latestT b (hi + 1), spans := if n = 0 || 128 ≤ n || hi ≤ lo then f1.spans else (lo, hi, n) :: f1.spans }

/-- Has every block of a transfer been applied (R229)? -/
def Xfer.whole (e : Xfer) : Bool := e.first ≠ 2 ^ 40 && e.last ≠ 2 ^ 40 && (List.range (e.last - e.first + 1)).all fun i => e.seen.contains (e.first + i)

/-- Has some block skipped a state of transfer number u (R230)? Of the transfers between two states of a block that came to this slot, no more may be missing than states were skipped. -/
def skipSeen (f : Flow) (u : Nat) : Bool :=
  f.spans.any fun x => x.1 ≤ u && u < x.2.1 &&
    ((List.range (x.2.1 - x.1)).filter fun i => f.done ≤ x.1 + i && !f.running.any fun e => e.t = (x.1 + i) % 65536).length ≤ x.2.2

/-- Can a multicast receiver's record jump past transfer number u (R230)? DEDUCED (log 97): it can when none of it is on hand, a block has skipped a state of it, and every block of it that is missing, as far as its first and last blocks are known, has come in a later state. -/
def skippable (f : Flow) (coming : Nat → Bool) (u : Nat) : Bool :=
  let t := u % 65536
  !coming t && match f.running.find? fun e => e.t = t with
    | none => skipSeen f u
    | some e =>
      let lo := if e.first = 2 ^ 40 then e.seen.foldl min (2 ^ 40) else e.first
      let hi := if e.last = 2 ^ 40 then e.seen.foldl max 0 else e.last
      ((e.first ≠ 2 ^ 40 && e.last ≠ 2 ^ 40) || skipSeen f u) &&
        (List.range (hi - lo + 1)).all fun i => e.seen.contains (lo + i) || f.running.any fun x => aheadOf f t < aheadOf f x.t && x.seen.contains (lo + i)

/-- Transfers that have completed in order (R229): the count rises while the next transfer is complete, or, for multicast, while the next complete one follows none but skipped ones. `coming` says which transfers have blocks on hand that are not applied. -/
def completeTransfers (coming : Nat → Bool) (f : Flow) : Nat → Flow
  | 0 => f
  | fuel + 1 =>
    let ready (e : Xfer) : Bool :=
      Xfer.whole e && (aheadOf f e.t = 0 || (f.multi && aheadOf f e.t < 32768 && (List.range (aheadOf f e.t)).all fun i => skippable f coming (f.done + i)))
    match f.running.find? ready with
    | none => f
    | some e =>
      let c := f.done + aheadOf f e.t + 1
      let past (x : Xfer) : Bool := aheadOf f x.t ≤ aheadOf f e.t
      let perf := (f.running.filter past).foldl (fun m x => max m x.perf) f.perf
      completeTransfers coming { f with done := c, perf, running := f.running.filter (fun x => !past x), spans := f.spans.filter (fun x => c < x.2.1),
                                        records := f.records ++ [(c, 4096 * (e.last - e.first) + e.cover, perf + 20)] } fuel

/-- Answer a block: acknowledgement or resync request, with the receiver's generation and credit (R227). -/
def answerBlock (p : Pkt) (op : Nat) (gen : Nat) : State :=
  s.sendMsg p.src 2 op 0 0 [segFlow p, segBlock p, gen, s.bufferCredit p.src]

end State

/-- Packets that the receiver's own engine keeps for later: an acknowledgement after its writes (R227), and an arrival record (R229). -/
def lateAck : Nat := 60
def lateRecord : Nat := 61

namespace State
variable (s : State)

/-- A block has been applied, its writes performed by q: planes, generations, transfers, and then the acknowledgement and the record. -/
def applied (k : Nat) (p : Pkt) (q gen : Nat) (f : Flow) : State :=
  let coming (t : Nat) : Bool := s.reasm.any (fun e => e.2.src = p.src && e.2.flow = segFlow p && e.2.transfer = t) ||
    s.agenda.any fun e => match e with | .flowBlockReceive x => x.op = Pk.block && x.src = p.src && segFlow x = segFlow p && segTransfer x = t | _ => false
  let f1 := completeTransfers coming (noteBlock f (segTransfer p) (segBlock p) (segFirst p) (segLast p) (segCover p) q) (f.running.length + 2)
  let s1 := State.syncFlow { s with flows := tabPut s.flows k f1 } k [segBlock p]
  let ackP := { p with op := lateAck, body := [p.arg 0, gen, q, 0, segBlock p] }
  let recP := { p with op := lateRecord, body := [p.arg 0] }
  s1.post (.flowBlockReceive ackP :: if f1.records = [] then [] else [.flowBlockReceive recP])

/-- The oldest arrival record that is due is written, as a release (R229). -/
def writeRecord (k : Nat) (p : Pkt) (f : Flow) : State :=
  match f.records with
  | [] => s
  | r :: rest =>
    if s.now < r.2.2 then s.post [.flowBlockReceive p] else
    let x := r.1 % 2 ^ 64 + 2 ^ 64 * (r.2.1 % 2 ^ 32) + 2 ^ 96 * (f.raws % 65536)
    let gone (t : State) : State := t.modFlow k fun f => { f with records := rest }
    match s.plainWrite portCore f.asid f.ctx f.record 16 x with
    | .wait t => t.post [.flowBlockReceive p]
    | .bad _ => gone (s.takeFail (plainWaiter portCore))
    | .ok _ t => if rest = [] then gone t else (gone t).post [.flowBlockReceive p]

/-- What a complete block means at its receiver (R227, R231). -/
inductive Applies where
  /-- the bytes to deliver, the generation to acknowledge, and the flow afterwards -/
  | write (bytes : List Byte) (gen : Nat) (f : Flow)
  | again (gen : Nat)
  | resync (gen : Nat)

/-- R227's table, and R231 for multicast: a coded block is decoded from the plane that holds its base, plane 0 first, into the other plane. -/
def judge (f : Flow) (b : Nat) (data : List Byte) : Applies :=
  let base := natOf ((data.drop 2).take 1)
  let flags := natOf ((data.drop 3).take 1)
  let sum := natOf ((data.drop 4).take 2)
  let body := data.drop 6
  let g0 := tabGet 0 f.gen0 b
  let g1 := tabGet 0 f.gen1 b
  let latest := latestGen f b
  if flags = rawFlags then
    if body.length ≠ blockBytes f.frame b then .resync latest else
    .write body base { f with plane0 := setBlock f.frame f.plane0 b body, plane1 := if f.multi then setBlock f.frame f.plane1 b body else f.plane1,
                              gen0 := tabSet 0 f.gen0 b base, gen1 := if f.multi then tabSet 0 f.gen1 b base else f.gen1, raws := f.raws + 1 }
  else
    let gen := (base + if f.multi then flags / 2 else 1) % 256
    if gen = g0 || (f.multi && gen = g1) then .again gen else
    let plane : Option Bool := if g0 = base then some false else if f.multi && g1 = base then some true else none
    match plane with
    | none => .resync latest
    | some second =>
      let mirror := blockOf f.frame (if second then f.plane1 else f.plane0) b
      if checksum mirror ≠ sum || flags % 2 = 1 || (if f.multi then flags = 0 else flags ≠ 0) then .resync latest else
      match decodeGroups f.esize (body.length + 1) body mirror with
      | none => .resync latest
      | some new =>
        .write new gen (if !f.multi || second then { f with plane0 := setBlock f.frame f.plane0 b new, gen0 := tabSet 0 f.gen0 b gen }
                        else { f with plane1 := setBlock f.frame f.plane1 b new, gen1 := tabSet 0 f.gen1 b gen })

end State

/-- A COMPLETE BLOCK AT ITS RECEIVER (R227, R229, R231, R236): blocks of one block are applied in the order in which they arrived, and acknowledged after all of their writes. -/
def execFlowBlockReceive (p : Pkt) (s : State) : Out :=
  let k := recvKey p.src (segFlow p)
  match s.flow? k with
  | none => .next s
  | some f =>
    if p.op = lateAck then .next (if s.now < p.arg 2 then s.post [.flowBlockReceive p] else s.answerBlock p Pk.blockAck (p.arg 1))
    else if p.op = lateRecord then .next (s.writeRecord k p f)
    else if s.behindBlock p then .next (s.post [.flowBlockReceive p])
    else
      match State.judge f (segBlock p) (bytesOf (p.arg 1) (p.arg 2)) with
      | .again gen => .next (s.answerBlock p Pk.blockAck gen)
      | .resync gen => .next (s.answerBlock p Pk.resync gen)
      | .write bytes gen f1 =>
        let r := State.deliver f (f.deliver + 4096 * segBlock p) bytes (bytes.length / 64 + 3) (p.arg 6) (p.arg 7) s
        if r.2.2.1 then .next (r.2.2.2.applied k p r.2.1 gen (State.noteSkips f f1 (segTransfer p) (segBlock p)))
        else .next (r.2.2.2.post [.flowBlockReceive { p with body := p.body.take 6 ++ [r.1, r.2.1] }])

namespace State
variable (s : State)

/-- AN FSEND IS WITHDRAWN in the middle of a block of a unicast flow (R235): the block keeps its generation, with resync owed, and is sent again. -/
def recallBlock (i : Nat) : State :=
  let o := s.op i
  let id := o.args.headD 0
  match s.flow? id with
  | none => s
  | some f =>
    let partly := f.rest.filter fun e => e.2 ≠ [] && (tagOf f.lastSent (e.1 / 16)).t = o.args.getD 1 0
    if f.multi || o.result = 0x80 then s else
    let one (t : State) (e : Nat × List (List Nat)) : State :=
      let b := e.1 / 16
      let t1 := t.modFlow id fun f => { f with rest := tabDel f.rest e.1, owed := tabSet false f.owed b true, inflight := tabSet false f.inflight b false }
      (t1.modOp i fun o => { o with todo := b :: o.todo, got := o.got.filter fun q => q.1 ≠ ackKey b 0 }).syncFlow id [b]
    partly.foldl one s

end State

/-- FSEND (R233, R325): one operation of the lowest true-guard lane; every true-guard lane's handle follows it. -/
def execFsend (x : FsendArgs) (s : State) : Out :=
  s.enter [(x.a.toNat, 2)] [(x.b.toNat, 1), (x.b.toNat + 1, 1)] fun s =>
    let t := s.trueLanes x.guard
    if t = 0 then .next ((s.advance s.cur.mask).finish true) else
    if s.gr.replay then s.raise Cause.prot 2 (maskOf fun i => i = lowLane t) else
    s.readHandle t x.h.toNat fun s =>
    let l := lowLane t
    let m := maskOf fun i => i = l
    let a := (s.g.rdPair x.a.toNat l).toNat
    let n := (s.g.rdS x.b.toNat).toNat
    let off := (s.g.rdS (x.b.toNat + 1)).toNat
    let no (c d : Nat) : Out := s.raise c d m 0 (BitVec.ofNat 64 a)
    match (s.flow? x.flow.toNat).filter fun f => f.sender && f.ctx = s.tm.ctx with
    | none => no Cause.nomap 0
    | some f =>
      if !canonical a then no Cause.nomap 0
      else if a % f.esize ≠ 0 || off % 4096 ≠ 0 || n % (16 * f.esize) ≠ 0 then no Cause.misalign 0
      else if f.frame < off + n then no Cause.prot 1
      else if !oneAperture a n then no Cause.apspan 0
      else if touchesHole a n then no Cause.nomap 0
      else if touchesPriv a n || (n ≠ 0 && !s.rangeHeld s.cur.gk l a n) then no Cause.prot 1
      else if s.ctrFull 3 then .next s.stall
      else
        let o : Op := { Op.none with kind := .fsend, gk := s.cur.gk, lane := l, st := if n = 0 then .complete else .pending, pc := s.cur.pc,
                                     asid := s.tm.asid, ctx := s.tm.ctx, args := [x.flow.toNat, f.nextTransfer, off, n, a, s.nextLog],
                                     todo := if n = 0 then [] else (List.range ((off + n - 1) / 4096 - off / 4096 + 1)).map (· + off / 4096) }
        let r := s.startOps [(o, lanesOf t)] (some x.h.toNat)
        let s1 := (r.2.modFlow x.flow.toNat fun f => { f with nextTransfer := f.nextTransfer + 1 }).post
          (o.todo.map fun b => .flowBlockSend x.flow.toNat b (if f.multi then 16 else 0))
        let down := f.dests.all fun d => s1.peerDown d
        let s2 := if down && n ≠ 0 then r.1.foldl (fun u i => u.failOp i ⟨Cause.remote, 0, f.dests.headD 0, 0⟩) s1 else s1
        .next ((s2.advance s.cur.mask).finish true)

/-- An FSYNC ends for its counter while its blocks have still to be sent: every destination is DOWN (R234). -/
def State.endSync (s : State) (i : Nat) : State := s.modOp i fun o => if o.st = .pending then { o with st := .complete, got := [] } else o

/-- FSYNC (R234, R324, R325): every block raw, under the next transfer number. -/
def execFsync (x : FsyncArgs) (s : State) : Out :=
  s.enter [] [] fun s =>
    let t := s.trueLanes x.guard
    if t = 0 then .next ((s.advance s.cur.mask).finish true) else
    if s.gr.replay then s.raise Cause.prot 2 (maskOf fun i => i = lowLane t) else
    let id := x.flow.toNat
    match (s.flow? id).filter fun f => f.sender && f.ctx = s.tm.ctx with
    | none => s.raise Cause.nomap 0 (maskOf fun i => i = lowLane t)
    | some f =>
      if s.ctrFull 3 then .next s.stall else
      let blocks := List.range (blockCount f.frame)
      let o : Op := { Op.none with kind := .fsync, gk := s.cur.gk, lane := lowLane t, st := .pending, pc := s.cur.pc, asid := s.tm.asid, ctx := s.tm.ctx,
                                   args := [id, f.nextTransfer, 0, f.frame, 0, s.nextLog], todo := blocks }
      let r := s.startOps [(o, [])] none
      let mark (q : Tab Bool) (b : Nat) : Tab Bool := tabSet false q b true
      let slots := blocks.flatMap fun b => (List.range f.dests.length).map fun i => 16 * b + i
      let s1 := (r.2.modFlow id fun f => { f with nextTransfer := f.nextTransfer + 1, owed := if f.multi then f.owed else blocks.foldl mark f.owed,
                                                  slotBehind := if f.multi then slots.foldl mark f.slotBehind else f.slotBehind }).post
        (blocks.map fun b => .flowBlockSend id b (if f.multi then 16 else 0))
      -- no destination that is not DOWN has anything to acknowledge; the blocks are sent all the same
      let s2 := (if f.dests.all s1.peerDown then r.1.foldl (fun u i => u.endSync i) s1 else s1).syncFlow id blocks
      .next ((s2.advance s.cur.mask).finish true)

/-- FFENCE (R155, R321, R322): a flag store that waits for the lane's stores to one device. -/
def execFfence (x : FfenceArgs) (s : State) : Out :=
  s.enter [(x.a.toNat, 2), (x.c.toNat, 1)] [] fun s =>
    let t := s.trueLanes x.guard
    if t = 0 then .next ((s.advance s.cur.mask).finish true) else
    if s.gr.replay then s.raise Cause.prot 2 t else
    let a (i : Nat) : Nat := (s.g.rdPair x.a.toNat i).toNat
    let meet (p : Nat → Bool) : LaneMask := maskOf fun i => t.getLsbD i && p i
    let c1 := meet fun i => !canonical (a i)
    let c2 := meet fun i => a i % 4 ≠ 0
    let c3 := meet fun i => apertureOf (a i) ≠ .glob
    let no (c d : Nat) (m : LaneMask) : Out := s.raise c d m 0 (BitVec.ofNat 64 (a (lowLane m)))
    if c1 ≠ 0 then no Cause.nomap 0 c1
    else if c2 ≠ 0 then no Cause.misalign 0 c2
    else if c3 ≠ 0 then no Cause.prot 2 c3
    else if s.ctrFull 3 then .next s.stall
    else
      let o (i : Nat) : Op := { Op.none with kind := .ffence, gk := s.cur.gk, lane := i, st := .pending, pc := s.cur.pc, asid := s.tm.asid, ctx := s.tm.ctx,
                                             perf := tabGet 0 s.g.farP (1024 * i + x.dev.toNat),
                                             args := [x.dev.toNat, a i, (s.g.rdV x.c.toNat i).toNat, s.nextLog] }
      let r := s.startOps ((lanesOf t).map fun i => (o i, [])) none
      let d := x.dev.toNat
      -- a device that is DOWN, or not in the pod, fails the entries at issue (R204, R323)
      let s1 := if s.fab.n ≤ d || s.peerDown d then r.1.foldl (fun u i => u.failOp i ⟨Cause.remote, 0, d, 0⟩) r.2 else r.2.post (r.1.map fun i => .ffenceFlagStore i)
      .next ((s1.advance s.cur.mask).finish true)

namespace State
variable (s : State)

/-- Is a prior store or atomic of the lane still to return its P that the device may perform (R322)? DEDUCED (log 105): which device performs a store to a page of another, by relays of stubs too, is known only from its answer, so each such answer is waited for; the P that counts is only the device's own. A store that a trap has taken has never returned its P (R241). -/
def storesTo (o : Op) (d : Nat) : Bool :=
  o.todo ≠ [] || s.logs.any fun q => q.1 < opSnap o && q.2.gk = o.gk && (q.2.kind = .store || q.2.kind = .release || q.2.kind = .lineStore || q.2.kind = .atomic) &&
    (openParts q.2).any fun k => (partLanes q.2 k).getLsbD o.lane && (s.isAway o.gk (partAddr q.2 k) || d = s.devid)

/-- Does anything older of its lane hold an FFENCE's flag store back: an entry of the operand log, an older flag or an older copy's reads (R141, R154)? -/
def flagHeld (op : Nat) : Bool :=
  let o := s.op op
  State.blocked { s with ops := s.ops.filter fun q => q.1 < op } (opSnap o) (flagLog o) (64 * o.lane)

end State

/-- THE FLAG STORE OF AN FFENCE (R322, R323): after the lane's stores to the device, their greatest P and 20 ns; and, as an access of the lane, after the older ones to its bytes and an acquire's end (R141, R146). -/
def execFfenceFlagStore (op : Nat) (s : State) : Out :=
  let o := s.op op
  if o.st ≠ .pending || o.kind ≠ .ffence then .next s else
  let d := o.args.getD 0 0
  let again (t : State) : Out := .next (t.post [.ffenceFlagStore op])
  if s.fab.n ≤ d || s.peerDown d then .next (s.failOp op ⟨Cause.remote, 0, d, 0⟩)
  else if s.storesTo o d || s.flagHeld op then again s
  else
    let c := coreOf o.gk
    if (o.perf ≠ 0 && !s.reached c (o.perf + 20)) || s.remoteBusy (opWaiter op) (2 ^ 64) then again s else
    match s.engWrite op o (o.args.getD 1 0) 4 (o.args.getD 2 0) (2 ^ 64) with
    | .ok q t => .next ((t.modOp op fun o => { o with perf := q }).endOp op 0)
    | .bad b => .next (s.failOp op b)
    | .wait t => if t.remoteBusy (opWaiter op) (2 ^ 64) then .next t else again t

end Sys2Proof.Machine
end

