-- ==== Sys2Proof/Machine/Integer.lean ====
section
/-! DEFINITION. Class 0x1: integer arithmetic, compare and address (R332 to R334, R350). -/

namespace Sys2Proof.Machine

/-- A two- or three-source integer instruction with the write-back of R333. -/
def intOp (p : VSpec) (x : VArgs) (z : Int → Int → Int → Int) (s : State) : Out :=
  s.vec3 p x (.ofTy x.ty) fun t i => let a := intArgs t x i; intOut x.ty x.sat (z a.1 a.2.1 a.2.2)
def intOpI (p : VSpec) (x : VImm) (z : Int → Int → Int) (s : State) : Out :=
  s.vecImm p x (.ofTy x.ty) fun t i => let a := intArgsI t x i; intOut x.ty x.sat (z a.1 a.2)

def execIadd (x : VArgs) (s : State) : Out := intOp .intArith x (fun a b _ => a + b) s
def execIaddI (x : VImm) (s : State) : Out := intOpI .intArith x (fun a b => a + b) s
def execIsub (x : VArgs) (s : State) : Out := intOp .intArith x (fun a b _ => a - b) s
def execIsubI (x : VImm) (s : State) : Out := intOpI .intArith x (fun a b => a - b) s
def execImul (x : VArgs) (s : State) : Out := intOp .intArith x (fun a b _ => a * b) s
def execImulI (x : VImm) (s : State) : Out := intOpI .intArith x (fun a b => a * b) s
/-- floor(a·b / 2^n) (R332). -/
def execImulh (x : VArgs) (s : State) : Out := intOp .intNoSat x (fun a b _ => a * b / (2 ^ x.ty.bits : Nat)) s
def execImad (x : VArgs) (s : State) : Out := intOp .intMad x (fun a b c => a * b + c) s
def execImin (x : VArgs) (s : State) : Out := intOp .intNoSat x (fun a b _ => min a b) s
def execIminI (x : VImm) (s : State) : Out := intOpI .intNoSat x (fun a b => min a b) s
def execImax (x : VArgs) (s : State) : Out := intOp .intNoSat x (fun a b _ => max a b) s
def execImaxI (x : VImm) (s : State) : Out := intOpI .intNoSat x (fun a b => max a b) s
def execIabs (x : VArgs) (s : State) : Out := intOp .intUnary x (fun a _ _ => (a.natAbs : Int)) s
def execIneg (x : VArgs) (s : State) : Out := intOp .intUnary x (fun a _ _ => -a) s

/-- ISETP writes the outcome of the compare code to a predicate (R334). -/
def execIsetp (x : VArgs) (s : State) : Out :=
  s.vec3 .intSetp x .pred fun t i => let a := intArgs t x i; boolOut (cmpInt x.cmp a.1 a.2.1)
def execIsetpI (x : VImm) (s : State) : Out :=
  s.vecImm .intSetp x .pred fun t i => let a := intArgsI t x i; boolOut (cmpInt x.cmp a.1 a.2)

/-- LEA: (A + b·2^sh) mod 2^64 (R350). -/
def execLea (x : VArgs) (s : State) : Out :=
  s.vec3 .leaR x .pair fun t i =>
    let b := (t.rdSrc false x.b i).extractLsb' 0 32
    let b64 : DWord := if x.ty = .s32 then b.signExtend 64 else b.setWidth 64
    (t.rdSrc true x.a i + b64 * BitVec.ofNat 64 (2 ^ (x.op8.toNat % 8)), 0)
def execLeaI (x : VImm) (s : State) : Out :=
  s.vecImm .leaIm x .pair fun t i => (t.rdSrc true x.a i + x.imm.signExtend 64 * BitVec.ofNat 64 (2 ^ (x.op8.toNat % 8)), 0)

end Sys2Proof.Machine
end

