-- ==== Sys2Proof/Machine/Crypto.lean ====
section
/-! DEFINITION. The ciphers of the fabric ports, of the boot ROM and of attestation (R13, R216, R269, R271): SHAKE256 and SHA3-512, AES-256-GCM, X448 and Ed448. The spec names them and leaves their content to their standards: PRESUMED (log 98) from FIPS 202, FIPS 197 with SP 800-38D, RFC 7748 and RFC 8032. -/

namespace Sys2Proof.Machine

namespace Crypto

/-- A list of bytes as a little-endian and as a big-endian number, and back. -/
def ofLE (l : List Nat) : Nat := l.foldr (fun b n => b + 256 * n) 0
def toLE (x : Nat) : Nat → List Nat
  | 0 => []
  | n + 1 => x % 256 :: toLE (x / 256) n
def ofBE (l : List Nat) : Nat := l.foldl (fun n b => 256 * n + b) 0
def toBE (x n : Nat) : List Nat := (toLE x n).reverse

/-- Pieces of n bytes; the last may be shorter. -/
def chunks (n : Nat) : Nat → List Nat → List (List Nat)
  | 0, _ => []
  | fuel + 1, l => if l = [] then [] else l.take n :: chunks n fuel (l.drop n)

-- SHAKE256 and SHA3-512 (FIPS 202)

def rot64 (x n : Nat) : Nat := x * 2 ^ n % 2 ^ 64 ||| x / 2 ^ (64 - n)
/-- Rotations of the lanes x + 5y. -/
def rho : List Nat := [0, 1, 62, 28, 27, 36, 44, 6, 55, 20, 3, 10, 43, 25, 39, 41, 45, 15, 21, 8, 18, 2, 61, 56, 14]
def roundConst : List Nat :=
  [0x0000000000000001, 0x0000000000008082, 0x800000000000808A, 0x8000000080008000, 0x000000000000808B, 0x0000000080000001, 0x8000000080008081, 0x8000000000008009] ++
  [0x000000000000008A, 0x0000000000000088, 0x0000000080008009, 0x000000008000000A, 0x000000008000808B, 0x800000000000008B, 0x8000000000008089, 0x8000000000008003] ++
  [0x8000000000008002, 0x8000000000000080, 0x000000000000800A, 0x800000008000000A, 0x8000000080008081, 0x8000000000008080, 0x0000000080000001, 0x8000000080008008]

/-- One round of Keccak-f[1600] over 25 lanes. -/
def keccakRound (a : List Nat) (rc : Nat) : List Nat :=
  let at_ (l : List Nat) (x y : Nat) : Nat := l.getD (x % 5 + 5 * (y % 5)) 0
  let c := (List.range 5).map fun x => (List.range 5).foldl (fun n y => n ^^^ at_ a x y) 0
  let d := (List.range 5).map fun x => c.getD ((x + 4) % 5) 0 ^^^ rot64 (c.getD ((x + 1) % 5) 0) 1
  let t := (List.range 25).map fun i => rot64 (a.getD i 0 ^^^ d.getD (i % 5) 0) (rho.getD i 0)
  -- lane (x, y) moves to (y, 2x + 3y)
  let b := (List.range 25).map fun i => at_ t (i % 5 + 3 * (i / 5)) (i % 5)
  (List.range 25).map fun i =>
    let x := i % 5
    let y := i / 5
    (at_ b x y ^^^ ((2 ^ 64 - 1 - at_ b (x + 1) y) &&& at_ b (x + 2) y)) ^^^ (if i = 0 then rc else 0)

/-- Keccak-f[1600]. -/
def keccak (a : List Nat) : List Nat := roundConst.foldl keccakRound a

/-- Absorb a block of at most 136 bytes. -/
def absorb (a : List Nat) (block : List Nat) : List Nat :=
  keccak ((List.range 25).map fun i => a.getD i 0 ^^^ ofLE ((block.drop (8 * i)).take 8))
/-- The sponge with blocks of a rate and a domain's suffix bits, then the padding 10*1; its first n bytes, at most one block. -/
def sponge (rate suffix : Nat) (l : List Nat) (n : Nat) : List Nat :=
  let z := rate - 1 - l.length % rate
  let p := if z = 0 then l ++ [suffix + 0x80] else l ++ suffix :: List.replicate (z - 1) 0 ++ [0x80]
  (((chunks rate (p.length + 1) p).foldl absorb (List.replicate 25 0)).flatMap fun x => toLE x 8).take n
/-- The first n bytes, at most 136, of SHAKE256 over a list of bytes; and SHA3-512. -/
def shake256 (l : List Nat) (n : Nat) : List Nat := sponge 136 0x1F l n
def sha3_512 (l : List Nat) : List Nat := sponge 72 0x06 l 64

-- AES-256 (FIPS 197)

/-- Multiplication in GF(2^8) modulo x^8 + x^4 + x^3 + x + 1: `n` bits of b, from the lowest. -/
def gmul (a b : Nat) : Nat → Nat
  | 0 => 0
  | n + 1 => (if b % 2 = 1 then a else 0) ^^^ gmul (if 128 ≤ a then 2 * a % 256 ^^^ 0x1B else 2 * a) (b / 2) n
def mul8 (a b : Nat) : Nat := gmul a b 8
/-- The S-box: the inverse x^254, then the affine map. -/
def sbox (x : Nat) : Nat :=
  let sq (y : Nat) : Nat := mul8 y y
  let x2 := sq x
  let x4 := sq x2
  let x8 := sq x4
  let x16 := sq x8
  let x32 := sq x16
  let x64 := sq x32
  let x128 := sq x64
  let v := mul8 (mul8 (mul8 (mul8 (mul8 (mul8 x128 x64) x32) x16) x8) x4) x2
  let rot (k : Nat) : Nat := v * 2 ^ k % 256 ||| v / 2 ^ (8 - k)
  v ^^^ rot 1 ^^^ rot 2 ^^^ rot 3 ^^^ rot 4 ^^^ 0x63

/-- The key schedule: 60 words of four bytes, newest first. -/
def expand : Nat → Nat → Nat → List (List Nat) → List (List Nat)
  | 0, _, _, w => w
  | n + 1, i, rc, w =>
    let t := w.headD []
    let old := w.getD 7 []
    let r : List Nat := (t.drop 1 ++ t.take 1).map sbox
    let t1 : List Nat := if i % 8 = 0 then (r.headD 0 ^^^ rc) :: r.drop 1 else if i % 8 = 4 then t.map sbox else t
    expand n (i + 1) (if i % 8 = 0 then mul8 rc 2 else rc) (List.zipWith (· ^^^ ·) old t1 :: w)
/-- Round keys 0 to 14 of 16 bytes, from a key of 32 bytes. -/
def roundKeys (key : List Nat) : List (List Nat) := chunks 16 60 ((expand 52 8 1 (chunks 4 9 key).reverse).reverse.flatMap id)

/-- The state is 16 bytes in column order; row r moves r columns to the left. -/
def shiftRows (b : List Nat) : List Nat := (List.range 16).map fun i => b.getD ((i + 4 * (i % 4)) % 16) 0
def mixColumn (c : List Nat) : List Nat :=
  (List.range 4).map fun i => mul8 (c.getD i 0) 2 ^^^ mul8 (c.getD ((i + 1) % 4) 0) 3 ^^^ c.getD ((i + 2) % 4) 0 ^^^ c.getD ((i + 3) % 4) 0
def addKey (b k : List Nat) : List Nat := List.zipWith (· ^^^ ·) b k
/-- AES-256 on one block, under its round keys. -/
def aesBlock (keys : List (List Nat)) (b : List Nat) : List Nat :=
  let step (b k : List Nat) : List Nat := addKey ((chunks 4 4 (shiftRows (b.map sbox))).flatMap mixColumn) k
  let mid := ((keys.drop 1).take 13).foldl step (addKey b (keys.headD []))
  addKey (shiftRows (mid.map sbox)) (keys.getD 14 [])

-- Galois/Counter Mode (SP 800-38D)

/-- Multiplication in GF(2^128) with the bits reflected: x's bits from the highest of `n`, against v. -/
def ghashMul (x : Nat) : Nat → Nat → Nat
  | 0, _ => 0
  | n + 1, v => (if x / 2 ^ n % 2 = 1 then v else 0) ^^^ ghashMul x n (if v % 2 = 1 then v / 2 ^^^ 0xE1000000000000000000000000000000 else v / 2)
/-- Blocks of 16 bytes, the last filled with zeros, as numbers. -/
def blocks128 (l : List Nat) : List Nat := (chunks 16 (l.length + 1) l).map fun b => ofBE (b ++ List.replicate (16 - b.length) 0)
def ghash (h : Nat) (aad c : List Nat) : Nat :=
  (blocks128 aad ++ blocks128 c ++ [8 * aad.length * 2 ^ 64 + 8 * c.length]).foldl (fun y b => ghashMul (y ^^^ b) 128 h) 0

/-- Bytes of the key stream for data of a length, from counter 2 on. -/
def keyStream (keys : List (List Nat)) (nonce : List Nat) (len : Nat) : List Nat :=
  ((List.range ((len + 15) / 16)).flatMap fun i => aesBlock keys (nonce ++ toBE (i + 2) 4)).take len
/-- The 16-byte tag of a ciphertext. -/
def gcmTag (keys : List (List Nat)) (nonce aad c : List Nat) : List Nat :=
  addKey (toBE (ghash (ofBE (aesBlock keys (List.replicate 16 0))) aad c) 16) (aesBlock keys (nonce ++ [0, 0, 0, 1]))

/-- AES-256-GCM: ciphertext and tag; and the plaintext of a ciphertext with its tag, or nothing when the tag fails. -/
def gcmSeal (key nonce aad l : List Nat) : List Nat :=
  let keys := roundKeys key
  let c := List.zipWith (· ^^^ ·) l (keyStream keys nonce l.length)
  c ++ gcmTag keys nonce aad c
def gcmOpen (key nonce aad l : List Nat) : Option (List Nat) :=
  let keys := roundKeys key
  let c := l.take (l.length - 16)
  if gcmTag keys nonce aad c = l.drop (l.length - 16) then some (List.zipWith (· ^^^ ·) c (keyStream keys nonce c.length)) else none

-- X448 (RFC 7748)

def p448 : Nat := 2 ^ 448 - 2 ^ 224 - 1
def addP (a b : Nat) : Nat := (a + b) % p448
def subP (a b : Nat) : Nat := (a + p448 - b % p448) % p448
def mulP (a b : Nat) : Nat := a * b % p448
/-- a to the power of the number whose n low bits are given, from the highest. -/
def powP (a e : Nat) : Nat → Nat
  | 0 => 1
  | n + 1 => let r := powP a (e / 2) n; let q := mulP r r; if e % 2 = 1 then mulP q a else q

/-- The Montgomery ladder over the scalar's n low bits, from the highest: the points' (x2, z2, x3, z3). -/
def ladder (k u : Nat) : Nat → Nat × Nat × Nat × Nat → Nat × Nat × Nat × Nat
  | 0, q => q
  | n + 1, (x2, z2, x3, z3) =>
    let one : Bool := k / 2 ^ n % 2 = 1
    let (x2, z2, x3, z3) := if one then (x3, z3, x2, z2) else (x2, z2, x3, z3)
    let a := addP x2 z2
    let b := subP x2 z2
    let aa := mulP a a
    let bb := mulP b b
    let e := subP aa bb
    let da := mulP (subP x3 z3) a
    let cb := mulP (addP x3 z3) b
    let x3 := mulP (addP da cb) (addP da cb)
    let d := subP da cb
    let z3 := mulP u (mulP d d)
    let x2 := mulP aa bb
    let z2 := mulP e (addP aa (mulP 39081 e))
    ladder k u n (if one then (x3, z3, x2, z2) else (x2, z2, x3, z3))

/-- X448 of a scalar and a u-coordinate, both of 56 bytes as little-endian numbers. -/
def x448 (scalar u : Nat) : Nat :=
  let k := scalar % 2 ^ 447 / 4 * 4 + 2 ^ 447
  let r := ladder k (u % p448) 448 (1, 0, u % p448, 1)
  mulP r.1 (powP r.2.1 (p448 - 2) 448)

-- Ed448 (RFC 8032)

/-- The order of the base point, and the curve's d = −39081. -/
def order448 : Nat := 2 ^ 446 - 13818066809895115352007386748515426880336692474882178609894547503885
def curveD : Nat := p448 - 39081

/-- Points in projective coordinates, and their addition. -/
def edAdd (a b : Nat × Nat × Nat) : Nat × Nat × Nat :=
  let z := mulP a.2.2 b.2.2
  let zz := mulP z z
  let c := mulP a.1 b.1
  let d := mulP a.2.1 b.2.1
  let e := mulP curveD (mulP c d)
  let f := subP zz e
  let g := addP zz e
  let h := mulP (addP a.1 a.2.1) (addP b.1 b.2.1)
  (mulP (mulP z f) (subP (subP h c) d), mulP (mulP z g) (subP d c), mulP f g)
/-- A multiple of a point by the number whose n low bits are given. -/
def edMul (k : Nat) (q : Nat × Nat × Nat) : Nat → Nat × Nat × Nat
  | 0 => (0, 1, 1)
  | n + 1 => let r := edMul (k / 2) q n; let d := edAdd r r; if k % 2 = 1 then edAdd d q else d
def edBase : Nat × Nat × Nat :=
  (224580040295924300187604334099896036246789641632564134246125461686950415467406032909029192869357953282578032075146446173674602635247710,
   298819210078481492676017930443930673437544040154080242095928241372331506189835876003536878655418784733982303233503462500531545062832660, 1)
def edSame (a b : Nat × Nat × Nat) : Bool := mulP a.1 b.2.2 = mulP b.1 a.2.2 && mulP a.2.1 b.2.2 = mulP b.2.1 a.2.2

/-- A point as a number of 57 bytes, and back: y, and in the highest bit the parity of x. -/
def edEncode (q : Nat × Nat × Nat) : Nat :=
  let i := powP q.2.2 (p448 - 2) 448
  mulP q.2.1 i + 2 ^ 455 * (mulP q.1 i % 2)
def edDecode (n : Nat) : Option (Nat × Nat × Nat) :=
  let y := n % 2 ^ 455
  let sign := n / 2 ^ 455 % 2
  let u := subP (mulP y y) 1
  let v := subP (mulP curveD (mulP y y)) 1
  let u3v := mulP (mulP u (mulP u u)) v
  let x := mulP u3v (powP (mulP u3v (mulP (mulP u u) (mulP v v))) ((p448 - 3) / 4) 448)
  if p448 ≤ y || mulP v (mulP x x) ≠ u || (x = 0 && sign = 1) then none
  else some (if x % 2 = sign then x else subP 0 x, y, 1)

/-- SHAKE256 under Ed448's domain prefix with an empty context, as a scalar. -/
def edHash (l : List Nat) : Nat := ofLE (shake256 ([0x53, 0x69, 0x67, 0x45, 0x64, 0x34, 0x34, 0x38, 0, 0] ++ l) 114) % order448

/-- ED448 VERIFICATION of a signature of 114 bytes on a message under a public key of 57 bytes. -/
def edVerify (key : Nat) (m sig : List Nat) : Bool :=
  let r := sig.take 57
  let z := ofLE (sig.drop 57)
  sig.length = 114 && z < order448 && match edDecode (key % 2 ^ 456), edDecode (ofLE r) with
    | some a, some q =>
      let k := edHash (r ++ toLE key 57 ++ m)
      edSame (edMul 4 (edMul z edBase 448) 3) (edMul 4 (edAdd q (edMul k a 448)) 3)
    | _, _ => false

/-- ED448 SIGNING of a message under a private key of 57 bytes. -/
def edSign (key : Nat) (m : List Nat) : List Nat :=
  let h := shake256 (toLE key 57) 114
  let a := ofLE (h.take 56) % 2 ^ 447 / 4 * 4 + 2 ^ 447
  let r := edHash (h.drop 57 ++ m)
  let rb := toLE (edEncode (edMul r edBase 448)) 57
  let k := edHash (rb ++ toLE (edEncode (edMul a edBase 448)) 57 ++ m)
  rb ++ toLE ((r + k * a) % order448) 57

end Crypto
end Sys2Proof.Machine
end

