-- ==== Sys2Proof/Machine/Kiln.lean ====
section
/-! DEFINITION. The Kiln's formats, packing, extraction and scale bindings (R157, R164, R165, R172 to R177, R183, R185, R335, R336, R338 to R340). -/

namespace Sys2Proof.Machine

/-- The fields of a format word (R172). -/
structure KWord where
  a : Nat
  b : Nat
  s : Nat
  t : Nat
  out : Nat
  w : Nat
  top : Bool
  deriving DecidableEq, Repr

def kWord (x : Word) : KWord :=
  { a := (x.extractLsb' 0 4).toNat, b := (x.extractLsb' 4 4).toNat, s := (x.extractLsb' 8 9).toNat, t := (x.extractLsb' 17 7).toNat + 1,
    out := (x.extractLsb' 24 4).toNat, w := 2 * (x.extractLsb' 28 3).toNat, top := x.getLsbD 31 }

/-- Signed width of a format (R173); TER counts as the width of its digit. -/
def kWidth (f w : Nat) : Nat :=
  match f with
  | 0 => 2 | 1 => 4 | 2 => 5 | 3 => 8 | 4 => 9 | 5 => 16 | 6 => 32 | 7 => 19 | 8 => 8 | 9 => 4
  | 10 => 8 + w | 11 => 11 + w | 12 => 24 + w | 13 => 53 + w | _ => 1
def kIsInt (f : Nat) : Bool := f ≤ 7
def kIsBlock (f : Nat) : Bool := f = 8 || f = 9
def kIsWin (f : Nat) : Bool := 10 ≤ f && f ≤ 13
/-- A format whose elements carry a scale (R177). -/
def kScaled (f : Nat) : Bool := kIsBlock f || kIsWin f
/-- Digits of an A element (R173). -/
def kDigits (f w : Nat) : Nat :=
  match f with
  | 5 => 2 | 6 => 4 | 7 => 3
  | _ => if kIsWin f then (kWidth f w + 7) / 8 else 1
/-- The guard width s_min (R175). -/
def kMin (k : KWord) : Nat :=
  let c := Nat.log2 k.t + 1   -- ceil(log2(T + 1))
  if k.a = 0 then kWidth k.b k.w + c else kWidth k.a k.w + kWidth k.b k.w - 1 + c
/-- The slot width in force: a field of 0 means s_min (R172). -/
def kSlot (k : KWord) : Nat := if k.s = 0 then kMin k else k.s
def kSlots (k : KWord) : Nat := 4096 / kSlot k

/-- FMTDIV subcode 1 for the word alone (R174). -/
def kBadWord (k : KWord) : Bool :=
  k.top || 5 ≤ k.out || (1 ≤ k.s && k.s ≤ 3) || 14 ≤ k.a || 14 ≤ k.b || 14 < k.w || (k.w ≠ 0 && !(kIsWin k.a && kIsWin k.b)) || k.b = 0 ||
  !((kIsInt k.a && kIsInt k.b) || (kIsBlock k.a && kIsBlock k.b) || (kIsWin k.a && k.a = k.b)) ||
  (kScaled k.a && (k.out = 1 || 32 < k.t))

/-- FMTDIV subcode 1 for a pass (R174): `mode` 0 row, 1 convolution, 2 window. -/
def kBadPass (k : KWord) (mode steps : Nat) : Bool :=
  let d := kDigits k.a k.w
  kBadWord k || (kScaled k.a && mode ≠ 0) || steps % d ≠ 0 || (mode = 1 && 8 < steps / d) ||
  (mode = 2 && !(k.b = 3 || k.b = 4 || k.b = 5 || k.b = 6))

/-- A source element of an integer format as an integer; none when it is outside the format (R173, R177). -/
def kElem (f : Nat) (x : Nat) : Option Int :=
  let v := toSigned 32 x
  let within (lo hi : Int) : Option Int := if lo ≤ v && v ≤ hi then some v else none
  match f with
  | 0 => match x % 4 with | 0 => some 0 | 1 => some 1 | 3 => some (-1) | _ => none
  | 1 => within (-8) 7
  | 2 => within 0 15
  | 3 => within (-128) 127
  | 4 => within 0 255
  | 5 => within (-32768) 32767
  | 6 => some v
  | 7 => match decodeFloat .e4m3 (x % 256) with
    | .fin n m e => some (sgn n (m * 2 ^ (e + 9).toNat))
    | _ => none
  | _ => none
/-- A side-B source: block and window formats take the quantised integer itself (R177). -/
def kElemB (f w : Nat) (x : Nat) : Option Int :=
  if kIsInt f then kElem f x
  else
    let v := if 32 ≤ kWidth f w then toSigned 32 (x % 2 ^ 32) else toSigned 32 x
    let h : Int := (2 ^ (min 32 (kWidth f w) - 1) : Nat)
    if 32 ≤ kWidth f w || (-h ≤ v && v < h) then some v else none

/-- Bytes of an element's digits, lowest first (R173). -/
def kBytes (d : Nat) (v : Int) : List Nat := (bytesOf (wrapNat (8 * d) v) d).map (·.toNat)

/-- Magnitude comparison m·2^e ≤ q·2^f. -/
def magLe (m : Nat) (e : Int) (q : Nat) (f : Int) : Bool :=
  if e ≤ f then m ≤ q * 2 ^ (f - e).toNat else m * 2 ^ (e - f).toNat ≤ q

/-- The finite elements of a block; none when one is a NaN or an infinity. -/
def kFinite : List FVal → Option (List (Bool × Nat × Int))
  | [] => some []
  | .fin n m e :: l => (kFinite l).map fun t => (n, m, e) :: t
  | _ :: _ => none

/-- rne(x / 2^E) as an integer. -/
def kRound (x : Bool × Nat × Int) (e : Int) : Int := sgn x.1 (roundToInt .rne x.1 x.2.1 (x.2.2 - e))

/-- BLOCK QUANTISATION (R164): code, integers, flags. -/
def kBlockQ (q : Nat) (l : List FVal) : Nat × List Int × DWord :=
  match kFinite l with
  | none => (0xFF, l.map (fun _ => 0), 0)
  | some v =>
    let nz := v.filter fun x => x.2.1 ≠ 0
    if nz = [] then (0, l.map (fun _ => 0), 0) else
    -- the smallest E with Q·2^E ≥ amax, at most one above the greatest exponent of a quotient's top bit
    let need (x : Bool × Nat × Int) : Int :=
      let t := topExp x.2.1 x.2.2 - (Nat.log2 q : Int)
      if magLe x.2.1 x.2.2 q (t - 1) then t - 1 else if magLe x.2.1 x.2.2 q t then t else t + 1
    let e := nz.foldl (fun m x => max m (need x)) (-100000)
    let e1 := if e < -127 then -127 else if 127 < e then 127 else e
    (((e1 + 127).toNat), v.map (fun x => clampInt (-(q : Int)) q (kRound x e1)), flagIf (e < -127) Flag.sclamp ||| flagIf (127 < e) Flag.ssat)

/-- The source format of a window format. -/
def kWinFmt (f : Nat) : FloatFmt := match f with | 10 => .bf16 | 11 => .fp16 | 12 => .fp32 | _ => .fp64

/-- Widen the window once or twice until every integer fits (R165). -/
def kWinFit (a : Nat) (v : List (Bool × Nat × Int)) : Nat → Int → Int × List Int
  | 0, e => (e, v.map fun x => kRound x (e - a + 2))
  | fuel + 1, e =>
    let q := v.map fun x => kRound x (e - a + 2)
    if q.all fun z => z.natAbs ≤ 2 ^ (a - 1) - 1 then (e, q) else kWinFit a v fuel (e + 1)

/-- WINDOW QUANTISATION (R165): the grid exponent g as 16 bits, and the integers. -/
def kWinQ (f w : Nat) (l : List FVal) : Nat × List Int :=
  let a := kWidth f w
  match kFinite l with
  | none => (0x8000, l.map fun _ => 0)
  | some v =>
    let nz := v.filter fun x => x.2.1 ≠ 0
    let minE : Int := 1 - ((kWinFmt f).bias : Int)
    let top (m : Int) (x : Bool × Nat × Int) : Int := max m (topExp x.2.1 x.2.2)
    let r : Int × List Int := if nz = [] then (minE, l.map fun _ => 0) else kWinFit a v 2 (nz.foldl top (-100000))
    (wrapNat 16 (r.1 - a + 2), r.2)

/-- What packing one lane's A elements answers: the registers from D, flags; or the index of the first bad element. -/
def kPackA (k : KWord) (src : Nat → Nat) : Except Nat (List Word × DWord) :=
  let d := kDigits k.a k.w
  let words (bytes : List Nat) : List Word :=
    (List.range ((bytes.length + 3) / 4)).map fun i => BitVec.ofNat 32 (natOf (((bytes.drop (4 * i)).take 4).map fun b => BitVec.ofNat 8 b))
  let idx := List.range k.t
  if kIsInt k.a then
    match idx.find? fun t => (kElem k.a (src t)).isNone with
    | some t => .error t
    | none =>
      if k.a = 0 then
        .ok ((List.range ((k.t + 15) / 16)).map (fun r => BitVec.ofNat 32
          ((idx.filter fun t => t / 16 = r).foldl (fun n t => n + (src t % 4) * 4 ^ (t % 16)) 0)), 0)
      else .ok (words (idx.flatMap fun t => kBytes d ((kElem k.a (src t)).getD 0)), 0)
  else if kIsBlock k.a then
    let r := kBlockQ (if k.a = 8 then 127 else 7) (idx.map fun t => decodeFloat .fp32 (src t % 2 ^ 32))
    .ok (BitVec.ofNat 32 r.1 :: words (r.2.1.flatMap fun q => kBytes d q), r.2.2)
  else
    let f := kWinFmt k.a
    let r := kWinQ k.a k.w (idx.map fun t => decodeFloat f (src t % 2 ^ (f.mag + 1)))
    .ok (BitVec.ofNat 32 r.1 :: words (r.2.flatMap fun q => kBytes d q), 0)

/-- Slot k of a signed accumulator: exact extraction (R185), as a fold that carries the rest. -/
def kExtract (s : Nat) : Nat → Int → List Int
  | 0, _ => []
  | n + 1, v =>
    let c := toSigned s (wrapNat s v)
    c :: kExtract s n ((v - c) / (2 ^ s : Nat))

/-- An extracted sum as a destination register's value, by output code (R185). -/
def kOutWord (out : Nat) (c : Int) : DWord × DWord :=
  let v : FVal := .fin (decide (c < 0)) c.natAbs 0
  match out with
  | 2 => putFloat .fp32 .rne false v
  | 3 => putFloat .fp64 .rne false v
  | 4 => putFloat .bf16 .rne false v
  | _ => let r := clampInt (-(2 ^ 31 : Nat)) ((2 ^ 31 : Nat) - 1) c
         (BitVec.ofNat 64 (wrapNat 32 r), flagIf (r ≠ c) Flag.ksat)

namespace State
variable (s : State)

/-- FMTDIV for lanes that disagree on a value (R174): the lowest lane that differs from the lowest true-guard lane. -/
def disagree (t : LaneMask) (f : Nat → Nat) : Option Nat := (lanesOf t).find? fun i => f i ≠ f (lowLane t)

/-- The format word of the path, checked for agreement and by a test, before an instruction's other checks (R174, R336). -/
def withWord (c : BitVec 11) (t : LaneMask) (bad : KWord → Bool) (k : KWord → Out) : Out :=
  match disagree t fun i => (s.g.rdV c.toNat i).toNat with
  | some l => s.raise Cause.fmtdiv l t 0
  | none =>
    let w := kWord (s.g.rdV c.toNat (lowLane t))
    if bad w then s.raise Cause.fmtdiv 0 t 1 else k w

/-- The rest of the register runs, whose length the word sets (R336), and the registers that are still pending (R96). -/
def fullRuns (vr : List Run) (t : LaneMask) (k : Unit → Out) : Out :=
  if s.hitsPending vr [] then .next s.stall else
  match s.rangeTrap vr with
  | some n => s.raise Cause.regrange n t
  | none => k ()

/-- OR flags into STATUS. -/
def addStatus (gk : Nat) (f : DWord) : State := if (tabFind s.groups gk).isNone then s else s.modGrp gk fun g => { g with status := g.status ||| f }

end State

/-- KPACK.a (R177, R338): each true-guard lane packs its T elements. -/
def execKpackA (x : KpackArgs) (s : State) : Out :=
  s.enter [(x.d.toNat, 1), (x.a.toNat, 1), (x.c.toNat, 1)] [] fun s =>
    let t := s.trueLanes x.guard
    if t = 0 then .next ((s.advance s.cur.mask).finish true) else
    s.withWord x.c t (fun k => kBadWord k || 128 < k.t * kDigits k.a k.w) fun k =>
    let d := kDigits k.a k.w
    let pair := k.a = 13
    if pair && x.a.toNat % 2 ≠ 0 then s.raise Cause.illegal 0xB00 t else
    let n := (if k.a = 0 then (k.t + 15) / 16 else (k.t * d + 3) / 4) + (if kScaled k.a then 1 else 0)
    s.fullRuns [(x.d.toNat, n), (x.a.toNat, if pair then 2 * k.t else k.t)] t fun _ =>
    let src (i j : Nat) : Nat := if pair then (s.g.rdPair (x.a.toNat + 2 * j) i).toNat else (s.g.rdV (x.a.toNat + j) i).toNat
    let r (i : Nat) : Except Nat (List Word × DWord) := kPackA k (src i)
    let bad := maskOf fun i => t.getLsbD i && (match r i with | .error _ => true | .ok _ => false)
    if bad ≠ 0 then s.raise Cause.packrange (match r (lowLane bad) with | .error j => j | .ok _ => 0) bad else
    let put (h : Group) (i : Nat) : Group :=
      match r i with
      | .ok (l, f) => { ((List.range l.length).zip l).foldl (fun q e => q.wrV (x.d.toNat + e.1) i e.2) h with status := h.status ||| f }
      | .error _ => h
    .next (((s.modG fun g => g.each t put).advance s.cur.mask).finish true)

/-- KPACK.b (R177, R338): one plate from the path's lanes; each true-guard lane takes 128 of its bits. -/
def execKpackB (x : KpackArgs) (s : State) : Out :=
  s.enter [(x.d.toNat, 4), (x.a.toNat, 1), (x.c.toNat, 1)] [] fun s =>
    let t := s.trueLanes x.guard
    if t = 0 then .next ((s.advance s.cur.mask).finish true) else
    s.withWord x.c t kBadWord fun k =>
    let m := kSlots k
    s.fullRuns [(x.a.toNat, (m + 31) / 32)] t fun _ =>
    let elem (j : Nat) : Option Int := if t.getLsbD (j % 32) then kElemB k.b k.w (s.g.rdV (x.a.toNat + j / 32) (j % 32)).toNat else some 0
    match (List.range m).find? fun j => (elem j).isNone with
    | some j =>
      let bad := maskOf fun i => t.getLsbD i && (List.range m).any fun j => j % 32 = i && (elem j).isNone
      s.raise Cause.packrange j bad
    | none =>
      let sl := kSlot k
      let z : Int := (List.range m).foldr (fun j acc => (elem j).getD 0 + acc * (2 ^ sl : Nat)) 0
      let image := wrapNat 4096 z
      let put (h : Group) (i : Nat) : Group :=
        (List.range 4).foldl (fun q j => q.wrV (x.d.toNat + j) i (BitVec.ofNat 32 (image / 2 ^ (128 * i + 32 * j)))) h
      .next (((s.modG fun g => g.each t put).advance s.cur.mask).finish true)

/-- The path parks until every line of its lanes' images is present (R107, R339). -/
def State.parkImage (s : State) (t : LaneMask) (a : Nat → Nat) : State :=
  (s.modG fun g => g.each s.cur.mask fun h i => h.setWait i (.image s.cur.mask (if t.getLsbD i then some (a i) else none))).stall

/-- Paths parked at KEXT whose image lines are all present go on, with every lane at once (R107, R339). -/
def State.wakeImages (s : State) : State :=
  let ready (gk : Nat) (g : Group) (m : LaneMask) : Bool := (lanesOf m).all fun i =>
    match g.waitOf i with | .image _ (some a) => !s.rangeAbsent gk i a 576 | _ => true
  let wake (e : Nat × Group) : Group := e.2.each (BitVec.allOnes 32) fun h i =>
    match e.2.waitOf i with | .image m _ => if ready e.1 e.2 m then h.setWait i .run else h | _ => h
  { s with groups := s.groups.map fun e => (e.1, if switchedOut e.1 then e.2 else wake e) }

/-- KEXT (R185, R339): the image is read as a load of the lane, which waits for the lane's older overlapping stores; a path whose image touches an absent line parks; the results are written at once. -/
def execKext (x : KextArgs) (s : State) : Out :=
  s.enter [(x.d.toNat, 1), (x.a.toNat, 2), (x.c.toNat, 1)] [] fun s =>
    let t := s.trueLanes x.guard
    if t = 0 then .next ((s.advance s.cur.mask).finish true) else
    let first := x.first.toNat
    let count := x.count.toNat + 1
    s.withWord x.c t (fun k => kBadWord k || 4608 / kSlot k ≤ first + count - 1) fun k =>
    let pair := k.out = 3
    if pair && x.d.toNat % 2 ≠ 0 then s.raise Cause.illegal 0xB03 t else
    s.fullRuns [(x.d.toNat, if pair then 2 * count else count)] t fun _ =>
    let a (i : Nat) : Nat := (s.g.rdPair x.a.toNat i).toNat
    let meet (p : Nat → Bool) : LaneMask := maskOf fun i => t.getLsbD i && p i
    let up (c d : Nat) (m : LaneMask) : Out := s.raise c d m 0 (BitVec.ofNat 64 (a (lowLane m)))
    let c1 := meet fun i => !canonical (a i)
    let c2 := meet fun i => a i % 64 ≠ 0
    let c3 := meet fun i => touchesHole (a i) 576
    let c4 := meet fun i => !(apertureOf (a i) = .team || apertureOf (a i) = .clus || apertureOf (a i) = .vault) || !s.rangeHeld s.cur.gk i (a i) 576
    if c1 ≠ 0 then up Cause.nomap 0 c1
    else if c2 ≠ 0 then up Cause.misalign 0 c2
    else if c3 ≠ 0 then up Cause.nomap 0 c3
    else if c4 ≠ 0 then up Cause.prot 1 c4
    else if (lanesOf t).any fun i => s.rangeAbsent s.cur.gk i (a i) 576 then .next (s.parkImage t a)
    else
      if (lanesOf t).any fun i => s.blocked s.nextLog (probeLog s.cur.gk t 576 i (a i)) (64 * i) then .next s.stall else
      let put (h : Group) (i : Nat) : Group :=
        let v := toSigned 4608 (s.arrayBytes s.cur.gk i (a i) 576)
        let l := (kExtract (kSlot k) (first + count) v).drop first
        ((List.range count).zip l).foldl (fun q e =>
          let r := kOutWord k.out e.2
          let q1 := if pair then q.wrPair (x.d.toNat + 2 * e.1) i r.1 else q.wrV (x.d.toNat + e.1) i (r.1.setWidth 32)
          { q1 with status := q1.status ||| r.2 }) h
      .next (((s.modG fun g => g.each t put).advance s.cur.mask).finish true)

/-- Every line of a tensor's scales leaves the scale cache of every Kiln (R183). -/
def State.dropScales (s : State) (ctx id : Nat) : State :=
  { s with scaleCache := s.scaleCache.map fun e => (e.1, e.2.filter fun l => !(l.ctx = ctx && l.id = id)) }

/-- KSTAB's read of its descriptor and its write of the binding, as accesses of every true-guard lane (R141, R319). -/
def kstabProbe (gk : Nat) (t : LaneMask) (l a : Nat) (write : Bool) : Log :=
  { probeLog gk t 16 l a with scalar := true, kind := if write then .store else .load }

/-- KSTAB (R183, R340): the lowest true-guard lane's descriptor becomes binding `id` of the context. -/
def execKstab (x : KstabArgs) (s : State) : Out :=
  s.enter [(x.a.toNat, 2)] [] fun s =>
    let t := s.trueLanes x.guard
    if t = 0 then .next ((s.advance s.cur.mask).finish true) else
    let l := lowLane t
    let m := maskOf fun i => i = l
    let a := (s.g.rdPair x.a.toNat l).toNat
    match s.issueChecks s.cur.gk m (fun _ => a) 16 false with
    | some p => .next (s.takeTrap p)
    | none =>
      let tab := s.gr.scales
      if tab = 0 then s.raise Cause.nomap 0 m else
      if s.parks m (fun _ => a) 16 then .next s.stall else
      let at_ := tab + 16 * x.id.toNat
      if s.blocked s.nextLog (kstabProbe s.cur.gk t l a false) (64 * l) || s.blocked s.nextLog (kstabProbe s.cur.gk t l at_ true) (64 * l) then .next s.stall else
      let w := kstabWaiter s.cur.gk l
      let read : EngRead :=
        if apertureOf a = .glob then s.plainRead s.curCore s.tm.asid s.tm.ctx a 16 w else .ok (s.arrayBytes s.cur.gk l a 16) s
      match read with
      | .wait u => .next u.stall
      | .bad b => .next ((s.takeFail w).takeTrap { cause := b.cause, sub := b.sub, detail := b.detail, mask := m, addr := BitVec.ofNat 64 a })
      | .ok d u =>
        if d % 2 ^ 64 % 64 ≠ 0 || d / 2 ^ 64 % 2 ^ 32 % 64 ≠ 0 then u.raise Cause.misalign 0 m 0 (BitVec.ofNat 64 a) else
        match u.plainWrite u.curCore u.tm.asid u.tm.ctx at_ 16 d w with
        -- what the descriptor's read has answered stays with it
        | .wait v => .next (v.keepReply u w a d).stall
        | .bad b => .next ((u.takeFail w).takeTrap { cause := b.cause, sub := b.sub, detail := b.detail, mask := m, addr := BitVec.ofNat 64 at_ })
        | .ok p v =>
          -- the write is a store of every lane that executed it (R137, R155, R319)
          let v1 := (v.noteStore v.cur.gk t p).noteFar v.cur.gk t (u.writtenBy w at_) p v.nextLog
          .next (((v1.dropScales v.tm.ctx x.id.toNat).advance v.cur.mask).finish true)

end Sys2Proof.Machine
end

