-- ==== Sys2Proof/Machine/Passes.lean ====
section
/-! DEFINITION. Kiln passes: their checks and requests, eligibility, firing and output (R170, R171, R178 to R182, R184, R186 to R189, R191, R337). -/

namespace Sys2Proof.Machine

/-- Weights and specials of a slot's value. -/
structure KWeight where
  e : Int
  nan : Bool
  deriving DecidableEq, Repr

/-- Bytes of one output element, by output code (R181). -/
def kOutBytes (out : Nat) : Nat := match out with | 3 => 8 | 4 => 2 | _ => 4
/-- Slots produced (R181). -/
def kCount (k : KWord) (mode n : Nat) : Nat :=
  if mode = 1 then min (kSlots k + n - 1) (4608 / kSlot k) else kSlots k
/-- Destination range of a lane (R181). -/
def kDstBytes (k : KWord) (mode n : Nat) : Nat := if k.out = 0 then 576 else kCount k mode n * kOutBytes k.out
def kDstAlign (out : Nat) : Nat := if out = 0 then 64 else kOutBytes out
/-- Element size of a window's source (R184). -/
def kWinElem (b : Nat) : Nat := match b with | 5 => 2 | 6 => 4 | _ => 1

/-- Mesh column and quad of a core of the module (R1, R108). -/
def meshCol (c : Nat) : Nat := c % 72 % 12
def quadOfCore (c : Nat) : Nat := c / 72 * 18 + (c % 72 / 24) * 6 + meshCol c / 2
/-- The chamber that serves a core (R170): 2·quad + parity of the mesh column. -/
def chamberOf (c : Nat) : Nat := 2 * quadOfCore c + meshCol c % 2

namespace State
variable (s : State)

/-- Digits of a lane's stream: codes for TER, bytes otherwise (R177). -/
def kStream (k : KWord) (a steps lane : Nat) : List Nat :=
  let r := a + (if kScaled k.a then 1 else 0)
  (List.range steps).map fun i =>
    if k.a = 0 then (s.g.rdV (r + i / 16) lane).toNat / 4 ^ (i % 16) % 4 else (s.g.rdV (r + i / 4) lane).toNat / 256 ^ (i % 4) % 256

def kreq? (i : Nat) : Option Kreq := tabFind s.kreqs i
/-- Reservation entries in use in a chamber: requests that have not fired (R170). -/
def reserved (ch : Nat) : Nat := (s.kreqs.filter fun e => e.2.chamber = ch && e.2.fired.isNone).length

/-- THE CHECKS OF R179 after the format word's, in their order. -/
def passChecks (k : KWord) (mode n : Nat) (t : LaneMask) (base : Nat) (ss : Nat) (dst : Nat → Nat) : Option Trap :=
  let meet (p : Nat → Bool) : LaneMask := maskOf fun i => t.getLsbD i && p i
  let trap (c d : Nat) (m : LaneMask) (a : Nat) : Option Trap := some { cause := c, detail := d, mask := m, addr := BitVec.ofNat 64 a }
  let e := kWinElem k.b
  let plates := plateRanges mode n base ss (kSlots k * e) e
  let db := kDstBytes k mode n
  let p1 := if canonical base then plates.find? fun r => !canonical r.1 else some (base, 0)
  let m1 := meet fun i => !canonical (dst i)
  let badBase : Bool := match mode with
    | 0 => base % 64 ≠ 0 || ss % 64 ≠ 0
    | 1 => base % 64 ≠ 0
    | _ => base % e ≠ 0
  let m2 := meet fun i => dst i % kDstAlign k.out ≠ 0
  let m3 := meet fun i => !oneAperture (dst i) db
  let p3 := plates.find? fun r => !oneAperture r.1 r.2
  let m4 := meet fun i => touchesHole (dst i) db
  let p4 := plates.find? fun r => touchesHole r.1 r.2
  let privAt (r : Nat × Nat) : Bool := touchesPriv r.1 r.2
  let m5 := meet fun i => touchesPriv (dst i) db || !s.rangeHeld s.cur.gk i (dst i) db
  let p5 := plates.find? fun r => privAt r || (mode = 2 && apertureOf r.1 ≠ .team && apertureOf r.1 ≠ .clus) || !s.rangeHeld s.cur.gk (lowLane t) r.1 r.2
  if p1.isSome then trap Cause.nomap 0 t (p1.getD (0, 0)).1
  else if m1 ≠ 0 then trap Cause.nomap 0 m1 (dst (lowLane m1))
  else if badBase then trap Cause.misalign 0 t base
  else if m2 ≠ 0 then trap Cause.misalign 0 m2 (dst (lowLane m2))
  else match p3 with
    | some r => trap Cause.apspan 0 t r.1
    | none =>
      if m3 ≠ 0 then trap Cause.apspan 0 m3 (dst (lowLane m3)) else
      match p4 with
      | some r => trap Cause.nomap 0 t r.1
      | none =>
        if m4 ≠ 0 then trap Cause.nomap 0 m4 (dst (lowLane m4)) else
        match p5 with
        | some r => trap Cause.prot 1 t r.1
        | none => if m5 ≠ 0 then trap Cause.prot 2 m5 (dst (lowLane m5)) else none

/-- One quarter's request (R186). -/
def quarterReq (k : KWord) (word : Word) (mode steps : Nat) (x : KpassArgs) (t : LaneMask) (base : Nat) (ids : List (Nat × Nat)) (q : Nat) : Option Kreq :=
  let l := (lanesOf t).filter fun i => i / 8 = q
  if l = [] then none else
  let id (i : Nat) : Nat := ((ids.find? fun e => e.1 = i).map (·.2)).getD 0
  some { gk := s.cur.gk, chamber := chamberOf s.curCore, ops := l.map (fun i => (i, id i)), mode, fmt := word, steps, base := BitVec.ofNat 64 base,
         ss := s.g.rdS x.ss.toNat, sel := if kScaled k.a then s.g.rdS (x.ss.toNat + 1) else 0,
         digits := l.map (fun i => (i, s.kStream k x.a.toNat steps i)), ascale := l.map (fun i => (i, s.g.rdV x.a.toNat i)),
         dst := l.map (fun i => (i, s.g.rdPair x.dst.toNat i)), plates := [], scales := [], eligible := false, miss := false, issued := s.cycle, fired := none,
         acc := [], prio := s.tm.prio }

/-- ISSUE OF A PASS (R178 to R180, R186, R337). -/
def passIssue (x : KpassArgs) (mode : Nat) : Out :=
  s.enter [(x.a.toNat, 1), (x.b.toNat, 2), (x.c.toNat, 1), (x.dst.toNat, 2)] [(x.ss.toNat, 1)] fun s =>
    let t := s.trueLanes x.guard
    if t = 0 then .next ((s.advance s.cur.mask).finish true) else
    s.readHandle t x.h.toNat fun s =>
    let steps := x.steps.toNat + 1
    let base (i : Nat) : Nat := (s.g.rdPair x.b.toNat i).toNat
    let ss := (s.g.rdS x.ss.toNat).toNat
    let sel := (s.g.rdS (x.ss.toNat + 1)).toNat
    -- the lowest lane that differs in the plate base or in the word (R174)
    match disagree t fun i => base i + 2 ^ 64 * (s.g.rdV x.c.toNat i).toNat with
    | some l => s.raise Cause.fmtdiv l t 0
    | none =>
    -- a scaled format names the selector, which may be pending (R96)
    if kScaled (kWord (s.g.rdV x.c.toNat (lowLane t))).a && x.ss.toNat ≠ 255 && s.hitsPending [] [(x.ss.toNat + 1, 1)] then .next s.stall else
    s.withWord x.c t (fun k => kBadPass k mode steps || (kScaled k.a && sel / 2 ^ 40 ≠ 0) || (mode = 2 && ss / 2 ^ 36 ≠ 0)) fun k =>
    let scaled := kScaled k.a
    if scaled && x.ss.toNat = 255 then s.raise Cause.illegal (if mode = 2 then 0xB02 else 0xB01) t else
    s.fullRuns [(x.a.toNat, (if k.a = 0 then (steps + 15) / 16 else (steps + 3) / 4) + (if scaled then 1 else 0))] t fun _ =>
    let n := steps / kDigits k.a k.w
    if kSlot k < kMin k || k.t < n then s.raise Cause.guardovf (kMin k) t else
    let bad := maskOf fun i => t.getLsbD i && k.a = 0 && (s.kStream k x.a.toNat steps i).contains 2
    if bad ≠ 0 then s.raise Cause.packrange (((s.kStream k x.a.toNat steps (lowLane bad)).findIdx? (· = 2)).getD 0) bad else
    let b := base (lowLane t)
    let dst (i : Nat) : Nat := (s.g.rdPair x.dst.toNat i).toNat
    match s.passChecks k mode n t b ss dst with
    | some p => .next (s.takeTrap p)
    | none =>
      let quarters := (List.range 4).filter fun q => (lanesOf t).any fun i => i / 8 = q
      if s.ctrFull 1 || Config.reservation < s.reserved (chamberOf s.curCore) + quarters.length then .next s.stall else
      let e := kWinElem k.b
      let args := [mode, n, b, ss, kSlots k * e, e, s.nextLog]
      let todo := List.range (if k.out = 0 then 36 else kCount k mode n)
      let o (i : Nat) : Op := { Op.none with kind := if mode = 2 then .kwin else .kpass, gk := s.cur.gk, lane := i, st := .pending, pc := s.cur.pc,
                                             asid := s.tm.asid, ctx := s.tm.ctx, args, todo }
      let r := s.startOps ((lanesOf t).map fun i => (o i, [i])) (some x.h.toNat)
      let ids := (lanesOf t).zip r.1
      let word := s.g.rdV x.c.toNat (lowLane t)
      let reqs := quarters.filterMap fun q => s.quarterReq k word mode steps x t b ids q
      let add (u : State) (q : Kreq) : State := { u with kreqs := tabPut u.kreqs u.nextKreq q, nextKreq := u.nextKreq + 1, agenda := u.agenda ++ [.kilnEligible u.nextKreq] }
      let s1 := reqs.foldl add r.2
      .next ((s1.advance s.cur.mask).finish true)

end State

def execKpass (x : KpassArgs) (s : State) : Out := s.passIssue x (if x.conv then 1 else 0)
def execKwin (x : KpassArgs) (s : State) : Out := s.passIssue x 2

namespace State
variable (s : State)

/-- Every lane of a request fails with a code, and the request leaves (R179, R182). -/
def failReq (req : Nat) (r : Kreq) (b : Bad) : State :=
  let s1 := r.ops.foldl (fun t o => t.failOp o.2 b) s
  { s1 with kreqs := tabDel s1.kreqs req }

/-- The plates of a request, read whole; each image as a signed number, a window as the sum of its elements over its slots (R171, R176, R184). -/
def fetchPlates (op : Nat) (o : Op) (k : KWord) (mode : Nat) : List (Nat × Nat) → State → List Int → (EngRead × List Int)
  | [], u, acc => (.ok 0 u, acc.reverse)
  | r :: l, u, acc =>
    match engRange op o r.1 r.2 (r.2 + 2) r.1 r.2 u with
    | .ok x v =>
      let p : Int :=
        if mode = 2 then
          let e := kWinElem k.b
          let el (j : Nat) : Int := let z := x / 256 ^ (e * j) % 256 ^ e; if k.b = 4 then (z : Int) else toSigned (8 * e) z
          (List.range (kSlots k)).foldr (fun j z => el j + z * (2 ^ kSlot k : Nat)) 0
        else toSigned 4096 x
      fetchPlates op o k mode l v (p :: acc)
    | q => (q, acc)

/-- A LINE OF SCALES through a Kiln's scale cache (R187): a line that is held is used as it is; a miss reads its 64 bytes and keeps the newest 4,096 lines. DESIGN CHOICE (log 91): the line that has been held longest leaves. -/
def scaleLine (op : Nat) (o : Op) (kiln id a : Nat) (u : State) : EngRead :=
  let l := tabGet [] u.scaleCache kiln
  match l.find? fun x => x.ctx = o.ctx && x.id = id && x.at_ = a with
  | some x => .ok x.data u
  | none =>
    match engRange op o a 64 3 a 64 u with
    | .ok d v => .ok d { v with scaleCache := tabPut v.scaleCache kiln ((⟨o.ctx, id, a, d⟩ :: tabGet [] v.scaleCache kiln).take Config.scaleLines) }
    | q => q

/-- The scale lines from an address on, as one number, lowest first. -/
def scaleLines (op : Nat) (o : Op) (kiln id : Nat) : Nat → Nat → State → EngRead
  | 0, _, u => .ok 0 u
  | n + 1, a, u =>
    match scaleLine op o kiln id a u with
    | .ok x v => match scaleLines op o kiln id n (a + 64) v with
      | .ok y w => .ok (x + 2 ^ 512 * y) w
      | q => q
    | q => q

/-- A binding, and the B scales of a request's slots through the Kiln's scale cache (R182, R183, R187); and whether it is a line of scales that is waited for. -/
def fetchScales (op : Nat) (o : Op) (kiln table sel n e : Nat) (u : State) : EngRead × Bool :=
  if table = 0 then (.bad ⟨Cause.nomap, 0, 0, 0⟩, false) else
  let at_ := table + 16 * (sel % 256)
  match engRange op o at_ 16 4 at_ 16 u with
  | .ok d v =>
    let kb := sel / 256 % 2 ^ 32
    if d / 2 ^ 96 ≤ kb then (.bad ⟨Cause.nomap, 0, 0, 0⟩, false)
    else
      let r := scaleLines op o kiln (sel % 256) ((n * e + 63) / 64) (d % 2 ^ 64 + kb * (d / 2 ^ 64 % 2 ^ 32)) v
      (r, match r with | .wait _ => true | _ => false)
  | q => (q, false)

/-- Does a plate line in a scratchpad wait for a copy (R337)? -/
def platesAbsent (o : Op) : Bool := (srcRanges o).any fun r => s.rangeAbsent o.gk o.lane r.1 r.2

/-- The fusion key (R186). -/
def kKey (r : Kreq) : List Nat := [(s.team (teamOf r.gk)).ctx, r.mode, r.fmt.toNat, r.steps, r.base.toNat, r.ss.toNat, r.sel.toNat]

/-- Has the plate buffer of a request's chamber room for its plates (R170)? Requests of one fusion key share theirs; a pass holds them until its last step. -/
def plateRoom (r : Kreq) (n : Nat) : Bool :=
  let l := s.kreqs.filter fun e => e.2.chamber = r.chamber && e.2.eligible && (match e.2.fired with | some f => s.cycle < f + e.2.steps | none => true) && s.kKey e.2 ≠ s.kKey r
  let one (t : List (List Nat) × Nat) (e : Nat × Kreq) : List (List Nat) × Nat := if t.1.contains (s.kKey e.2) then t else (s.kKey e.2 :: t.1, t.2 + e.2.plates.length)
  (l.foldl one ([], 0)).2 + n ≤ Config.plateBuffer

/-- Is a request withdrawn, or about to be: its core has latched a pre-emption, or its team has halted (R98, R191)? -/
def heldReq (r : Kreq) : Bool := !isAgent r.gk && ((s.core (coreOf r.gk)).preempt.isSome || (s.team (teamOf r.gk)).halted)

end State

/-- A REQUEST BECOMES ELIGIBLE once its plates and scales are present (R187). -/
def execKilnEligible (req : Nat) (s : State) : Out :=
  match s.kreq? req with
  | none => .next s
  | some r =>
    if r.eligible then .next s else
    let op := (r.ops.headD (0, 0)).2
    let o := s.op op
    let k := kWord r.fmt
    let again (t : State) : Out := .next (t.post [.kilnEligible req])
    if (r.ops.any fun e => s.priorStores (s.op e.2) (opSnap o)) || s.platesAbsent o || !s.plateRoom r (srcRanges o).length then again s else
    match State.fetchPlates op o k r.mode (srcRanges o) s [] with
    | (.bad b, _) => .next (s.failReq req r b)
    | (.wait t, _) => again t
    | (.ok _ t, plates) =>
      let n := r.steps / kDigits k.a k.w
      let e := if kIsWin k.a then 2 else 1
      let done (v : State) (sc : List Nat) : Out :=
        let v1 := r.ops.foldl (fun u q => u.modOp q.2 fun p => { p with args := [opSnap p] }) v
        .next (State.post { v1 with kreqs := tabPut v1.kreqs req { r with plates, scales := sc, eligible := true, miss := false } } [.kilnFire r.chamber])
      if kScaled k.a then
        let m := kCount k r.mode n
        match State.fetchScales op o (r.chamber / 2) (s.grid (s.team (teamOf r.gk)).grid).scales r.sel.toNat m e t with
        | (.ok x v, _) => done v ((List.range m).map fun j => x / 256 ^ (e * j) % 256 ^ e)
        | (.bad b, _) => .next (t.failReq req r b)
        | (.wait v, miss) => again { v with kreqs := tabPut v.kreqs req { r with miss } }
      else done t []

/-- The accumulator of one lane after a pass (R171). -/
def kAcc (k : KWord) (mode : Nat) (digits : List Nat) (plates : List Int) : Int :=
  let d := kDigits k.a k.w
  let digit (i : Nat) : Int :=
    let x := digits.getD i 0
    if k.a = 0 then (match x with | 1 => 1 | 3 => -1 | _ => 0)
    else if i % d = d - 1 && k.a ≠ 2 && k.a ≠ 4 then toSigned 8 x else (x : Int)
  let plate (t : Nat) : Int := plates.getD (if mode = 1 then 0 else t) 0
  let shift (i : Nat) : Nat := 8 * (i % d) + (if mode = 1 then kSlot k * (i / d) else 0)
  let sum := (List.range digits.length).foldl (fun (z : Int) i => z + digit i * plate (i / d) * (2 ^ shift i : Nat)) 0
  toSigned 4608 (wrapNat 4608 sum)

namespace State
variable (s : State)

/-- First cycle at which a chamber can start a pass (R189). -/
def chamberFree (ch : Nat) : Nat :=
  s.kreqs.foldl (fun m e => if e.2.chamber = ch then match e.2.fired with | some f => max m (f + e.2.steps) | none => m else m) 0

/-- Eligible requests of a chamber that have not fired. -/
def unfired (ch : Nat) : Tab Kreq := s.kreqs.filter fun e => e.2.chamber = ch && e.2.eligible && e.2.fired.isNone

/-- Is a chamber stalled by a line of scales that a request of it waits for (R187)? -/
def chamberStalled (ch : Nat) : Bool := s.kreqs.any fun e => e.2.chamber = ch && e.2.miss && e.2.fired.isNone

/-- The eligible requests of a chamber that may fire, oldest first, as fusion sets of at most 32 (R187). -/
def fusionSets (ch : Nat) : List (List (Nat × Kreq)) :=
  let l := (s.unfired ch).filter fun e => !s.heldReq e.2
  l.filterMap fun e =>
    let same := l.filter fun f => s.kKey f.2 = s.kKey e.2
    if (same.headD e).1 = e.1 then some (same.take 32) else none

end State

/-- A CHAMBER FIRES A PASS (R187, R189): of the sets that are full or whose oldest request has waited 64 cycles, the one whose oldest request has the highest priority, then the oldest. -/
def execKilnFire (chamber : Nat) (s : State) : Out :=
  let sets := s.fusionSets chamber
  if s.unfired chamber = [] then .next s else
  let head (l : List (Nat × Kreq)) : Nat × Nat × Nat := match l with | e :: _ => (e.2.prio, e.2.issued, e.1) | [] => (0, 0, 0)
  let ready := sets.filter fun l => l.length = 32 || (head l).2.1 + 64 ≤ s.cycle
  if ready = [] || s.chamberStalled chamber || s.cycle < s.chamberFree chamber then .next (s.post [.kilnFire chamber]) else
  let better (a b : List (Nat × Kreq)) : Bool :=
    let x := head a
    let y := head b
    y.1 < x.1 || (x.1 = y.1 && (x.2.1 < y.2.1 || (x.2.1 = y.2.1 && x.2.2 < y.2.2)))
  let pick (best : List (Nat × Kreq)) (l : List (Nat × Kreq)) : List (Nat × Kreq) := if best = [] || better l best then l else best
  let chosen := ready.foldl pick []
  let fire (t : State) (e : Nat × Kreq) : State :=
    let r := e.2
    let acc := r.digits.map fun d => (d.1, kAcc (kWord r.fmt) r.mode d.2 r.plates)
    State.post { t with kreqs := tabPut t.kreqs e.1 { r with fired := some s.cycle, acc } } (r.ops.map fun o => .kilnOutput e.1 o.1)
  let s1 := ((chosen.foldl fire s).tally 10).tally 9 (chosen.foldl (fun m e => max m e.2.steps) 0)
  .next (if chosen.length < (s.unfired chamber).length then s1.post [.kilnFire chamber] else s1)

/-- The weight of slot j for a lane (R173, R182). -/
def kSlotWeight (k : KWord) (ascale : Word) (scales : List Nat) (j : Nat) : KWeight :=
  if kIsInt k.a then ⟨(if k.a = 7 then -9 else 0) + (if k.b = 7 then -9 else 0), false⟩
  else if kIsBlock k.a then
    let a := ascale.toNat % 256
    let b := scales.getD j 0
    ⟨(a : Int) - 127 + ((b : Int) - 127), a = 255 || b = 255⟩
  else
    let a := ascale.toNat % 65536
    let b := scales.getD j 0
    ⟨toSigned 16 a + toSigned 16 b, a = 0x8000 || b = 0x8000⟩

/-- One output element: the new value from the old, and its flags (R181). The sum c and its weight are exact. -/
def kUpdate (out : Nat) (c : Int) (w : KWeight) (old : Nat) : Nat × DWord :=
  if out = 1 then
    let z := toSigned 32 old + c
    let r := clampInt (-(2 ^ 31 : Nat)) ((2 ^ 31 : Nat) - 1) z
    (wrapNat 32 r, flagIf (r ≠ z) Flag.ksat)
  else
    let f : FloatFmt := match out with | 2 => .fp32 | 3 => .fp64 | _ => .bf16
    let v : FVal := if w.nan then .nan else .fin (decide (c < 0)) c.natAbs w.e
    let r := outOf f .rne false (addVal .rne (decodeFloat f old) v)
    (r.1.toNat, r.2)

namespace State
variable (s : State)

/-- The body of a remote Kiln update: output code, sign and magnitude, weight, NaN (R181 at another device). -/
def kilnBody (n out : Nat) (c : Int) (w : KWeight) : List Nat :=
  [n, 16 + out, if c < 0 then 1 else 0, c.natAbs, (w.e + 2 ^ 20).toNat, if w.nan then 1 else 0]

/-- An update of one element in place (R181): an atomic for a plain page or array, a load and a store of the element on an exact-sum page (R153). -/
def kilnPut (op : Nat) (o : Op) (a n : Nat) (f : Nat → Nat × DWord) (body : List Nat) (key : Nat) : EngWrite × DWord :=
  if apertureOf a ≠ .glob then
    let old := s.arrayBytes o.gk o.lane a n
    let r := f old
    let q := s.putArray o.gk o.lane a r.1 n
    (.ok q.1 q.2, r.2)
  else
    let c := coreOf o.gk
    let xs : Bool := match s.peek c o.asid a with | .page _ p _ => Pte.xs p | _ => false
    if xs then
      match s.readGlobal c o.asid o.ctx a n .engine with
      | .ok old _ t => let r := f old; (t.engWrite op o a n r.1 key, r.2)
      | .bad b => (.bad b, 0)
      | .fault va => match s.engFault o.asid o.ctx va with | .bad b => (.bad b, 0) | .wait t => (.wait t, 0) | .ok _ t => (.wait t, 0)
      | .wait t => (.wait t, 0)
      | .away _ => (.wait s, 0)
    else
      match s.atomGlobal c o.asid a n ⟨fun old => (f old).1, none⟩ with
      | .ok old p t => (.ok p t, (f old).2)
      | .bad b => (.bad b, 0)
      | .fault va => match s.engFault o.asid o.ctx va with | .bad b => (.bad b, 0) | .wait t => (.wait t, 0) | .ok _ t => (.wait t, 0)
      | .wait t => (.wait t, 0)
      | .away origin =>
        if s.remoteBusy (opWaiter op) key then (.wait s, 0) else
        match s.downFor origin o.asid a with
        | some d => (.bad ⟨Cause.remote, 0, d, 0⟩, 0)
        | none => (.wait (s.remoteIssue origin o.asid a Pk.update body (opWaiter op) key), 0)

/-- A lane's part of a request has ended; a request whose parts have all ended leaves (R186). -/
def settleReq (req : Nat) : State :=
  match s.kreq? req with
  | none => s
  | some r => if r.ops.all fun o => (s.op o.2).st ≠ .pending then { s with kreqs := tabDel s.kreqs req } else s

/-- One output element of a lane has been written. -/
def kilnDone (op key d p : Nat) : State := s.modOp op fun o => ({ o with todo := o.todo.filter (· ≠ key) } : Op).wrote d p

/-- Write one output element of a lane (R181): one single-copy update. A raw image goes out in units of 16 bytes. -/
def kilnElem (op : Nat) (r : Kreq) (j : Nat) : Except Bad (Bool × State) :=
  let o := s.op op
  let k := kWord r.fmt
  let n := if k.out = 0 then 16 else kOutBytes k.out
  let a := (tabGet 0 r.dst o.lane).toNat + n * j
  let c := (kExtract (kSlot k) (if k.out = 0 then 0 else j + 1) (tabGet 0 r.acc o.lane)).getD j 0
  let w := kSlotWeight k (tabGet 0 r.ascale o.lane) r.scales j
  let res : EngWrite × DWord :=
    if k.out = 0 then (s.engWrite op o a 16 (wrapNat 4608 (tabGet 0 r.acc o.lane) / 2 ^ (128 * j) % 2 ^ 128) j, 0)
    else s.kilnPut op o a n (kUpdate k.out c w) (kilnBody n k.out c w) j
  match res.1 with
  | .ok p v => .ok (true, (v.kilnDone op j v.devid p).addStatus r.gk res.2)
  | .bad b => .error b
  | .wait v => .ok (false, v)

/-- Does an older pass of the same lane still have outputs to write (R188)? -/
def olderPass (op : Nat) (o : Op) : Bool :=
  s.ops.any fun e => e.1 < op && e.2.st = .pending && (e.2.kind = .kpass || e.2.kind = .kwin) && e.2.gk = o.gk && e.2.lane = o.lane

end State

namespace State
variable (s : State)

/-- The next output element of a lane, when it may be written; a lane without elements left has ended (R180, R181, R188). -/
def laneOutput (req : Nat) (r : Kreq) (op : Nat) : State :=
  let ends (t : State) : State := ((t.endOp op 0).wakeHandles).settleReq req
  match (s.op op).todo with
  -- another device has answered the last update
  | [] => ends s
  | j :: _ =>
    match s.kilnElem op r j with
    | .error b => (s.failOp op b).settleReq req
    | .ok (_, t) => if (t.op op).todo = [] then ends t else t

/-- Write what a fired lane still has to write into a scratchpad or vault (R98, R191). -/
def flushLane (req : Nat) (r : Kreq) (op : Nat) : Nat → State → State
  | 0, u => u
  | n + 1, u => if (u.op op).st ≠ .pending || u.olderPass op (u.op op) then u else flushLane req r op n (u.laneOutput req r op)

/-- THE LAST CYCLES BEFORE A HALT (R98, R191): every output of the team's fired passes for TEAM, CLUS and VAULT is performed, each lane's in issue order. -/
def flushOutputs (tk : Nat) : State :=
  let parts := s.kreqs.flatMap fun e => if !isAgent e.2.gk && teamOf e.2.gk = tk && e.2.fired.isSome then e.2.ops.map fun q => (q.2, e.1, e.2, q.1) else []
  let near := parts.filter fun p => apertureOf (tabGet 0 p.2.2.1.dst p.2.2.2).toNat ≠ .glob
  (sortBy (fun a b => a.1 ≤ b.1) near).foldl (fun u p => flushLane p.2.1 p.2.2.1 p.1 ((u.op p.1).todo.length) u) s

end State

/-- A LANE'S OUTPUT IS WRITTEN (R181, R188, R189): one element at a time, in issue order with the lane's other passes, from 80 cycles after the last step. -/
def execKilnOutput (req lane : Nat) (s : State) : Out :=
  match s.kreq? req with
  | none => .next s
  | some r =>
    let op := tabGet 0 r.ops lane
    let o := s.op op
    if op = 0 || o.st ≠ .pending then .next (s.settleReq req) else
    match r.fired with
    | none => .next s
    | some f =>
      if s.cycle < f + r.steps + 80 || s.olderPass op o then .next (s.post [.kilnOutput req lane]) else
      let t := s.laneOutput req r op
      if (t.op op).st ≠ .pending || t.remoteBusy (opWaiter op) ((t.op op).todo.headD 0) then .next t else .next (t.post [.kilnOutput req lane])

end Sys2Proof.Machine
end

