-- ==== Sys2Proof/Machine/Share.lean ====
section
/-! DEFINITION. Pages shared across the pod: remote accesses and their responses, the owner cache, stubs, and migration (R127 to R135, R205, R363, R380). -/

namespace Sys2Proof.Machine

namespace State
variable (s : State)

/-- A line of another device cannot be had: the first path that tries to issue from it takes the trap, at its PC (R47, R95, R204). -/
def fetchTrap (c asid va : Nat) (b : Bad) : State :=
  s.modCore c fun k => { k with noLine := tabPut k.noLine (farKey asid va) (b.cause, b.sub, b.detail) }

/-- The events that take up what an operation has left to do. -/
def opEvents (i : Nat) : List Instr :=
  let o := s.op i
  match o.kind with
  | .copy | .tile => o.todo.map fun l => .copyLineWrite i l
  | .kpass | .kwin =>
    match s.kreqs.find? fun e => e.2.ops.any fun q => q.2 = i with
    | some e => if e.2.eligible then [.kilnOutput e.1 o.lane] else [.kilnEligible e.1]
    | none => []
  | .ffence => [.ffenceFlagStore i]
  | .fsend => o.todo.map fun b => .flowBlockSend (o.args.headD 0) b (if ((s.flow? (o.args.headD 0)).any fun f => f.multi) then 16 else 0)
  | _ => []

/-- An access to another device has failed (R204): the instruction traps, the operation's handle fails. -/
def failAccess (acc : Nat) (b : Bad) : State :=
  match tabFind s.share.remote acc with
  | none => s
  | some r =>
    let s0 := { s with share := { s.share with remote := tabDel s.share.remote acc } }
    let s1 := s0.settleOwner (pageKey r.pkt.asid r.pkt.va)
    if r.entry = 0 then s1.fetchTrap r.lane r.pkt.asid r.pkt.va b
    else if r.entry < 2 ^ 64 then
      match s1.log? r.entry with
      -- a team that is switched out or halts meets the failure when the entry is replayed (R98)
      | some e =>
        -- the parts that the request stands for: a load event's on its line, or one part
        let l := if r.pkt.op = Pk.load && e.kind ≠ .prefetch then s1.lineParts r else [(r.entry, r.lane, 0)]
        if s1.quiet e.gk then l.foldl (fun t p => t.setPart p.1 p.2.1 .todo) s1
        else (l.map (·.1)).eraseDups.foldl (fun t id => let m := s1.servedLanes id l; t.logTrap id b m (match s1.log? id with | some f => tabGet 0 f.addr (lowLane m) | none => r.pkt.va)) s1
      | none => s1
    else if r.entry < 2 ^ 65 then
      let i := r.entry - 2 ^ 64
      match s1.kreqs.find? fun e => e.2.ops.any (fun q => q.2 = i) && !e.2.eligible with
      | some e => s1.failReq e.1 e.2 { b with addr := r.pkt.va }
      | none => s1.failOp i { b with addr := r.pkt.va }
    else s1.addReply ⟨r.entry, r.lane, 0, 0, 0, some (b.cause, b.sub, b.detail)⟩

/-- Replace bytes of a core's copy of another device's line. -/
def updateFar (c asid va x n : Nat) : State :=
  let k := farLine asid va
  match tabFind (s.core c).l1 k with
  | none => s
  | some l => s.modCore c fun q => { q with l1 := tabPut q.l1 k { l with data := l.data.take (va % 128) ++ bytesOf x n ++ l.data.drop (va % 128 + n) } }

/-- A copy of another device's line leaves the L1 of the core that a group is on; of a group that is switched out, every core's (R141, R285). -/
def dropFar (gk asid va : Nat) : State :=
  if switchedOut gk then { s with cores := s.cores.map fun e => (e.1, { e.2 with l1 := tabDel e.2.l1 (farLine asid va) }) }
  else s.modCore (coreOf gk) fun q => { q with l1 := tabDel q.l1 (farLine asid va) }

/-- A LINE OF INSTRUCTIONS FROM ANOTHER DEVICE (R47, R49): a parity disagreement of the first copy makes the core fetch the line once more. -/
def farLineIn (c asid va x : Nat) (second : Bool) : State :=
  let l := BitVec.ofNat 512 x
  if parityMask l ≠ 0 && !second then s.remoteIssue (s.originOf asid va) asid va Pk.load [64, 3] 0 c
  else s.modCore c fun k => { k with icache := tabPut k.icache (farKey asid va) (l, parityMask l ≠ 0) }

/-- THE RESPONSE to an access of this device: bytes or old value, performed time, and a line with its lease for a cached load. A store's or atomic's performed time counts for FFENCE under the device that performed it (R155). -/
def applyResponse (r : Remote) (p : Pkt) : State :=
  let x := p.arg 2
  let t := p.arg 3
  let asid := r.pkt.asid
  let va := r.pkt.va
  let keep (u : State) (c : Nat) : State :=
    if p.arg 8 = 0 then u else u.putL1 c (farLine asid va) { data := bytesOf (p.arg 9) 128, expiry := p.arg 8, row1 := false, ctx := 0, remote := true }
  let dev := p.arg 5
  if r.entry = 0 then s.farLineIn r.lane asid va x (r.pkt.arg 3 = 3)
  else if r.entry < 2 ^ 64 then
    match s.log? r.entry with
    | none => s
    | some e =>
      let k := r.lane
      let c := coreOf e.gk
      match e.kind with
      | .load | .acquire | .lineLoad =>
        -- every part of the event on the line takes its bytes of it (R344, R347)
        let l := s.lineParts r
        let take (u : State) (q : Nat × Nat × Nat) : State := u.modLog q.1 fun f =>
          { f with got := tabPut f.got (q.2.1 / 64) (x / 256 ^ (partAddr f q.2.1 % 128) % 256 ^ q.2.2), st := tabPut f.st q.2.1 .done, tr := max f.tr t }
        (l.foldl take (keep s c)).post ((l.map (·.1)).eraseDups.map fun id => .loadReturn id)
      | .prefetch => ((keep s c).setPart r.entry k .done).post [.loadReturn r.entry]
      | .store | .release =>
        ((((s.updateFar c asid va (tabGet 0 e.data k) e.unit).setPart r.entry k .done).noteStore e.gk (partLanes e k) t).noteFar e.gk (partLanes e k) dev t r.entry).post [.storePerformed r.entry (k / 64)]
      | .lineStore =>
        let word (u : State) (w : Nat × Nat) : State := u.updateFar c asid (va + 4 * w.1) w.2 4
        (((((lineWords e).foldl word s).setPart r.entry k .done).noteStore e.gk e.lanes t).noteFar e.gk e.lanes dev t r.entry).post [.storePerformed r.entry (k / 64)]
      | .atomic =>
        -- the copy no longer holds the line's bytes (R139, R141)
        ((((s.dropFar e.gk asid va).modLog r.entry fun e => { e with got := tabPut e.got (k / 64) x, st := tabPut e.st k .done, tr := max e.tr t }).noteAtomic e.gk (partLanes e k) t e.scope).noteFar
            e.gk (partLanes e k) dev t r.entry).post
          [.homeAtomic r.entry (k / 64)]
  else if r.entry < 2 ^ 65 then
    let i := r.entry - 2 ^ 64
    let o := s.op i
    if r.pkt.op = Pk.load then
      let s1 := s.modOp i fun o => { o with got := tabPut o.got r.lane x }
      s1.post (s1.opEvents i)
    else
      -- the line leaves the issuing core's L1 (R113)
      let s0 := s.dropFar o.gk asid va
      let s1 := match o.kind with
        | .copy | .tile => s0.copyLineDone i (r.lane - 2 ^ 64) dev t
        | .kpass | .kwin => (s0.kilnDone i r.lane dev t).addStatus o.gk (BitVec.ofNat 64 (p.arg 10))
        | .ffence => (s0.modOp i fun o => { o with perf := t }).endOp i 0
        | _ => s0
      match o.kind with
      | .kpass | .kwin => s1.post (s1.opEvents i)
      | _ => s1
  else
    -- an access without a log entry takes its answer; KSTAB's write updates the core's copy of the line (R139)
    let c := waiterCore r.entry
    let s1 := if r.pkt.op = Pk.store then s.updateFar c asid va (r.pkt.arg 3) (r.pkt.arg 2) else if r.pkt.op = Pk.load then keep s c else s.modCore c fun q => { q with l1 := tabDel q.l1 (farLine asid va) }
    s1.addReply ⟨r.entry, r.lane, if r.pkt.op = Pk.store then r.pkt.arg 3 else x, t, dev, none⟩

/-- A redirect names a page's owner and generation (R133). -/
def redirectIn (k owner gen : Nat) : State :=
  match s.owner? k with
  | none => s
  | some e =>
    if e.owner = unknownOwner || gen ≤ e.gen then s else
    let s1 := s.setOwner k { e with owner, gen, pending := true }
    if owner = s.devid then s1 else s1.settleOwner k

/-- An access has been answered. -/
def answerIn (p : Pkt) : State :=
  match tabFind s.share.remote (p.arg 0) with
  | none => s
  | some r =>
    let k := pageKey r.pkt.asid r.pkt.va
    let s0 := if p.arg 4 = 0 then s else
      match s.owner? k with
      | some e => if e.owner ≠ unknownOwner && e.gen < p.arg 4 - 1 then s.setOwner k { e with owner := p.arg 5, gen := p.arg 4 - 1, pending := true } else s
      | none => s
    if p.arg 1 = 0 then (State.settleOwner { s0 with share := { s0.share with remote := tabDel s0.share.remote (p.arg 0) } } k).applyResponse r p
    else s0.failAccess (p.arg 0) ⟨p.arg 6, p.arg 11, p.arg 7, 0⟩

/-- Place of an S page that HOST owns, in host memory. DESIGN CHOICE (log 22): the spec gives it no address. -/
def hostPlace (asid va : Nat) : Nat := 2 ^ 80 + 2 ^ 57 * asid + va % 2 ^ 57

/-- Send the response of an access to its requester (R133, R205). -/
def respond (p : Pkt) (redirect : Nat) (fail x t : Nat) (rest : List Nat) : State :=
  s.sendMsg (p.arg 1) 0 Pk.response p.asid p.va ([p.arg 0, fail, x, t, redirect, s.devid] ++ rest)

/-- Words of a line store as a packet carries them: word number and value. -/
def packetWords (p : Pkt) : List (Nat × Nat) :=
  let l := p.body.drop 3
  (List.range (l.length / 2)).map fun i => (l.getD (2 * i) 0, l.getD (2 * i + 1) 0)

/-- Does HOST hold a page of which this module is the origin: by the directory, or because a migration to HOST has been installed (R130, R137)? -/
def hostHas (k : Nat) : Bool :=
  (s.dir? k).any (fun d => d.owner = hostOwner) || ((tabFind s.share.migs (2 ^ 57 + k)).any fun m => m.toHost && m.installed)

/-- The work of one access at this device. -/
def accessHere (p : Pkt) (asid ctx : Nat) : Acc :=
  let va := p.va
  let n := p.arg 2
  if p.op = Pk.load then s.readGlobal portCore asid ctx va n .engine (if 2 ≤ p.arg 3 then 4 else 1) -- a fetch needs X (R47)
  else if p.op = Pk.store then
    if n = 256 then s.writeWords (s.wideSum portCore asid va) (fun u a n x => u.writeGlobal portCore asid a n x) va (packetWords p) -- a STLN's words (R349)
    else s.writeGlobal portCore asid va n (p.arg 3)
  else if p.op = Pk.update then
    -- a Kiln's update of one element (R181)
    let c : Int := if p.arg 4 = 1 then -(p.arg 5 : Int) else p.arg 5
    s.atomGlobal portCore asid va n ⟨fun old => (kUpdate (p.arg 3 - 16) c ⟨(p.arg 6 : Int) - 2 ^ 20, p.arg 7 = 1⟩ old).1, none⟩
  else s.atomGlobal portCore asid va n (atomOp (atomFrom (p.arg 5) (p.arg 6) (p.arg 7)) (p.arg 3) (p.arg 4))

/-- Flags that a Kiln's update raises, from the old value. -/
def accessFlags (p : Pkt) (old : Nat) : Nat :=
  if p.op = Pk.update then
    let c : Int := if p.arg 4 = 1 then -(p.arg 5 : Int) else p.arg 5
    (kUpdate (p.arg 3 - 16) c ⟨(p.arg 6 : Int) - 2 ^ 20, p.arg 7 = 1⟩ old).2.toNat
  else 0

/-- A line of HOST's page that is written after it was sent is marked in the migration's dirty map (R130). -/
def markHostDirty (k va : Nat) : State :=
  let line := va % 65536 / 128
  match (tabFind s.share.migs k).filter fun m => m.old && m.host && line < m.copied && !m.dirty.contains line with
  | some m => { s with share := { s.share with migs := tabPut s.share.migs k { m with dirty := line :: m.dirty } } }
  | none => s

/-- The same on host memory, which the origin reaches through CXL.cache (R137, R139). -/
def accessHost (p : Pkt) : Nat × State :=
  let a := hostPlace p.asid p.va
  let n := p.arg 2
  let old := memNat s.mem.host a (if n = 256 then 0 else n)
  let dirty (h : List Host.Cell) : State := State.markHostDirty { s with mem := { s.mem with host := h } } (pageKey p.asid p.va) p.va
  let put (x : Nat) : State := dirty (memPut s.mem.host a x n)
  if p.op = Pk.load then (old, s)
  else if p.op = Pk.store then
    if n = 256 then (0, dirty ((packetWords p).foldl (fun t w => memPut t (a + 4 * w.1) w.2 4) s.mem.host)) -- a STLN's words (R349)
    else (0, put (p.arg 3))
  else if p.op = Pk.update then
    let c : Int := if p.arg 4 = 1 then -(p.arg 5 : Int) else p.arg 5
    (old, put (kUpdate (p.arg 3 - 16) c ⟨(p.arg 6 : Int) - 2 ^ 20, p.arg 7 = 1⟩ old).1)
  else (old, put ((atomOp (atomFrom (p.arg 5) (p.arg 6) (p.arg 7)) (p.arg 3) (p.arg 4)).new old))

/-- Requests parked in the fault queue (R205). -/
def parkedCount : Nat := s.fab.peers.foldl (fun n e => n + e.2.parked.length) 0
def unparkReq (p : Pkt) : State := s.modPeer (p.arg 1) fun r => { r with parked := r.parked.filter (· ≠ p) }
def parkReq (p : Pkt) : State := s.modPeer (p.arg 1) fun r => if r.parked.contains p then r else { r with parked := r.parked ++ [p] }

/-- Is an earlier access of the same requester to the same page still to be performed or relayed here? Accesses of one requester to one page go in issue order (R133). -/
def behindAccess (p : Pkt) : Bool :=
  s.agenda.any fun e => match e with
    | .remoteAccess q | .stubRelay q => q.arg 1 = p.arg 1 && pageKey q.asid q.va = pageKey p.asid p.va && q.arg 0 < p.arg 0
    | _ => false

/-- Is an access that this source sent earlier, and that is not parked, still to be performed here? Ordered packets take effect in their sequence (R203). -/
def behindSequence (p : Pkt) : Bool :=
  s.agenda.any fun e => match e with
    | .remoteAccess q => q.src = p.src && q.seq < p.seq && !(s.peer (q.arg 1)).parked.contains q
    | _ => false

end State

/-- A REMOTE ACCESS AT ITS TARGET (R131, R133, R135, R137, R205): relayed by a stub, held during a switchover, performed at the owner, parked on a fault, or answered STALE. -/
def execRemoteAccess (p : Pkt) (s : State) : Out :=
  let k := pageKey p.asid p.va
  let relayed : Bool := Pk.viaStub ≤ p.op
  let q : Pkt := if relayed then { p with op := p.op - Pk.viaStub, body := p.body.dropLast } else p
  let redirect := if relayed then p.body.getLastD 0 + 1 else 0
  let stale : Out := .next ((s.unparkReq p).sendMsg (q.arg 1) 0 Pk.stale q.asid q.va [q.arg 0])
  if s.behindAccess p || s.behindSequence p then .next (s.post [.remoteAccess p]) else
  if (tabFind s.share.stubs k).isSome then .next (s.post [.stubRelay p]) else
  match (tabFind s.share.migs k).filter fun m => m.old && m.switched with
  | some m => .next { s with share := { s.share with migs := tabPut s.share.migs k { m with held := m.held ++ [p] } } }
  | none =>
    let ctx := s.ctxOf q.asid
    let fail (t : State) (b : State.Bad) : Out := .next ((t.unparkReq p).respond q redirect 1 0 0 [b.cause, b.detail, 0, 0, 0, b.sub])
    match s.accessHere q q.asid ctx with
    | .ok x t u =>
      let line := match u.peek portCore q.asid q.va with | .page pa e _ => if Pte.xs e then none else some (pa / 128) | _ => none
      let cached : Bool := q.op = Pk.load && q.arg 3 = 0 && q.va % 128 + q.arg 2 ≤ 128
      match line with
      | some l =>
        if cached then
          let e := u.leaseEnd l true
          .next (((u.raiseHorizon l e).unparkReq p).respond q redirect 0 x t [0, 0, e, natOf (u.lineBytes l), 0])
        else .next ((u.unparkReq p).respond q redirect 0 x t [0, 0, 0, 0, State.accessFlags q x])
      | none => .next ((u.unparkReq p).respond q redirect 0 x t [0, 0, 0, 0, State.accessFlags q x])
    | .bad b => fail s b
    | .wait t => .next (t.post [.remoteAccess p])
    | .away o =>
      match (if o = s.devid && s.hostHas k then s.dir? k else none) with
      | some d =>
        let r := s.accessHost q
        .next ((r.2.unparkReq p).respond q redirect 0 r.1 (max (s.sliceTime 0) d.horizon) [0, 0, 0, 0, State.accessFlags q r.1])
      | none => stale
    | .fault va =>
      match s.walk q.asid va, s.serviceFault q.asid ctx va with
      -- this device holds neither the page nor a stub (R135); an absent accumulator fails the access (R152)
      | .absent 0 _ _, r => if va = q.va then stale else fail s (match r with | .bad b => b | _ => ⟨Cause.nomap, 0, 0, 0⟩)
      | _, .bad b => fail s b
      | _, r =>
        if !(s.peer (q.arg 1)).parked.contains p && Config.faultQueue ≤ s.parkedCount then .next (s.sendMsg (q.arg 1) 0 Pk.nackRetry q.asid q.va [q.arg 0])
        else
          let t := match r with | .ok t => (t.tally 11).walkServed q.asid va | .pull d f => s.startPull d f | _ => s
          .next (((t.parkReq p).post [.remoteAccess p]).postOnce .keepWaiting)

/-- A STUB RELAYS an access to its pointer and does not perform it (R133). -/
def execStubRelay (p : Pkt) (s : State) : Out :=
  let k := pageKey p.asid p.va
  match tabFind s.share.stubs k with
  | none => .next (s.post [.remoteAccess p])
  | some st =>
    if s.behindAccess p then .next (s.post [.stubRelay p]) else
    let body := if Pk.viaStub ≤ p.op then p.body.dropLast else p.body
    .next (s.sendMsg st.target 0 (p.op % Pk.viaStub + Pk.viaStub) p.asid p.va (body ++ [st.gen]))

/-- THE ORIGIN'S ANSWER to an owner-cache miss (R123, R128): the entry is filled for 500 µs, and the accesses that waited go out; unmapped at the origin, they fail. -/
def execOwnerCacheQuery (asid vpn : Nat) (answer : Option (Nat × Nat)) (s : State) : Out :=
  let k := 2 ^ 41 * asid + vpn % 2 ^ 41
  let held := ((s.owner? k).map fun e => e.held).getD []
  -- a page that this device has come to own needs no entry (R128)
  if s.ownsPage k then .next (held.foldl (fun t p => t.sendAccess s.devid (p.arg 0) p) (s.dropOwner k)) else
  let own : Option (Nat × Nat) :=
    if s.originOf asid (65536 * vpn) = s.devid then (s.dir? k).map fun d => (d.owner, d.gen) else answer
  match own with
  | none =>
    .next (held.foldl (fun t p => t.failAccess (p.arg 0) ⟨Cause.nomap, 0, 0, 0⟩) (s.dropOwner k))
  | some (o, g) =>
    let d := ownerDevice (s.originOf asid (65536 * vpn)) o
    if s.peerDown d then
      .next (held.foldl (fun t p => t.failAccess (p.arg 0) ⟨Cause.remote, 0, d, 0⟩) (s.dropOwner k))
    else
      let s1 := (s.setOwner k ⟨o, g, false, s.now + 500000, 0, held⟩).releaseHeld k
      -- a device keeps no entry for a page that it owns (R128)
      .next (if o = s.devid then s1.dropOwner k else s1)

/-- OWNER-CACHE ENTRIES EXPIRE 500 µs after they were filled; a PENDING entry stays until it leaves PENDING (R128). -/
def execOwnerCacheExpiry (s : State) : Out :=
  .next { s with share := { s.share with owners := s.share.owners.filter fun e => e.2.pending || s.now < e.2.expiry } }

/-- A REDIRECT (R133). -/
def execRedirect (asid vpn owner gen : Nat) (s : State) : Out := .next (s.redirectIn (2 ^ 41 * asid + vpn % 2 ^ 41) owner gen)

/-- A PENDING ENTRY whose count of accesses through the stub is 0 becomes VALID, and the waiting accesses go to the owner (R133). -/
def execPendingDrain (asid vpn : Nat) (s : State) : Out :=
  let k := 2 ^ 41 * asid + vpn % 2 ^ 41
  match s.owner? k with
  | some e =>
    if e.pending && e.owner ≠ unknownOwner && s.throughOf k = 0 then
      let s1 := (s.setOwner k { e with pending := false, through := 0 }).releaseHeld k
      .next (if e.expiry ≤ s.now then s1.dropOwner k else s1)
    else .next s
  | none => .next s

/-- STALE (R135): the requester drops its entry and asks the origin; the accesses that wait go with the new answer. -/
def execStale (asid vpn : Nat) (s : State) : Out :=
  let k := 2 ^ 41 * asid + vpn % 2 ^ 41
  let held := ((s.owner? k).map fun e => e.held).getD []
  let s1 := s.dropOwner k
  if held = [] then .next s1 else
  .next ((s1.setOwner k ⟨unknownOwner, 0, true, s.now, 0, held⟩).askOwner (s.originOf asid (65536 * vpn)) asid (65536 * vpn))

namespace State
variable (s : State)

/-- An access that was answered STALE waits for the new answer (R135). -/
def staleIn (p : Pkt) : State :=
  match tabFind s.share.remote (p.arg 0) with
  | none => s
  | some r =>
    let k := pageKey r.pkt.asid r.pkt.va
    let held := ((s.owner? k).map fun e => e.held).getD []
    let asking : Bool := (s.owner? k).any fun e => e.owner = unknownOwner
    let back := { s with share := { s.share with remote := tabPut s.share.remote (p.arg 0) { r with peer := unknownOwner, stamp := 0 } } }
    let s1 := back.setOwner k ⟨unknownOwner, 0, true, s.now, 0, held ++ [r.pkt]⟩
    if asking then s1 else s1.askOwner (s.originOf r.pkt.asid r.pkt.va) r.pkt.asid r.pkt.va

/-- This device's part in a page's migration, as old owner and as new owner. It holds both when HOST, which it stands for as the origin, is one of them. -/
def newKey (k : Nat) : Nat := 2 ^ 57 + k
def migOld (k : Nat) : Option Mig := tabFind s.share.migs k
def migNew (k : Nat) : Option Mig := tabFind s.share.migs (newKey k)
def setMig (k : Nat) (m : Mig) : State := { s with share := { s.share with migs := tabPut s.share.migs (if m.old then k else newKey k) m } }
def dropOld (k : Nat) : State := { s with share := { s.share with migs := tabDel s.share.migs k } }
def dropNew (k : Nat) : State := { s with share := { s.share with migs := tabDel s.share.migs (newKey k) } }

/-- P of a frame (R124, R130). -/
def pinFrame (pa : Nat) (p : Bool) : State :=
  let f := s.frameOf (pa / 65536)
  { s with mem := { s.mem with frames := tabSet Frame.free s.mem.frames (pa / 65536) { f with p } } }
/-- A frame is free again, and reads zero (R101, R379). -/
def freeFrameAt (pa : Nat) : State :=
  { s with mem := { s.mem with frames := tabDel s.mem.frames (pa / 65536), dram := s.mem.dram.filter fun b => b.1 / 65536 ≠ pa / 65536 } }

/-- Tag of a MIGRATE packet's request: the device that took the packet, its queue and its sequence, above every operation's number. -/
def packetTag (dev q seq : Nat) : Nat := 2 ^ 64 * (1 + dev) + q * 2 ^ 48 + seq
def tagDevice (tag : Nat) : Nat := tag / 2 ^ 64 - 1
/-- The result of a migration request at the device that made it (R129): a PMIG's handle, or a MIGRATE packet's completion. -/
def migResult (tag code detail : Nat) : State :=
  if 2 ^ 64 ≤ tag then
    if tagDevice tag = s.devid then s.post [.packetComplete (tag % 2 ^ 64 / 2 ^ 48) (tag % 2 ^ 48) (0x100 + code) 0]
    else s.sendMsg (tagDevice tag) 0 Pk.result 0 0 [tag, code, detail]
  else if tag = 0 then s
  else if (s.op tag).st = .pending then ((s.modOp tag fun o => { o with detail }).endOp tag code).wakeHandles else s

/-- Tell a requester its result. A MIGRATE packet's failure goes to the device that took the packet. -/
def sendResult (k n tag code detail : Nat) : State := s.sendMsg (if 2 ^ 64 ≤ tag && code ≠ 0 then tagDevice tag else n) 0 Pk.result (keyAsid k) (keyVa k) [tag, code, detail]

/-- Does a running grid of this device map the page with K (R129)? A grid runs until its kernel boundary (R140). -/
def kMapped (k : Nat) : Bool :=
  match s.walk (keyAsid k) (keyVa k) with
  | .page _ e _ => Pte.k e && s.grids.any fun g => g.2.asid = keyAsid k
  | _ => false

/-- Queue a migration request at the origin (R129). -/
def requestMig (k n tag : Nat) : State :=
  match s.dir? k with
  | none => s.sendResult k n tag 0x0B 0
  | some d => (s.setDir k { d with queue := d.queue ++ [(n, tag)] }).postOnce (.migrateGrant (keyAsid k) (k % 2 ^ 41))

/-- FIRMWARE ASKS FOR A MIGRATION (R129) of a page of a context to a device; the origin decides, and no handle or packet takes the result. DESIGN CHOICE (log 116): how the request comes. -/
def firmwareMig (asid va n : Nat) : State :=
  match s.walk asid va with
  | .page _ e _ => if Pte.s e && n < s.fab.n then s.sendMsg (Pte.origin e) 0 Pk.migRequest asid (va / 65536 * 65536) [n, 0] else s
  | .elsewhere o => if n < s.fab.n then s.sendMsg o 0 Pk.migRequest asid (va / 65536 * 65536) [n, 0] else s
  | _ => s

/-- The owner is asked whether a running grid maps the page with K, and answers once none does (R129). DESIGN CHOICE (log 95): the spec does not say how the origin learns it. -/
def askKIn (p : Pkt) : State :=
  if s.kMapped (pageKey p.asid p.va) then s.post [.transportReceive { p with src := s.devid, cls := 2 }] else s.sendMsg (p.arg 0) 0 Pk.clearK p.asid p.va []
def clearKIn (k : Nat) : State :=
  match tabFind s.share.dir k with
  | some d => if d.asked = 1 then (s.setDir k { d with asked := 2 }).postOnce (.migrateGrant (keyAsid k) (k % 2 ^ 41)) else s
  | none => s

end State

/-- THE ORIGIN GRANTS the next migration of a page (R129, R130, R134). A page that a running grid maps with K, here or at its owner, keeps its requests waiting. -/
def execMigrateGrant (asid vpn : Nat) (s : State) : Out :=
  let k := 2 ^ 41 * asid + vpn % 2 ^ 41
  let d := s.dirOf k
  match d.queue with
  | [] => .next s
  | (n, tag) :: rest =>
    if d.migrating.isSome || d.asked = 1 then .next s else
    let next (t : State) : State := if rest = [] then t else t.post [.migrateGrant asid vpn]
    let s1 := s.setDir k { d with queue := rest, asked := 0 }
    let o := ownerDevice s.devid d.owner
    let nd := ownerDevice s.devid n
    let stubs := (d.stubs.filter fun e => e.1 ≠ nd).length + 1
    if n = d.owner then .next (next (s1.sendResult k nd tag 0 n))
    else if s.peerDown nd || s.peerDown o then .next (next (s1.sendResult k n tag 0x12 d.owner))
    else if s.kMapped k then .next (s.post [.migrateGrant asid vpn])
    else if o ≠ s.devid && d.asked = 0 then .next ((s.setDir k { d with asked := 1 }).sendMsg o 0 Pk.askK asid (65536 * vpn) [s.devid])
    else if 4 < stubs then .next (next (s1.sendResult k n tag 0x81 d.owner))
    else
      let body := [d.owner, n, (d.gen + 1) % 65536, s.devid, tag]
      .next (((s1.setDir k { d with queue := rest, asked := 0, migrating := some (d.owner, n) }).sendMsg o 0 Pk.grant asid (65536 * vpn) body).sendMsg nd 0 Pk.grant asid (65536 * vpn) body)

namespace State
variable (s : State)

/-- A grant reaches O (R130 step 1), which pins its frame. HOST's lines are the origin's host memory. DESIGN CHOICE (log 118): HOST holds no leaf whose permissions N could take over, and N's has R and W, without X, K and C. -/
def grantOld (p : Pkt) : State :=
  let k := pageKey p.asid p.va
  let o := p.arg 0
  let m : Mig := { old := true, host := o = hostOwner, toHost := p.arg 1 = hostOwner, peer := ownerDevice (p.arg 3) (p.arg 1), origin := p.arg 3, pa := 0, leaf := 0x200000000000001B,
                   gen := p.arg 2, tag := p.arg 4, copied := 0, dirty := [], switched := false, held := [], horizon := 0, installed := false, acked := false, stood := false }
  if m.host then s.setMig k { m with horizon := (s.dirOf k).horizon } else
  match s.walk p.asid p.va with
  | .page pa e _ => (s.pinFrame pa true).setMig k { m with pa, leaf := e }
  | _ => s

/-- A grant reaches N (R130 step 1), which takes a zeroed frame and pulls lines 0 to 511; HOST takes no frame. Without a free frame the grant waits. -/
def grantNew (p : Pkt) : State :=
  let k := pageKey p.asid p.va
  let m : Mig := { old := false, host := p.arg 0 = hostOwner, toHost := p.arg 1 = hostOwner, peer := ownerDevice (p.arg 3) (p.arg 0), origin := p.arg 3, pa := 0, leaf := 0, gen := p.arg 2,
                   tag := p.arg 4, copied := 0, dirty := [], switched := false, held := [], horizon := 0, installed := false, acked := false, stood := false }
  let go (t : State) (m : Mig) : State := (t.setMig k m).post ((List.range 512).map fun i => .migrateCopy p.asid (k % 2 ^ 41) i)
  if m.toHost then go s m else
  match s.freeFrame with
  | none => s.post [.transportReceive { p with cls := 2, src := s.devid, op := Pk.grantFrame }]
  | some f => go ((s.takeFrame f (s.ctxOf p.asid)).pinFrame (f * 65536) true) { m with pa := f * 65536 }

/-- A grant reaches its parties. A module that is both, because HOST is one of them, gets it twice and takes each part once. -/
def grantIn (p : Pkt) : State :=
  let k := pageKey p.asid p.va
  if ownerDevice (p.arg 3) (p.arg 0) = s.devid && (s.migOld k).isNone then s.grantOld p
  else if ownerDevice (p.arg 3) (p.arg 1) = s.devid && (s.migNew k).isNone then s.grantNew p
  else s

/-- Bytes of a line of the page at the old owner: its frame, or host memory for HOST. -/
def migLine (k line : Nat) (m : Mig) : Nat :=
  if m.host then memNat s.mem.host (hostPlace (keyAsid k) (keyVa k) + 128 * line) 128 else memNat s.mem.dram (m.pa + 128 * line) 128

/-- A pull reaches O (R130 step 2): the line goes out; after the last, the switchover is due. -/
def pullIn (p : Pkt) : State :=
  let k := pageKey p.asid p.va
  match s.migOld k with
  | none => s
  | some m =>
    let line := p.arg 0
    if line < 512 then (s.setMig k { m with copied := max m.copied (line + 1) }).sendMsg m.peer 0 Pk.line p.asid p.va [line, s.migLine k line m]
    else s.postOnce (.switchover p.asid (k % 2 ^ 41))

/-- Write a line that has come from O: into the new frame, or into host memory. -/
def putLine (k line x : Nat) (m : Mig) : State :=
  if m.toHost then { s with mem := { s.mem with host := memPut s.mem.host (hostPlace (keyAsid k) (keyVa k) + 128 * line) x 128 } }
  else { s with mem := { s.mem with dram := memPut s.mem.dram (m.pa + 128 * line) x 128 } }

/-- A line reaches N, which writes it; once all 512 are there it asks for the switchover (R130 steps 2, 3). A line sent again after the switchover replaces the first copy. -/
def lineIn (p : Pkt) : State :=
  let k := pageKey p.asid p.va
  match s.migNew k with
  | none => s
  | some m =>
    let s1 := s.putLine k (p.arg 0) (p.arg 1) m
    let s2 := s1.setMig k { m with copied := m.copied + 1 }
    if m.copied + 1 = 512 then s2.post [.migrateCopy p.asid (k % 2 ^ 41) 512] else s2

end State

/-- N PULLS one line of the page from O; after line 511 it asks for the switchover (R130). -/
def execMigrateCopy (asid vpn line : Nat) (s : State) : Out :=
  let k := 2 ^ 41 * asid + vpn % 2 ^ 41
  match s.migNew k with
  | none => .next s
  | some m => .next (s.sendMsg m.peer 0 Pk.pull asid (65536 * vpn) [line])

/-- O SWITCHES OVER (R130 step 3, R135): new accesses are held at its port, and N is sent the dirty lines and the horizon. O's own accesses reach its port from now on, since its leaf becomes a kind-5 entry. -/
def execSwitchover (asid vpn : Nat) (s : State) : Out :=
  let k := 2 ^ 41 * asid + vpn % 2 ^ 41
  match (s.migOld k).filter fun m => !m.switched with
  | none => .next s
  | some m =>
    -- every switchover under way takes a stub when it is acknowledged (R135)
    if Config.stubs ≤ s.share.stubs.length + (s.share.migs.filter fun e => e.2.old && e.2.switched).length then .next (s.post [.switchover asid vpn]) else
    let va := 65536 * (vpn % 2 ^ 41)
    -- HOST grants no lease of its own: it passes on what it has inherited
    let h := if m.host then m.horizon else (List.range 512).foldl (fun x i => max x (tabGet 0 s.mem.horizon ((m.pa + 128 * i) / 128))) 0
    let s1 := if m.host then s else (s.putPte (s.leafPlace asid va) (BitVec.ofNat 64 (m.origin * 256 + 0x50))).dropTlb asid va (va + 65536)
    let s2 := m.dirty.foldl (fun (t : State) i => t.sendMsg m.peer 0 Pk.line asid va [i, s.migLine k i m]) s1
    .next ((s2.setMig k { m with switched := true, horizon := h }).sendMsg m.peer 0 Pk.horizon asid va [h, m.leaf.toNat])

namespace State
variable (s : State)

/-- The horizon reaches N, after the dirty lines (R130 step 3). -/
def horizonIn (p : Pkt) : State :=
  let k := pageKey p.asid p.va
  match s.migNew k with
  | none => s
  | some m => (s.setMig k { m with horizon := p.arg 0, leaf := BitVec.ofNat 64 (p.arg 1), switched := true }).post [.install p.asid (k % 2 ^ 41)]

/-- Is N's acknowledgement of the installation still on its way to O (R380)? -/
def ackPending (k o : Nat) : Bool :=
  let mine (p : Pkt) : Bool := p.op = Pk.installed && pageKey p.asid p.va = k
  let r := s.peer o
  r.ordered.any mine || (r.sent.any fun x => mine x.pkt) || s.agenda.any fun e => match e with | .transportReceive p => mine p | _ => false

/-- The move stands (R380): N reports DONE to the origin; one that is DOWN ends the handle, and DONE goes out again until it is answered. -/
def standNew (k : Nat) (m : Mig) : State :=
  let s1 := (s.setMig k { m with stood := true }).sendMsg m.origin 0 Pk.done (keyAsid k) (keyVa k) [if m.host then hostOwner else m.peer, if m.toHost then hostOwner else s.devid, m.gen, m.tag]
  if s.peerDown m.origin then s1.migResult m.tag 0x12 s.devid else s1

/-- O has received N's acknowledgement (R380). -/
def stoodIn (p : Pkt) : State :=
  let k := pageKey p.asid p.va
  match (s.migNew k).filter fun m => m.installed && !m.stood with
  | none => s
  | some m => (s.setMig k { m with acked := true }).post [.install p.asid (k % 2 ^ 41)]

/-- N maps the page (R130 step 4, R132, R134): a valid S leaf with the old leaf's permissions and attributes, and the inherited horizon on every line. Accesses that waited at the port are this device's own page's now. -/
def mapPage (k : Nat) (m : Mig) : State :=
  let asid := keyAsid k
  let va := keyVa k
  let e := (m.leaf &&& 0xF000000000000038) ||| 0x2000000000000003 ||| BitVec.ofNat 64 (m.pa + m.origin * 256)
  let raise (t : State) (i : Nat) : State := t.raiseHorizon ((m.pa + 128 * i) / 128) m.horizon
  let s1 := (List.range 512).foldl raise ((s.putPte (s.leafPlace asid va) e).dropTlb asid va (va + 65536))
  let held := ((s1.owner? k).map fun q => q.held).getD []
  let s2 := ({ s1 with share := { s1.share with owners := tabDel s1.share.owners k, stubs := tabDel s1.share.stubs k } }).pinFrame m.pa false
  held.foldl (fun t p => t.sendAccess s.devid (p.arg 0) p) s2

end State

/-- N INSTALLS the page (R130 step 4, R380): it maps the page and acknowledges to O; once O has answered that it has that acknowledgement the move stands, and N reports DONE to the origin. HOST, which the origin stands for, maps nothing: its page lies in host memory, and C is dropped (R126). DESIGN CHOICE (log 119): O's answer, by which N learns that O is a stub. -/
def execInstall (asid vpn : Nat) (s : State) : Out :=
  let k := 2 ^ 41 * asid + vpn % 2 ^ 41
  match (s.migNew k).filter fun m => m.switched && !m.stood with
  | none => .next s
  | some m =>
    let va := 65536 * (vpn % 2 ^ 41)
    if !m.installed then
      let s1 := if m.toHost then State.setDir { s with share := { s.share with stubs := tabDel s.share.stubs k } } k { s.dirOf k with horizon := m.horizon } else s.mapPage k m
      .next ((s1.setMig k { m with installed := true }).sendMsg m.peer 0 Pk.installed asid va [])
    else .next (if m.acked then s.standNew k m else s)

namespace State
variable (s : State)

/-- N's acknowledgement reaches O (R130 step 4): O is a stub; the held accesses are relayed, and the frame is free. For HOST the stub stands at the origin; where this module is N too, it needs none, and performs the held accesses itself. An O that has given the migration up tells N so (R380). -/
def installedIn (p : Pkt) : State :=
  let k := pageKey p.asid p.va
  match s.migOld k with
  | none => s.sendMsg p.src 0 Pk.abort p.asid p.va []
  | some m =>
    let s1 := if m.host then s else s.freeFrameAt m.pa
    let here : Bool := m.peer = s.devid
    let s2 := State.dropOld (if here then s1 else { s1 with share := { s1.share with stubs := tabPut s1.share.stubs k ⟨m.peer, m.gen, none⟩ } }) k
    (s2.sendMsg m.peer 0 Pk.stood p.asid p.va []).post (m.held.map fun q => if here then .remoteAccess q else .stubRelay q)

/-- The directory update of step 5 (R130): owner, generation, stub list with Td, REPOINTs, IDLE, and N's result. -/
def directoryUpdate (k o n tag : Nat) : State :=
  let d := s.dirOf k
  let nd := ownerDevice s.devid n
  let od := ownerDevice s.devid o
  let older := d.stubs.filter fun e => e.1 ≠ nd && e.1 ≠ od
  let gen := (d.gen + 1) % 65536
  -- a module that is O and N, because HOST is one of them, holds no stub
  let mine : List (Nat × Nat) := if od = nd then [] else [(od, s.now)]
  let d1 : DirEntry := { d with owner := n, gen, migrating := none, asked := 0, stubs := older ++ mine, repoints := d.repoints ++ older.map fun e => (e.1, gen) }
  let s1 := older.foldl (fun t e => t.sendMsg e.1 0 Pk.repoint (keyAsid k) (keyVa k) [nd, gen]) (s.setDir k d1)
  let s2 := (s1.sendMsg od 0 Pk.stubTime (keyAsid k) (keyVa k) [s.now]).sendResult k nd tag 0 n
  if d.queue = [] then s2 else s2.post [.migrateGrant (keyAsid k) (k % 2 ^ 41)]

/-- DONE from N (R130, R380): N sends it only when the move stands, so the update is made even when the origin has given the migration up. -/
def doneIn (p : Pkt) : State := s.directoryUpdate (pageKey p.asid p.va) (p.arg 0) (p.arg 1) (p.arg 3)

/-- The outcome reaches N (R129). -/
def resultIn (p : Pkt) : State :=
  let k := pageKey p.asid p.va
  let s1 := s.migResult (p.arg 0) (p.arg 1) (p.arg 2)
  match (s1.migNew k).filter fun m => m.stood with
  | some _ => s1.dropNew k
  | none => s1

/-- O gives a migration up (R380): it clears P, and performs the accesses that it held. -/
def abortOld (k : Nat) : State :=
  match s.migOld k with
  | none => s
  | some m =>
    let va := keyVa k
    let s1 := if m.switched && !m.host then (s.putPte (s.leafPlace (keyAsid k) va) m.leaf).dropTlb (keyAsid k) va (va + 65536) else s
    let s2 := if m.host then s1 else s1.pinFrame m.pa false
    (s2.dropOld k).post (m.held.map fun q => .remoteAccess q)

/-- N gives a migration up (R380), unless O has acknowledged its installation: it discards what it received, removes the leaf that it wrote, and frees its frame. -/
def abortNew (k : Nat) : State :=
  match s.migNew k with
  | none => s
  | some m =>
    if m.stood || m.acked then s else
    let va := keyVa k
    let s1 := if m.installed && !m.toHost then (s.putPte (s.leafPlace (keyAsid k) va) (BitVec.ofNat 64 (m.origin * 256 + 0x50))).dropTlb (keyAsid k) va (va + 65536) else s
    let s2 := if m.toHost then s1 else s1.freeFrameAt m.pa
    (s2.dropNew k).migResult m.tag 0x12 (if m.host then hostOwner else m.peer)

/-- A grant that still waits at N for a free frame ends (R380). -/
def abortWaiting (k : Nat) : State :=
  let mine (e : Instr) : Bool := match e with | .transportReceive p => p.op = Pk.grantFrame && pageKey p.asid p.va = k | _ => false
  match s.agenda.find? mine with
  | some (.transportReceive p) => State.migResult { s with agenda := s.agenda.filter fun e => !mine e } (p.arg 4) 0x12 (p.arg 0)
  | _ => s

/-- This device's parts in a migration that is given up. -/
def abortHere (k : Nat) : State := ((s.abortOld k).abortNew k).abortWaiting k

/-- The origin gives a granted migration up (R380): IDLE with owner O and the generation unchanged, and the next request. -/
def abortOrigin (k : Nat) : State :=
  let d := s.dirOf k
  match d.migrating with
  | none => s
  | some (o, n) =>
    let s1 := s.setDir k { d with migrating := none }
    let s2 := (s1.sendMsg (ownerDevice s.devid o) 0 Pk.abort (keyAsid k) (keyVa k) []).sendMsg (ownerDevice s.devid n) 0 Pk.abort (keyAsid k) (keyVa k) []
    if d.queue = [] then s2 else s2.post [.migrateGrant (keyAsid k) (k % 2 ^ 41)]

end State

/-- DONE REACHES THE ORIGIN (R130 step 5, R380). -/
def execDone (asid vpn : Nat) (s : State) : Out :=
  let k := 2 ^ 41 * asid + vpn % 2 ^ 41
  match (s.dirOf k).migrating with
  | none => .next s
  | some (o, n) => .next (s.directoryUpdate k o n 0)

/-- REPOINT (R134): the stub's pointer becomes the newest owner, unless a later one has come before, and the origin has its acknowledgement. -/
def execRepoint (asid vpn : Nat) (dest : Nat × Nat) (s : State) : Out :=
  let gen := dest.2
  let k := 2 ^ 41 * asid + vpn % 2 ^ 41
  let s1 := match (tabFind s.share.stubs k).filter fun st => (gen + 65536 - st.gen) % 65536 < 32768 with
    | some st => { s with share := { s.share with stubs := tabPut s.share.stubs k { st with target := dest.1, gen } } }
    | none => s
  .next (s1.sendMsg (s.originOf asid (65536 * vpn)) 0 Pk.repointed asid (65536 * vpn) [gen])

/-- ABORT (R380): at the origin of a granted migration, and at its parties. -/
def execAbort (asid vpn : Nat) (s : State) : Out :=
  let k := 2 ^ 41 * asid + vpn % 2 ^ 41
  .next ((s.abortOrigin k).abortHere k)

/-- A STUB ASKS TO BE RECLAIMED at or after Td + 500 µs + 2·200 µs (R135). -/
def execReclaim (asid vpn : Nat) (s : State) : Out :=
  let k := 2 ^ 41 * asid + vpn % 2 ^ 41
  match (tabFind s.share.stubs k).bind fun st => st.td with
  | none => .next s
  | some td =>
    if s.now < td + 900000 then .next (s.post [.reclaim asid vpn])
    else .next (s.sendMsg (s.originOf asid (65536 * vpn)) 0 Pk.reclaim asid (65536 * vpn) [s.devid, td])

/-- RECLAIM-OK frees the stub (R135). -/
def execReclaimOk (asid vpn : Nat) (s : State) : Out :=
  .next { s with share := { s.share with stubs := tabDel s.share.stubs (2 ^ 41 * asid + vpn % 2 ^ 41) } }

namespace State
variable (s : State)

/-- The origin tells a stub Td, the time of the directory update; the stub asks to be reclaimed once its time has come (R135). -/
def stubTimeIn (p : Pkt) : State :=
  let k := pageKey p.asid p.va
  match tabFind s.share.stubs k with
  | none => s
  | some st => State.post { s with share := { s.share with stubs := tabPut s.share.stubs k { st with td := some (p.arg 0) } } } [.reclaim p.asid (k % 2 ^ 41)]

/-- RECLAIM at the origin (R135): answered once no directory state names the device and no REPOINT to it is unacknowledged. One of a stub that has been turned back into the owner since is dropped (R134). -/
def reclaimIn (p : Pkt) : State :=
  let k := pageKey p.asid p.va
  let d := s.dirOf k
  let dev := p.arg 0
  let named := (match d.migrating with | some (o, n) => ownerDevice s.devid o = dev || ownerDevice s.devid n = dev | none => false) || d.repoints.any (fun e => e.1 = dev)
  if !d.stubs.contains (dev, p.arg 1) then s
  else if named then s.post [.transportReceive { p with src := s.devid, cls := 2 }]
  else (s.setDir k { d with stubs := d.stubs.filter fun e => e.1 ≠ dev }).sendMsg dev 0 Pk.reclaimOk p.asid p.va []

/-- A request that HCAN takes back (R129, R330). -/
def cancelIn (p : Pkt) : State :=
  let k := pageKey p.asid p.va
  let i := p.arg 0
  let n := p.arg 1
  let origin := s.originOf p.asid p.va
  match tabFind s.share.dir k with
  | some d => if d.queue.contains (n, i) then (s.setDir k { d with queue := d.queue.filter (· ≠ (n, i)) }).sendResult k n i 0x80 d.owner else s
  | none => if origin = s.devid then s else s.sendMsg origin 0 Pk.cancel p.asid p.va p.body

/-- A line of a page that a peer evicts to this device (R125): the first takes a free frame, pinned for the page, and the last is answered with the frame's number. Without a free frame the page is refused. -/
def giveIn (p : Pkt) : State :=
  let put (t : State) (g : Nat) : State :=
    { t with mem := { t.mem with dram := memPut t.mem.dram (65536 * g + 128 * p.arg 1) (p.arg 2) 128, guests := tabPut t.mem.guests g (p.src, p.arg 0, p.arg 1 + 1) } }
  let go (t : State) (g : Nat) : State := if p.arg 1 = 511 then (put t g).sendMsg p.src 0 Pk.given 0 0 [p.arg 0, 1, g] else put t g
  match s.mem.guests.find? fun e => e.2.1 = p.src && e.2.2.1 = p.arg 0 && e.2.2.2 = p.arg 1 && p.arg 1 ≠ 0 with
  | some e => go s e.1
  | none =>
    if p.arg 1 ≠ 0 then s else
    match s.freeFrame with
    | some g => go ((s.takeFrame g 0).pinFrame (65536 * g) true) g
    | none => s.sendMsg p.src 0 Pk.given 0 0 [p.arg 0, 0, 0]

/-- The peer has the page, and the leaf becomes kind 3 with its frame; or it has no room, and the frame is kept (R125). -/
def givenIn (p : Pkt) : State :=
  match (tabFind s.mem.evicting (p.arg 0)).filter fun v => v.sent && v.peer = p.src with
  | none => s
  | some v =>
    if p.arg 1 = 0 then s.evictKeep (p.arg 0) v
    else State.evictEnd { s with mem := { s.mem with away := tabDel s.mem.away (2 ^ 40 * p.src + p.arg 2) } } (p.arg 0) v 3 (p.arg 2) p.src

/-- A peer pulls its page back (R119): its lines go out and the frame is free; or there is no such frame. -/
def fetchIn (p : Pkt) : State :=
  let g := p.arg 0
  match (tabFind s.mem.guests g).filter fun e => e.1 = p.src && e.2.2 = 512 with
  | none => s.sendMsg p.src 0 Pk.unheld 0 0 [g]
  | some _ =>
    let s1 := (List.range 512).foldl (fun (t : State) i => t.sendMsg p.src 0 Pk.fetched 0 0 [g, i, memNat s.mem.dram (65536 * g + 128 * i) 128]) s
    State.freeFrameAt { s1 with mem := { s1.mem with guests := tabDel s1.mem.guests g } } (65536 * g)

/-- A line of a page that comes back, or the answer that the peer holds no such frame (R119). -/
def fetchedIn (p : Pkt) : State :=
  let k := 2 ^ 40 * p.src + p.arg 0
  match tabFind s.mem.away k with
  | none => s
  | some w =>
    let w1 : Pull := if p.op = Pk.unheld then { w with missing := true } else { w with lines := tabPut w.lines (p.arg 1) (p.arg 2) }
    { s with mem := { s.mem with away := tabPut s.mem.away k w1 } }

/-- What this device knows of a page's owner (R129): itself, the directory's, or its owner cache's. -/
def knownOwner (k : Nat) : Nat :=
  match s.walk (keyAsid k) (keyVa k) with
  | .page .. => s.devid
  | .elsewhere o => if o = s.devid then (s.dirOf k).owner else ((s.owner? k).filter fun e => e.owner ≠ unknownOwner).elim 0 fun e => e.owner
  | _ => 0

end State

/-- KEEP-WAITING NOTICES (R205): every 2 µs each requester is told which of its requests are still parked. -/
def execKeepWaiting (s : State) : Out :=
  if !(s.fab.peers.any fun e => e.2.parked ≠ []) then .next s
  else if s.now < s.share.notice + 2000 then .next (s.post [.keepWaiting])
  else
    let tell (t : State) (e : Nat × Peer) : State :=
      -- as many notices as the requests' numbers need, 400 to a packet (R203)
      (List.range ((e.2.parked.length + 399) / 400)).foldl (fun u i => u.sendMsg e.1 0 Pk.waiting 0 0 (s.now :: ((e.2.parked.drop (400 * i)).take 400).map fun p => p.arg 0)) t
    let s1 := s.fab.peers.foldl tell s
    .next (State.post { s1 with share := { s1.share with notice := s.now } } [.keepWaiting])

/-- NACK-RETRY (R205): the access is sent again 2 µs later, and does not count toward the budget. -/
def execNackRetry (acc : Nat) (s : State) : Out :=
  match tabFind s.share.remote acc with
  | none => .next s
  | some r => if s.now < r.stamp + 2000 then .next (s.post [.nackRetry acc]) else .next (s.sendAccess r.peer acc r.pkt)

/-- PMIG (R129, R363): one request for each distinct page that the true-guard lanes name. DESIGN CHOICE (log 117): a page whose own walk meets a malformed entry, for which R129 and R363 name no result, ends with NOMAP and detail 0. -/
def execPmig (x : PmigArgs) (s : State) : Out :=
  s.enter [(x.a.toNat, 2)] [] fun s =>
    let t := s.trueLanes x.guard
    if t = 0 then .next ((s.advance s.cur.mask).finish true) else
    s.readHandle t x.h.toNat fun s =>
    let a (i : Nat) : Nat := (s.g.rdPair x.a.toNat i).toNat
    let meet (p : Nat → Bool) : LaneMask := maskOf fun i => t.getLsbD i && p i
    let c1 := meet fun i => !canonical (a i)
    let c2 := meet fun i => apertureOf (a i) ≠ .glob
    if c1 ≠ 0 then s.raise Cause.nomap 0 c1 0 (BitVec.ofNat 64 (a (lowLane c1)))
    else if c2 ≠ 0 || s.gr.replay then
      let m := if c2 ≠ 0 then c2 else t
      s.raise Cause.prot 2 m 0 (BitVec.ofNat 64 (a (lowLane m)))
    else if s.ctrFull 3 then .next s.stall
    else
      let asid := s.tm.asid
      let page (i : Nat) : Nat := pageKey asid (a i)
      let firsts := (lanesOf t).filter fun i => (lanesOf t).all fun j => i ≤ j || page j ≠ page i
      -- what each page is here: the result at once, or the origin to ask. DEDUCED (log 96): an S page that this grid's own mapping holds with K ends with PROT, though this device owns it
      let kind (i : Nat) : (Option (Nat × Nat)) × Nat := match s.walk asid (a i) with
        | .page _ e _ => if Pte.s e && !Pte.k e then (some (0, s.devid), 0) else (some (0x0A, 0), 0)
        | .elsewhere o => if s.peerDown o then (some (0x12, s.knownOwner (page i)), 0) else (none, o)
        | .absent k _ _ => if k = 0 then (some (0x0B, 0), 0) else (some (0x0A, 0), 0)
        | .malformed | .walking => (some (0x0B, 0), 0)
      let op (i : Nat) : Op × List Nat :=
        let o : Op := { Op.none with kind := .pmig, gk := s.cur.gk, lane := i, st := .pending, pc := s.cur.pc, asid, ctx := s.tm.ctx, args := [page i, s.nextLog] }
        (o, (lanesOf t).filter fun j => page j = page i)
      let r := s.startOps (firsts.map op) (some x.h.toNat)
      let go (u : State) (e : Nat × Nat) : State := match (kind e.1).1 with
        | some (code, d) => (u.modOp e.2 fun o => { o with detail := d }).endOp e.2 code
        | none => u.sendMsg (kind e.1).2 0 Pk.migRequest asid (a e.1 / 65536 * 65536) [s.devid, e.2]
      .next ((((firsts.zip r.1).foldl go r.2).advance s.cur.mask).finish true)

end Sys2Proof.Machine
end

