-- ==== Sys2Proof/Machine/Transport.lean ====
section
/-! DEFINITION. Transport: delivery, acknowledgement, retransmission, DOWN (R203 to R205, R225, R380). -/

namespace Sys2Proof.Machine

namespace State
variable (s : State)

/-- Cumulative acknowledgement from a peer: every packet of the class below the number has been delivered (R204). One that carries the target's GTIME Ta starts the response timers of the requests that it is the first to acknowledge (R205). -/
def ackIn (d cls seq : Nat) (ta : Option Nat) : State :=
  let r := s.peer d
  let s1 := s.setPeer d { r with sent := r.sent.filter fun x => !(x.pkt.cls = cls && x.pkt.seq < seq) }
  match ta with
  | none => s1
  | some t =>
    -- a request that an earlier acknowledgement has covered keeps its stamp
    let fresh (q : Remote) : Bool := r.sent.any (fun x => x.pkt = q.pkt) || (q.stamp = 0 && !r.ordered.contains q.pkt)
    let mark (e : Nat × Remote) : Nat × Remote :=
      if cls = 0 && e.2.peer = d && e.2.pkt.seq < seq && fresh e.2 then (e.1, { e.2 with stamp := max e.2.stamp t }) else e
    { s1 with share := { s1.share with remote := s1.share.remote.map mark } }

/-- Retransmissions of an access of this device so far, by transport and by its response timer alike: they are one budget (R204, R205). -/
def triesOf (p : Pkt) : Nat := ((s.share.remote.find? fun e => e.2.pkt = p).elim 0 fun e => e.2.resent)
def countTry (p : Pkt) : State :=
  { s with share := { s.share with remote := s.share.remote.map fun e => if e.2.pkt = p then (e.1, { e.2 with resent := e.2.resent + 1 }) else e } }

/-- A device is found DOWN during a migration of which this module is the new owner (R380): before its installation is acknowledged, an O that is DOWN ends the migration; from then on a DOWN origin only ends the handle. -/
def partyDown (d key : Nat) (m : Mig) : State :=
  let k := key % 2 ^ 57
  if m.old || s.migNew k = none then s
  -- an O that has received the installation's acknowledgement is a stub
  else if !m.stood && m.peer = d && m.installed && !s.ackPending k d then s.standNew k m
  else if !m.stood && m.peer = d then (s.abortNew k).sendMsg m.origin 0 Pk.abort (keyAsid k) (keyVa k) []
  else if m.stood && m.origin = d then s.migResult m.tag 0x12 s.devid
  else s

/-- Accesses that cannot reach a device any more (R204, R241, R323, R380). DESIGN CHOICE (log 124): the packet of one that has failed keeps its sequence number and carries nothing any more. -/
def failPeer (d : Nat) : State :=
  let bad : Bad := ⟨Cause.remote, 0, d, 0⟩
  -- remote accesses, and the accesses that wait for an answer of this origin
  let waits (e : Nat × Remote) : Bool := e.2.peer = d || (e.2.peer = unknownOwner && s.originOf e.2.pkt.asid e.2.pkt.va = d)
  -- an access that fails is not performed later: its packet carries nothing any more, and keeps its place in the sequence (R203, R241, R323)
  let void (p : Pkt) : Pkt := if accessOp p.op && s.share.remote.any (fun e => waits e && e.2.pkt = p) then { p with op := Pk.void, asid := 0, va := 0, body := [] } else p
  let s0 := s.modPeer d fun r => { r with down := true, ordered := r.ordered.map void, sent := r.sent.map fun x => { x with pkt := void x.pkt, tries := 0 } }
  let s1 := (s.share.remote.filter waits).foldl (fun t e => t.failAccess e.1 bad) s0
  let asked (e : Nat × OwnerEntry) : Bool := e.2.owner = unknownOwner && s.originOf (keyAsid e.1) (keyVa e.1) = d
  let s2 := { s1 with share := { s1.share with owners := s1.share.owners.filter fun e => !asked e } }
  -- flows
  let hits (o : Op) : Bool := match s2.flow? (o.args.headD 0) with | some f => f.sender && f.dests.contains d | none => false
  let flowFail (t : State) (e : Nat × Op) : State :=
    if e.2.st ≠ .pending then t else
    match e.2.kind with
    | .fsend | .fsync =>
      if !hits e.2 then t else
      match t.flow? (e.2.args.headD 0) with
      | none => t
      | some f =>
        let slot := (f.dests.findIdx? (· = d)).getD 0
        if (e.2.kind = .fsend && !f.multi) || f.dests.all t.peerDown then
          (if e.2.kind = .fsend then t.failOp e.1 bad else t.endSync e.1)
        else (t.modOp e.1 fun o => { o with got := o.got.filter fun q => !(2 ^ 70 ≤ q.1 && (q.1 - 2 ^ 70) % 16 = slot) }).settleFlowOp e.1
    -- one whose flag is on its way to another device fails only with that
    | .ffence => if e.2.args.headD 0 = d && !s.remoteBusy (opWaiter e.1) (2 ^ 64) then t.failOp e.1 bad else t
    | .pmig =>
      if s.originOf e.2.asid (keyVa (e.2.args.headD 0)) = d then (((t.modOp e.1 fun o => { o with detail := s.knownOwner (e.2.args.headD 0) }).endOp e.1 0x12).wakeHandles) else t
    | _ => t
  let s3 := s2.ops.foldl flowFail s2
  let behind (e : Nat × Flow) : Nat × Flow :=
    let f := e.2
    if f.sender && f.multi then
      match f.dests.findIdx? (· = d) with
      | some i =>
        let one (t : Tab Bool) (b : Nat) : Tab Bool := tabSet false t (16 * b + i) true
        let land (t : Tab Bool) (b : Nat) : Tab Bool := tabSet false t (16 * b + i) false
        (e.1, { f with slotBehind := (List.range (blockCount f.frame)).foldl one f.slotBehind, slotFlight := (List.range (blockCount f.frame)).foldl land f.slotFlight })
      | none => e
    else e
  let hit := s3.flows.filter fun e => e.2.sender && e.2.multi && e.2.dests.contains d
  let s4 := hit.foldl (fun t e => t.syncFlow e.1 (List.range (blockCount e.2.frame))) { s3 with flows := s3.flows.map behind }
  -- migrations: at the origin, and at N
  let s5 := (s.share.dir.filter fun e => match e.2.migrating with | some (o, n) => o = d || n = d | none => false).foldl (fun t e => t.abortOrigin e.1) s4
  let s6 := s.share.migs.foldl (fun t e => t.partyDown d e.1 e.2) s5
  -- an owner that was asked about K cannot answer any more (R129)
  let s7 := (s.share.dir.filter fun e => e.2.asked = 1 && e.2.owner = d).foldl (fun t e => (t.setDir e.1 { t.dirOf e.1 with asked := 0 }).postOnce (.migrateGrant (keyAsid e.1) (e.1 % 2 ^ 41))) s6
  -- pages on their way to or from the peer: a pull starts again, and a frame that was to go there stays (R119, R125)
  let s8 := { s7 with mem := { s7.mem with away := s7.mem.away.filter fun e => e.1 / 2 ^ 40 ≠ d } }
  (s8.mem.evicting.filter fun e => e.2.sent && e.2.peer = d).foldl (fun t e => t.evictKeep e.1 e.2) s8

/-- A packet is handed to what it is for. -/
def dispatch (p : Pkt) : State :=
  let k := pageKey p.asid p.va
  let vpn := k % 2 ^ 41
  let code := p.op % Pk.viaStub
  if accessOp p.op then s.post [.remoteAccess p]
  else if code = Pk.response then s.answerIn p
  else if code = Pk.stale then s.staleIn p
  else if code = Pk.waiting then
    let mark (e : Nat × Remote) : Nat × Remote := if p.body.tail.contains e.1 then (e.1, { e.2 with stamp := p.arg 0 }) else e
    let s1 := p.body.tail.foldl (fun (t : State) a => t.marksWait a) s
    { s1 with share := { s1.share with remote := s1.share.remote.map mark } }
  else if code = Pk.nackRetry then
    match tabFind s.share.remote (p.arg 0) with
    | some r => let s := s.marksWait (p.arg 0); State.post { s with share := { s.share with remote := tabPut s.share.remote (p.arg 0) { r with stamp := s.now } } } [.nackRetry (p.arg 0)]
    | none => s
  else if code = Pk.ack then s.ackIn p.src (p.arg 0) (p.arg 1) (some (p.arg 2))
  else if code = Pk.query then
    match s.dir? k with
    | some d => s.sendMsg p.src 0 Pk.answer p.asid p.va [1, d.owner, d.gen]
    | none => s.sendMsg p.src 0 Pk.answer p.asid p.va [0, 0, 0]
  else if code = Pk.answer then s.post [.ownerCacheQuery p.asid vpn (if p.arg 0 = 1 then some (p.arg 1, p.arg 2) else none)]
  else if code = Pk.migRequest then s.requestMig k (p.arg 0) (p.arg 1)
  else if code = Pk.askK then s.askKIn p
  else if code = Pk.clearK then s.clearKIn k
  else if code = Pk.grant then s.grantIn p
  else if code = Pk.grantFrame then s.grantNew p
  else if code = Pk.pull then s.pullIn p
  else if code = Pk.line then s.lineIn p
  else if code = Pk.horizon then s.horizonIn p
  else if code = Pk.installed then s.installedIn p
  else if code = Pk.stood then s.stoodIn p
  else if code = Pk.done then s.doneIn p
  else if code = Pk.repoint then s.post [.repoint p.asid vpn (p.arg 0, p.arg 1)]
  else if code = Pk.repointed then let d := s.dirOf k; s.setDir k { d with repoints := d.repoints.filter (· ≠ (p.src, p.arg 0)) }
  else if code = Pk.abort then (if p.src ≠ s.devid then (s.abortOrigin k).abortHere k else s.abortHere k)
  else if code = Pk.reclaim then s.reclaimIn p
  else if code = Pk.reclaimOk then s.post [.reclaimOk p.asid vpn]
  else if code = Pk.stubTime then s.stubTimeIn p
  else if code = Pk.give then s.giveIn p
  else if code = Pk.given then s.givenIn p
  else if code = Pk.fetch then s.fetchIn p
  else if code = Pk.fetched || code = Pk.unheld then s.fetchedIn p
  else if code = Pk.result then s.resultIn p
  else if code = Pk.cancel then s.cancelIn p
  else if code = Pk.block then s.segmentIn p
  else if code = Pk.blockAck || code = Pk.resync then
    match (s.flow? (p.arg 0)).filter (·.sender) with
    | none => s
    | some f =>
      let slot := (f.dests.findIdx? (· = p.src)).getD 0
      let s1 := s.modPeer p.src fun r => { r with flowCredit := p.arg 3 }
      if code = Pk.resync then s1.post [.resyncRequest (p.arg 0) (p.arg 1) slot]
      else if f.multi then s1.post [.multicastAck (p.arg 0) (p.arg 1) slot (p.arg 2)]
      else s1.post [.flowAck (p.arg 0) (p.arg 1) 0 (p.arg 2)]
  else s

/-- Deliver every ordered packet that is next in sequence (R203). -/
def drainOrdered (d : Nat) : Nat → State → State
  | 0, u => u
  | fuel + 1, u =>
    let r := u.peer d
    let e := tabGet 0 r.expect 0
    match r.reorder.find? fun p => p.cls = 0 && p.seq = e with
    | none => u
    | some p =>
      let u1 := u.setPeer d { r with expect := tabSet 0 r.expect 0 (e + 1), reorder := r.reorder.filter (· ≠ p) }
      drainOrdered d fuel (u1.dispatch p)

/-- The number below which every packet of a class has arrived, for a class delivered as it arrives. -/
def advanceBulk (l : List Pkt) : Nat → Nat → Nat
  | 0, e => e
  | fuel + 1, e => if l.any fun p => p.cls = 1 && p.seq = e then advanceBulk l fuel (e + 1) else e

/-- The sequence number that the header's 32 bits stand for, near the next expected one (R203). -/
def fullSeq (expect w : Nat) : Nat :=
  let d := (w + 2 ^ 32 - expect % 2 ^ 32) % 2 ^ 32
  if d < 2 ^ 31 then expect + d else expect + d - 2 ^ 32

/-- Does a packet of this device wait in a FIFO to go out? -/
def isQueued (d : Nat) (p : Pkt) : Bool := let r := s.peer d; r.ordered.contains p || r.bulk.contains p

/-- Queue a packet of this device again, ahead of newer ones (R204). -/
def requeue (d : Nat) (p : Pkt) : State :=
  s.modPeer d fun r =>
    if r.ordered.contains p || r.bulk.contains p then r
    else if p.cls = 0 then { r with ordered := p :: r.ordered } else if p.cls = 1 then { r with bulk := p :: r.bulk } else { r with link := r.link ++ [p] }

/-- A PEER THAT WAS DOWN IS HEARD AGAIN (R204), but for one whose signature has failed, which stays DOWN (R216): what its flow slots have kept goes out (R230, R232). -/
def heard (d : Nat) : State :=
  if !s.peerDown d || s.fab.refused.contains d then s else
  let kept (e : Nat × Flow) : List Instr :=
    let f := e.2
    match f.dests.findIdx? (· = d) with
    | some i => if !(f.sender && f.multi) then [] else
      (((f.slotBehind ++ f.slotQueued).filter fun q => q.2 && q.1 % 16 = i).map fun q => Instr.flowBlockSend e.1 (q.1 / 16) i).eraseDups
    | none => []
  (s.modPeer d fun r => { r with down := false }).post (s.flows.flatMap kept)

/-- Acknowledge what has arrived of a class, with this device's GTIME (R204, R205). -/
def sendAck (d cls : Nat) : State := s.sendMsg d 2 Pk.ack 0 0 [cls, tabGet 0 (s.peer d).expect cls, s.now]

end State

/-- A PACKET ARRIVES (R203, R204): ordered packets are delivered in sequence, bulk and control packets as they arrive; a duplicate is answered as before and not delivered again. Any packet clears DOWN. -/
def execTransportReceive (p : Pkt) (s : State) : Out :=
  if p.src = s.devid then
    if p.cls = 2 then .next (s.dispatch p) else
    -- packets of this device to itself keep their order
    let r := s.peer s.devid
    if p.seq ≠ tabGet 0 r.expect p.cls then .next (s.post [.transportReceive p])
    else .next ((s.setPeer s.devid { r with expect := tabSet 0 r.expect p.cls (p.seq + 1) }).dispatch p)
  else
  let d := p.src
  let s1 := s.heard d
  let s2 := if p.ack = 0 then s1 else s1.ackIn d p.cls p.ack none
  if p.cls = 2 then .next (s2.dispatch p) else
  let r := s2.peer d
  let e := tabGet 0 r.expect p.cls
  let p := { p with seq := State.fullSeq e p.seq }
  let seen : Bool := p.seq < e || r.reorder.any fun q => q.cls = p.cls && q.seq = p.seq
  if seen then
    -- the response given the first time goes out again, to the requester, which a stub's relay names; a request still parked has its notice
    let asker := p.arg 1
    let again := (s2.peer asker).sent.find? fun x => x.pkt.op = Pk.response && x.pkt.arg 0 = p.arg 0
    let s3 :=
      if !accessOp p.op then s2 else
      match again with
      | some x => s2.requeue asker x.pkt
      | none => if (s2.peer asker).parked.any fun q => q.arg 0 = p.arg 0 && q.arg 1 = asker then s2.sendMsg asker 0 Pk.waiting 0 0 [s2.now, p.arg 0] else s2
    .next (s3.sendAck d p.cls)
  else if p.cls = 0 then
    if 1024 ≤ (r.reorder.filter fun q => q.cls = 0).length && p.seq ≠ e then .next s2 else
    let s3 := State.drainOrdered d (r.reorder.length + 2) (s2.setPeer d { r with reorder := r.reorder ++ [p] })
    .next (s3.sendAck d 0)
  else
    let all := r.reorder ++ [p]
    let e1 := State.advanceBulk all (all.length + 1) e
    let s3 := s2.setPeer d { r with expect := tabSet 0 r.expect 1 e1, reorder := all.filter fun q => q.cls = 0 || e1 ≤ q.seq }
    .next ((s3.dispatch p).sendAck d 1)

/-- AN ACKNOWLEDGEMENT (R204, R205): the number below which all has been delivered, and the target's GTIME Ta. -/
def execTransportAck (peer cls : Nat) (seq : Nat × Nat) (s : State) : Out := .next (s.ackIn peer cls seq.1 (some seq.2))

/-- RETRANSMISSION (R204): a packet unacknowledged after 5·T_s goes out again with its sequence number; after eight, the peer is DOWN. One that is still queued has not been sent again yet. Packets resent to a peer that is DOWN already, and every DONE (R380), count toward nothing. -/
def execRetransmit (peer cls seq : Nat) (s : State) : Out :=
  let r := s.peer peer
  match r.sent.find? fun x => x.pkt.cls = cls && x.pkt.seq = seq with
  | none => .next s
  | some x =>
    if s.now ≤ x.time + 5 * s.fab.slotNs || s.isQueued peer x.pkt then .next s
    else if x.pkt.op = Pk.done || r.down then .next (s.requeue peer x.pkt)
    else if 8 ≤ max x.tries (s.triesOf x.pkt) then .next (s.failPeer peer)
    else
      let bump (y : Sent) : Sent := if y.pkt = x.pkt then { y with tries := max x.tries (s.triesOf x.pkt) + 1 } else y
      .next (((s.setPeer peer { r with sent := r.sent.map bump }).countTry x.pkt).requeue peer x.pkt)

/-- RESPONSE TIMERS (R205): an access whose target has shown no life for 10 µs + 5·T_s since the stamp that its acknowledgement or the last notice carried is sent again, which counts toward the budget. -/
def execResponseTimeout (s : State) : Out :=
  let one (t : State) (e : Nat × Remote) : State :=
    let r := e.2
    if r.peer = unknownOwner || r.peer = s.devid || r.stamp = 0 || t.now ≤ r.stamp + 10000 + 5 * t.fab.slotNs || t.isQueued r.peer r.pkt then t
    else if 8 ≤ r.resent then t.failPeer r.peer
    else
      let t1 := { t with share := { t.share with remote := tabPut t.share.remote e.1 { r with resent := r.resent + 1, stamp := 0 } } }
      t1.requeue r.peer r.pkt
  .next (s.share.remote.foldl one s)

end Sys2Proof.Machine
end

