-- ==== Sys2Proof/Machine/Link.lean ====
section
/-! DEFINITION. The link layer: rotors, slots, dealing of packets, flits, FEC and CRC, link replay, wavelength health, parking, rings, keys and link training (R195 to R218). -/

namespace Sys2Proof

/-- A field of a payload: how many bytes it takes, in 2 bytes, and then the bytes. DESIGN CHOICE (log 20): the spec gives the payloads of packets no layout. -/
def fieldBytes (x : Nat) : List Byte := let n := if x = 0 then 0 else Nat.log2 x / 8 + 1; Machine.bytesOf n 2 ++ Machine.bytesOf x n
/-- The fields of a payload. -/
def fieldsOf : Nat → List Byte → List Nat
  | 0, _ => []
  | fuel + 1, l =>
    if l = [] then [] else
    let n := Machine.natOf (l.take 2)
    Machine.natOf ((l.drop 2).take n) :: fieldsOf fuel (l.drop (2 + n))

def Pkt.isAccess (p : Pkt) : Bool := Machine.accessOp p.op
/-- The payload of a packet (R203, R225): the fields of its body, after the page's address where the header has none; a segment's header and bytes. -/
def Pkt.payload (p : Pkt) : List Byte :=
  if p.op = Machine.Pk.block then Machine.bytesOf (p.arg 0) 8 ++ Machine.bytesOf (p.arg 1) (p.arg 2)
  else (if p.isAccess then p.body else p.va :: p.body).flatMap fieldBytes
/-- Payload bytes of a packet (R203). -/
def Pkt.len (p : Pkt) : Nat := p.payload.length

/-- Flits that a packet fills (R203). -/
def Pkt.flits (p : Pkt) : Nat := (32 + p.len + 16 + 119) / 120

/-- The 32-byte header (R203), as a number. In a segment's packet the reserved bytes 14 and 15 hold how many bytes of its block the transfer covers, in units of 16 (DESIGN CHOICE, log 24). -/
def Pkt.header (p : Pkt) : Nat :=
  p.src % 256 + 2 ^ 8 * (p.dst % 256) + 2 ^ 16 * (p.cls % 4 * 64 + if p.relayed then 32 else 0) + 2 ^ 24 * (p.op % 256) + 2 ^ 32 * (p.seq % 2 ^ 32) +
    2 ^ 64 * (p.len % 2 ^ 16) + 2 ^ 80 * (p.epoch % 1024) + 2 ^ 96 * (p.asid % 2 ^ 16) +
    2 ^ 112 * ((if p.op = Machine.Pk.block then p.arg 3 / 16 else 0) % 2 ^ 16) + 2 ^ 128 * ((if p.isAccess then p.va else 0) % 2 ^ 64) + 2 ^ 192 * (p.ack % 2 ^ 64)

/-- A packet from its header and its payload. -/
def Pkt.ofWire (h : Nat) (payload : List Byte) : Pkt :=
  let p : Pkt := { src := h % 256, dst := h / 2 ^ 8 % 256, cls := h / 2 ^ 22 % 4, relayed := h / 2 ^ 21 % 2 = 1, op := h / 2 ^ 24 % 256, seq := h / 2 ^ 32 % 2 ^ 32,
                   epoch := h / 2 ^ 80 % 1024, asid := h / 2 ^ 96 % 2 ^ 16, va := h / 2 ^ 128 % 2 ^ 64, ack := h / 2 ^ 192 % 2 ^ 64, body := [] }
  if p.op = Machine.Pk.block then { p with va := 0, body := [Machine.natOf (payload.take 8), Machine.natOf (payload.drop 8), payload.length - 8, h / 2 ^ 112 % 2 ^ 16 * 16] } else
  let l := fieldsOf payload.length payload
  if p.isAccess then { p with body := l } else { p with va := l.headD 0, body := l.drop 1 }

namespace Machine

/-- The remainder of an n-bit number times x^32 modulo the FEC generator (R207): Horner's rule over its bits, from the highest. -/
def fecRem (x : Nat) : Nat → Nat → Nat
  | 0, r => r
  | n + 1, r =>
    let b := (x / 2 ^ n % 2 + r / 2 ^ 31) % 2
    fecRem x n (r * 2 % 2 ^ 32 ^^^ (if b = 1 then 0xB2E95A1D else 0))

/-- CRC-32, reflected: the register after n bits of x, from the lowest (R207). -/
def crcBits (x : Nat) : Nat → Nat → Nat
  | 0, r => r
  | n + 1, r => crcBits (x / 2) n (r / 2 ^^^ (if (r + x) % 2 = 1 then 0xEDB88320 else 0))

/-- CRC-32 over 1,024 bits (R206, R207). -/
def crc32 (x : Nat) : Nat := crcBits x 1024 0xFFFFFFFF ^^^ 0xFFFFFFFF

/-- A flit (R206). -/
def makeFlit (typ pos seq ack : Nat) (ackValid : Bool) (payload : Nat) : Flit :=
  let low := payload % 2 ^ 960 + (if ackValid then 2 ^ 985 else 0) + ack % 2 ^ 16 * 2 ^ 986 + seq % 2 ^ 16 * 2 ^ 1002 + pos % 4 * 2 ^ 1018 + typ % 16 * 2 ^ 1020
  let body := low + crc32 low * 2 ^ 1024
  BitVec.ofNat 1088 (body + fecRem body 1056 0 * 2 ^ 1056)

/-- The codeword of a flit: its data times x^32, plus the parity (R207). -/
def codeword (f : Flit) : Nat := f.toNat % 2 ^ 1056 * 2 ^ 32 + f.toNat / 2 ^ 1056
def ofCodeword (c : Nat) : Flit := BitVec.ofNat 1088 (c / 2 ^ 32 + c % 2 ^ 32 * 2 ^ 1056)

/-- The syndrome of a flit (R207). -/
def syndrome (f : Flit) : Nat := fecRem (f.toNat % 2 ^ 1056) 1056 0 ^^^ f.toNat / 2 ^ 1056

/-- The burst of at most 16 consecutive bits of the codeword whose syndrome this is: position and pattern. Each turn divides the syndrome by x. DEDUCED (log 25): consecutive bits are those of the codeword. -/
def findBurst : Nat → Nat → Nat → Option (Nat × Nat)
  | 0, _, _ => none
  | fuel + 1, j, t =>
    if t < 65536 && t % 2 = 1 && j + Nat.log2 t < 1088 then some (j, t)
    else findBurst fuel (j + 1) (if t % 2 = 0 then t / 2 else (t ^^^ 0x1B2E95A1D) / 2)

/-- A received flit after correction, with the bits that were corrected (R207). -/
def correct (f : Flit) : Flit × Flit :=
  let sy := syndrome f
  if sy = 0 then (f, 0) else
  match findBurst 1088 0 sy with
  | none => (f, 0)
  | some (j, t) => let e := ofCodeword (t * 2 ^ j); (f ^^^ e, e)

/-- The CRC check (R207). -/
def crcOk (f : Flit) : Bool := crc32 (f.toNat % 2 ^ 1024) = f.toNat / 2 ^ 1024 % 2 ^ 32
def flitField (f : Flit) (lo n : Nat) : Nat := f.toNat / 2 ^ lo % 2 ^ n
def flitType (f : Flit) : Nat := flitField f 1020 4
def flitPos (f : Flit) : Nat := flitField f 1018 2
def flitSeq (f : Flit) : Nat := flitField f 1002 16

/-- Wavelengths of a set, ascending. -/
def wavesOf (m : BitVec 64) : List Nat := (List.range 64).filter fun i => m.getLsbD i
def waveMask (l : List Nat) : BitVec 64 := BitVec.ofNat 64 (l.foldl (fun n i => n + 2 ^ i) 0)
/-- The striping set from the usable wavelengths: the lowest-numbered n, n the largest allowed size (R208, R212). -/
def stripe (usable : BitVec 64) : BitVec 64 :=
  let l := wavesOf usable
  match [64, 32, 16, 8, 4, 2].find? fun n => n ≤ l.length with
  | some n => waveMask (l.take n)
  | none => 0
/-- Time of a flit over a striping set, in 1/64 ns: 34/n ns (R208). -/
def flitTime (set : BitVec 64) : Nat := 2176 / (wavesOf set).length

/-- Bits to be attributed to wavelengths by segment (R208, R211). -/
def segmentBits (set : BitVec 64) (bits : Tab Nat) (e : Flit) : Tab Nat :=
  let l := wavesOf set
  let w := 1088 / l.length
  let add (t : Tab Nat) (j : Nat) : Tab Nat :=
    if e.getLsbD j then let i := l.getD (j / w) 0; tabSet 0 t i (tabGet 0 t i + 1) else t
  if l = [] then bits else (List.range 1088).foldl add bits

/-- A wavelength's score exceeds the threshold (R211). -/
def unhealthy (score : Nat) : Bool := 0x2000 < score

/-- At a slot boundary the wavelengths whose scores exceed the threshold are unhealthy too (R211). -/
def Port.fallSick (p : Port) : Port := { p with sick := p.sick ||| BitVec.ofNat 64 ((List.range 64).foldl (fun n w => if unhealthy (tabGet 0 p.health w) then n + 2 ^ w else n) 0) }

/-- The agent writes a wavelength's score; 0 readmits it (R211, R218). -/
def Port.writeHealth (p : Port) (w v : Nat) : Port :=
  { p with health := tabSet 0 p.health w (v % 65536), sick := if v % 65536 = 0 then p.sick &&& ~~~(1#64 <<< w) else p.sick }

/-- Scores at the end of a slot; an unhealthy wavelength's score is held (R211). -/
def Port.scoreSlot (p : Port) : Port :=
  let one (t : Tab Nat) (w : Nat) : Tab Nat :=
    let x := tabGet 0 t w
    if p.sick.getLsbD w then t else tabSet 0 t w (min (x - x / 16 + 64 * tabGet 0 p.bits w) 0xFFFF)
  { p with health := (List.range 64).foldl one p.health, bits := [] }

/-- Wavelengths healthy at this port (R211). -/
def Port.healthMask (p : Port) : BitVec 64 := ~~~p.sick

/-- L of a pod of n modules (R196); 0 before training (R199). -/
def sequenceLength (n : Nat) : Nat := if n = 0 then 0 else (([2, 4, 8, 16, 32, 64, 128, 256].find? fun x => n ≤ x).getD 256) - 1

namespace State
variable (s : State)

def port (p : Nat) : Port := tabGet Port.empty s.fab.ports p
def setPort (p : Nat) (x : Port) : State := { s with fab := { s.fab with ports := tabPut s.fab.ports p x } }
def modPort (p : Nat) (f : Port → Port) : State := s.setPort p (f (s.port p))
/-- The key toward a peer on a transmit fibre; the key of the reverse direction is kept at peer + 256. One that nothing has changed since training stands under the pair's secret (R216). -/
def key (peer fibre : Nat) : Key := (tabFind s.fab.keys (64 * peer + fibre)).getD ⟨0, 0, false, false, tabFind s.fab.secrets (peer % 256), none⟩
def setKey (peer fibre : Nat) (k : Key) : State := { s with fab := { s.fab with keys := tabPut s.fab.keys (64 * peer + fibre) k } }
/-- The port/key index (R216). -/
def keyIndex (i j fibre epoch : Nat) : Nat := 2 ^ 24 * i + 2 ^ 16 * j + 2 ^ 10 * fibre + epoch % 1024
/-- The key of sender i, receiver j, fibre and epoch (R216). PRESUMED (log 98): the 56 bytes of the X448 secret in the order that RFC 7748 gives them. -/
def keyBytes (secret i j fibre epoch : Nat) : List Nat := Crypto.shake256 (Crypto.toLE secret 56 ++ [i % 256, j % 256, fibre % 64] ++ Crypto.toLE epoch 2) 32
/-- The 96-bit nonce: the key index and the flit counter (R217). DESIGN CHOICE (log 98): both little-endian. -/
def nonceOf (index counter : Nat) : List Nat := Crypto.toLE index 4 ++ Crypto.toLE counter 8
/-- A new X448 secret with a peer (R216): of this module's n-th ephemeral scalar and the 56 bytes of the peer's ephemeral public key. -/
def newSecret (n : Nat) (u : List Byte) : Nat := Crypto.x448 (Config.ephemeral n) (natOf u)
/-- Has the peer signed its ephemeral key with its device certificate (R216)? -/
def peerSigned (d : Nat) (p : List Byte × List Byte) : Bool := p.1.length = 56 && Crypto.edVerify (Config.deviceCert d) (p.1.map BitVec.toNat) (p.2.map BitVec.toNat)

/-- The module that rotor f pairs with module i in slot k (R196). -/
def pairedWith (i k f : Nat) : Option Nat :=
  if s.fab.n < 2 || !tabGet false s.fab.inService f then none else
  let m := (k + tabGet 0 s.fab.phases f) % sequenceLength s.fab.n + 1
  let p := i ^^^ m
  if p < s.fab.n then some p else none

/-- Slots until module i is next connected directly to d (R198, R201). -/
def slotsAway (i d : Nat) : Nat :=
  let near (j : Nat) : Bool := (List.range 64).any fun f => s.pairedWith i (s.fab.slot + j) f = some d
  ((List.range (sequenceLength s.fab.n)).find? near).getD (sequenceLength s.fab.n)

/-- Does a transmit fibre connect this module to a peer in this slot, with a set to send on (R195, R210, R212, R214)? -/
def joined (d f : Nat) : Bool := s.fab.slotOpen && s.pairedWith s.devid s.fab.slot f = some d && (s.port f).set ≠ 0 && !(s.port f).dark
/-- Transmit fibres connected to a peer in this slot that carry packets: those that have a key, and no cut-through under way. A pair whose signature has failed has none (R216). -/
def fibresTo (d : Nat) : List Nat :=
  (List.range 64).filter fun f =>
    let k := s.key d f
    s.joined d f && !s.fab.refused.contains d && !k.stopped && k.counter < 2 ^ 41 && (s.port f).cutting = none
/-- Peers connected on any fibre in this slot, ascending. -/
def peersNow : List Nat := (List.range s.fab.n).filter fun d => (List.range 64).any fun f => s.pairedWith s.devid s.fab.slot f = some d

/-- When the transmit window of a fibre opens and closes, in 1/64 ns (R197). -/
def windowOpen (f : Nat) : Nat := 64 * (s.fab.epoch + s.fab.slot * s.fab.slotNs + 400 - Config.fibreDelay f % 751)
def windowClose (f : Nat) : Nat := 64 * (s.fab.epoch + (s.fab.slot + 1) * s.fab.slotNs - Config.fibreDelay f % 751)

/-- Flits that start now end on this fibre before the window closes (R197). -/
def windowFits (f n : Nat) : Bool :=
  let p := s.port f
  max p.freeAt (64 * s.now) + n * flitTime p.set ≤ s.windowClose f
/-- A packet may start on this fibre: it is free, the packet's last flit ends before the window closes, and the replay buffer holds it (R200, R209). -/
def fits (f n : Nat) : Bool :=
  let p := s.port f
  p.freeAt < 64 * (s.now + 1) && s.windowFits f n && p.replay.length + n ≤ 4096

/-- Of some fibres, the one whose transmitter frees first. -/
def firstFree (l : List Nat) : Option Nat :=
  let pick (o : Option Nat) (f : Nat) : Option Nat :=
    match o with
    | some g => if (s.port f).freeAt < (s.port g).freeAt then some f else o
    | none => some f
  l.foldl pick none

/-- The cumulative link acknowledgement of a fibre's reverse direction: the next link sequence number its receiver expects (R206). -/
def linkAck (f : Nat) : Nat := (s.port (64 + f)).expectLink

/-- Flit i of a packet of n flits, from all of its bytes (R203, R206). -/
def dataFlit (all : List Nat) (n i seq ack : Nat) : Flit :=
  makeFlit 2 (if n = 1 then 3 else if i = 0 then 1 else if i + 1 = n then 2 else 0) seq ack true (Crypto.ofLE ((all.drop (120 * i)).take 120))
/-- The flits of a packet under a key (R203, R206, R216): the header in the clear, the payload encrypted, the tag over both. -/
def packetFlits (p : Pkt) (key nonce : List Nat) (seq0 ack : Nat) : List Flit :=
  let hdr := Crypto.toLE p.header 32
  let all := hdr ++ Crypto.gcmSeal key nonce hdr (p.payload.map fun b => b.toNat)
  (List.range p.flits).map fun i => dataFlit all p.flits i (seq0 + i) ack

/-- Advance a key by the flits of a packet; 2^40 starts a rekey, 2^41 stops the key (R217). -/
def spendKey (d f n : Nat) : State :=
  let k := s.key d f
  let k1 := { k with counter := k.counter + n }
  let s1 := s.setKey d f k1
  if 2 ^ 41 ≤ k1.counter && !k1.stopped then s1.post [.keystop d f]
  else if 2 ^ 40 ≤ k1.counter && k.counter < 2 ^ 40 && !k1.rekeying then s1.post [.rekey (d, f) ([], [])] else s1

/-- SEND A PACKET ON A FIBRE to the peer that it connects (R200 to R204, R209, R217). `relayed` says that it goes two-hop; `held` that it leaves the relay buffer. -/
def transmit (d f : Nat) (p : Pkt) (relayed held : Bool) : State :=
  let k := s.key d f
  let o := s.port f
  let ack := if p.cls = 2 || p.src ≠ s.devid then p.ack else tabGet 0 (s.peer p.dst).expect p.cls
  let q := { p with relayed := p.relayed || relayed, epoch := k.epoch, ack }
  let n := q.flits
  let fl := packetFlits q (keyBytes (k.secret.getD 0) s.devid d f k.epoch) (nonceOf (keyIndex s.devid d f k.epoch) k.counter) o.nextLink (s.linkAck f)
  let put (t : Tab Flit) (x : Nat × Flit) : Tab Flit := tabPut t (o.nextLink + x.1) x.2
  let o1 : Port := { o with replay := (List.zip (List.range n) fl).foldl put o.replay, nextLink := o.nextLink + n, freeAt := max o.freeAt (64 * s.now) + n * flitTime o.set,
                            relayOut := if held then o.relayOut ++ [(o.nextLink + n - 1, 128 * n)] else o.relayOut }
  let s1 := ((s.setPort f o1).spendKey d f n).tally 13 n
  let s2 := if relayed then s1.modPeer d fun r => { r with credit := r.credit - 128 * n } else s1
  if p.src ≠ s.devid || p.cls = 2 then s2 else
  s2.modPeer p.dst fun r =>
    if r.sent.any (fun x => x.pkt = p) then { r with sent := r.sent.map fun x => if x.pkt = p then { x with time := s.now } else x }
    else { r with sent := r.sent ++ [⟨p, s.now, 0⟩] }

/-- The peer through which a packet goes two-hop (R201): connected now, credit for all of it, soonest at the destination, then the lower number. -/
def relayFor (dst n : Nat) : Option Nat :=
  let l := s.peersNow.filter fun p => p ≠ dst && 128 * n ≤ (s.peer p).credit && (s.firstFree (s.fibresTo p)).isSome
  let pick (o : Option Nat) (p : Nat) : Option Nat :=
    match o with
    | some q => if s.slotsAway p dst < s.slotsAway q dst then some p else o
    | none => some p
  l.foldl pick none

/-- Send a packet of this device's own if it may go now: directly, or two-hop when the next direct connection is more than h slots away (R200, R201). -/
def sendOwn (d h : Nat) (p : Pkt) : Option State :=
  let direct := s.fibresTo d
  match s.firstFree direct with
  | some f => if s.fits f p.flits then some (s.transmit d f p false false) else none
  | none =>
    if h < 15 && h < s.slotsAway s.devid d then
      match s.relayFor d p.flits with
      | none => none
      | some r =>
        match s.firstFree (s.fibresTo r) with
        | some f => if s.fits f p.flits then some (s.transmit r f p true false) else none
        | none => none
    else none

/-- The link control packet that names a flit to be replayed: it goes out as a LINKCTL flit on the named fibre (R209). -/
def nakOp : Nat := 43

/-- Send from the link-control FIFO (R200): the first packet that can go. A named flit needs only its fibre's connection, and holds nothing else back (R209). -/
def sendLink (d : Nat) : Option State :=
  let r := s.peer d
  let able (p : Pkt) : Bool :=
    -- a LINKCTL flit takes no place in the replay buffer
    if p.op = nakOp then s.joined d (p.arg 0) && s.windowFits (p.arg 0) 1
    else (s.firstFree (s.fibresTo d)).elim false fun f => s.fits f p.flits
  match r.link.find? able with
  | none => none
  | some p =>
    let t := s.setPeer d { r with link := r.link.erase p }
    if p.op = nakOp then some ((t.modPort (p.arg 0) fun o => { o with freeAt := max o.freeAt (64 * s.now) + flitTime o.set }).tally 13)
    else (s.firstFree (s.fibresTo d)).map fun f => t.transmit d f p false false

/-- Send from the relayed FIFO: at a direct connection (R200, R202). -/
def sendRelayed (d : Nat) : Option State :=
  let r := s.peer d
  match r.relay, s.firstFree (s.fibresTo d) with
  | p :: l, some f => if s.fits f p.flits then some ((s.setPeer d { r with relay := l }).transmit d f p false true) else none
  | _, _ => none

/-- Send from the ordered FIFO, with at most 1,024 packets unacknowledged (R203), and from the bulk FIFO. -/
def sendOrdered (d : Nat) : Option State :=
  let r := s.peer d
  match r.ordered with
  | p :: l =>
    if (r.sent.filter fun x => x.pkt.cls = 0).length < 1024 || r.sent.any (fun x => x.pkt = p) then (s.setPeer d { r with ordered := l }).sendOwn d s.fab.relayTh p else none
  | [] => none
def sendBulk (d : Nat) : Option State :=
  let r := s.peer d
  match r.bulk with
  | p :: l => (s.setPeer d { r with bulk := l }).sendOwn d s.fab.bulkTh p
  | [] => none

/-- Deal the next packet of a destination's queue: link control, relayed, ordered, bulk (R200, R203). -/
def dealOne (d : Nat) : Option State := (s.sendLink d).or ((s.sendRelayed d).or ((s.sendOrdered d).or (s.sendBulk d)))

def dealQueue (d : Nat) : Nat → State → State
  | 0, u => u
  | fuel + 1, u => match u.dealOne d with | some v => dealQueue d fuel v | none => u

/-- Deal whatever can be sent now. -/
def dealAll : State :=
  if !s.fab.slotOpen then s else
  let one (t : State) (e : Nat × Peer) : State :=
    let r := e.2
    dealQueue e.1 (r.link.length + r.relay.length + r.ordered.length + r.bulk.length) t
  s.fab.peers.foldl one s

/-- What a transmit fibre's SLOTHDR carries in this slot (R202, R210, R212). -/
def slotHeader (f : Nat) : SlotHdr :=
  let d := (s.port f).peer
  let first := ((List.range 64).find? fun g => s.pairedWith s.devid s.fab.slot g = some d).getD 64
  { dev := s.devid, fibre := f, slot := s.fab.slot, set := (s.port f).set, credit := if first = f then tabGet 0 s.fab.granted d else 0,
    health := (s.port (64 + f)).healthMask }

/-- Wavelengths on their way back. -/
def wakeMask (l : List (BitVec 64 × Nat)) : BitVec 64 := l.foldl (fun n e => n ||| e.1) 0
/-- A bank that shifts takes the next channel, with every heater code recomputed, and is counted (R214). -/
def shiftBank (ticks : Nat) (p : Port) : Port :=
  if !p.shift then p else
  { p with shift := false, bank := (p.bank + 1) % 64, heater := (List.range 64).map (fun w => (w, (Config.heaterCode (ticks + w)).toNat)), handoffs := min 65535 (p.handoffs + 1) }

/-- A fibre's two ports at the start of a slot (R195, R212 to R214): waking, parking and health first, then the striping set. While a bank of either shifts, the connection carries no traffic. -/
def openPort (f : Nat) : State :=
  let o := s.port f
  let q := s.port (64 + f)
  let dark : Bool := o.shift || q.shift
  let due (e : BitVec 64 × Nat) : Bool := e.2 ≤ s.now
  let wakes := o.wakes.filter fun e => !due e
  let peer := s.pairedWith s.devid s.fab.slot f
  let usable := match peer with
    | some d => o.fallSick.healthMask &&& ~~~o.parked &&& ~~~wakeMask wakes &&& tabGet (BitVec.allOnes 64) o.peerHealth d
    | none => 0
  let set := if dark then 0 else stripe usable
  let o1 : Port := { shiftBank s.ticks o.fallSick with
    wakes, set, peer := peer.getD 0, down := set = 0 || peer.any s.fab.refused.contains, dark, nextLink := 0, replay := [], cutting := none,
    freeAt := s.windowOpen f + 64 * 34 }
  -- no connection is usable before its SLOTHDR (R210, R218)
  let q1 : Port := { shiftBank (s.ticks + 64) q.fallSick with
    peer := peer.getD 0, down := true, set := 0, live := false, dark, expectLink := 0, early := [], failed := [], partialPkt := [], cutting := none }
  { (s.setPort f o1).setPort (64 + f) q1 with ticks := if dark then s.ticks + 128 else s.ticks }

end State

/-- A SLOT BEGINS (R196, R200, R202, R204, R212): striping sets, the relay credit of the boundary, probes to DOWN peers, and the dealing of packets. -/
def execSlotBoundary (s : State) : Out :=
  if !s.fab.trained || s.now < s.fab.epoch then .next s else
  let k := (s.now - s.fab.epoch) / s.fab.slotNs
  let s1 := { s with fab := { s.fab with slot := k, slotOpen := true } }
  let s2 := (List.range 64).foldl (fun (t : State) f => t.openPort f) s1
  let near := s2.peersNow
  let free := 268435456 - s2.fab.relayUsed
  let c := if near = [] then 0 else free / (65536 * near.length)
  let give (t : Tab Nat) (d : Nat) : Tab Nat := tabSet 0 t d c
  let s3 := { s2 with fab := { s2.fab with granted := near.foldl give [], peers := s2.fab.peers.map fun e => (e.1, { e.2 with credit := 0 }) } }
  let probe (t : State) (d : Nat) : State :=
    let r := t.peer d
    let t1 := if r.down && !r.link.any (fun p => p.op = Pk.probe) then t.sendMsg d 2 Pk.probe 0 0 [] else t
    (r.sent.filter fun x => r.down && x.pkt.op = Pk.done).foldl (fun (u : State) x => u.requeue d x.pkt) t1
  .next (near.foldl probe s3).dealAll

/-- A SLOTHDR ARRIVES, or none of its copies passes its CRC (R202, R210, R212): then the connection carries no traffic for the slot, either way (R195). An empty striping set leaves the receiver without a usable connection (R218). -/
def execSlothdr (fibre : Nat) (h : Option SlotHdr) (s : State) : Out :=
  if 64 ≤ fibre then .next s else
  let close (p : Port) : Port := { p with dark := true, live := false, down := true }
  match h with
  | none => .next ((s.modPort (64 + fibre) close).modPort fibre close)
  | some x =>
    if s.pairedWith s.devid s.fab.slot fibre ≠ some x.dev || x.slot ≠ s.fab.slot || !s.fab.slotOpen || (s.port (64 + fibre)).dark then .next s else
    let s1 := s.modPort (64 + fibre) fun p => { p with live := x.set ≠ 0, down := x.set = 0 || s.fab.refused.contains x.dev, set := x.set, peer := x.dev }
    let s2 := s1.modPort fibre fun p => { p with peerHealth := tabPut p.peerHealth x.dev x.health }
    -- the counters of the sender's keys may have run ahead by flits that were dropped (log 99)
    let k := s2.key (x.dev + 256) fibre
    let ahead (e : Nat × Nat) : Nat × Nat := (e.1, e.2 + Config.lostFlits (s.ticks + 1))
    let s3 := { s2.setKey (x.dev + 256) fibre { k with counter := k.counter + Config.lostFlits s.ticks, next := k.next.map ahead } with ticks := s.ticks + 2 }
    .next (s3.modPeer x.dev fun r => { r with credit := r.credit + 65536 * x.credit }).dealAll

namespace State
variable (s : State)

/-- End the outbound packet of a cut-through with a POISON flit (R215). -/
def poisonOut (f : Nat) : State :=
  let o := s.port f
  match o.cutting with
  | none => s
  | some g =>
    let fl := makeFlit 4 2 o.nextLink (s.linkAck f) true 0
    let o1 : Port := { o with cutting := none, replay := tabPut o.replay o.nextLink fl, nextLink := o.nextLink + 1, freeAt := max o.freeAt (64 * s.now) + flitTime o.set }
    ((s.setPort f o1).modPort (64 + g) fun p => { p with cutting := none }).tally 13

/-- The payload bytes of flits in order. -/
def flitBytes (fl : List Flit) : List Nat := fl.flatMap fun f => Crypto.toLE f.toNat 120
/-- Fields of the header in the first of a packet's bytes: payload length and key epoch. -/
def wireLen (all : List Nat) : Nat := Crypto.ofLE ((all.drop 8).take 2)
def wireEpoch (all : List Nat) : Nat := Crypto.ofLE ((all.drop 10).take 2) % 1024

/-- What a packet of a receive fibre was encrypted under, by its header's epoch: secret, epoch and counter. A receiver has the epoch e it has used, and e + 1 once that is installed (R217); nothing opens from a peer whose signature has failed (R216). -/
def recvKey? (fibre e : Nat) : Option (Nat × Nat × Nat) :=
  let i := (s.port (64 + fibre)).peer
  let k := s.key (i + 256) fibre
  if s.fab.refused.contains i then none
  else if e = k.epoch % 1024 then k.secret.map fun x => (x, k.epoch, k.counter)
  else if e = (k.epoch + 1) % 1024 then k.next.map fun x => (x.1, k.epoch + 1, x.2)
  else none
/-- Key and nonce of a packet on a receive fibre. -/
def recvCipher (fibre : Nat) (x : Nat × Nat × Nat) : List Nat × List Nat :=
  let i := (s.port (64 + fibre)).peer
  (keyBytes x.1 i s.devid fibre x.2.1, nonceOf (keyIndex i s.devid fibre x.2.1) x.2.2)

/-- The packet that the flits of a fibre make up: its header is in the clear, its payload is what the tag's check leaves of it (R203, R216). -/
def assemble (fibre : Nat) (fl : List Flit) : Option Pkt :=
  let all := flitBytes fl
  (s.recvKey? fibre (wireEpoch all)).bind fun x =>
    let c := s.recvCipher fibre x
    (Crypto.gcmOpen c.1 c.2 (all.take 32) ((all.drop 32).take (wireLen all + 16))).map fun l => Pkt.ofWire (Crypto.ofLE (all.take 32)) (l.map (BitVec.ofNat 8))

/-- A receiver's counter advances by a packet's flits; the first packet whose tag passes under epoch e + 1 leaves epoch e behind (R217). -/
def spendRecv (fibre : Nat) (fl : List Flit) (good : Bool) : State :=
  let d := (s.port (64 + fibre)).peer + 256
  let k := s.key d fibre
  if wireEpoch (flitBytes fl) = k.epoch % 1024 then s.setKey d fibre { k with counter := k.counter + fl.length }
  else match k.next with
    | some x => s.setKey d fibre (if good then ⟨k.epoch + 1, x.2 + fl.length, false, false, some x.1, none⟩ else { k with next := some (x.1, x.2 + fl.length) })
    | none => s

/-- A relay may begin to forward cut-through (R215): the fibre it takes, when the destination is connected in this slot, its relayed FIFO is empty, and the packet's flits fit there (R200, R209). Whether it does is a free choice. -/
def cutThrough (f : Flit) : Option Nat × State :=
  let all := flitBytes [f]
  let dst := all.getD 1 0
  if all.getD 2 0 / 32 % 2 = 1 && dst ≠ s.devid && (s.peer dst).relay = [] then
    match s.firstFree (s.fibresTo dst) with
    | some g => if !s.fits g ((wireLen all + 167) / 120) then (none, s) else let c := s.choose 2; if c.1 = 1 then (some g, c.2) else (none, c.2)
    | none => (none, s)
  else (none, s)

/-- The newest flit of a cut-through packet goes on, decrypted and encrypted again under the outbound key (R215, R216): `fl` holds the inbound flits so far. The flits stand under the counter of the packet's first (R217). -/
def cutFlit (g fibre : Nat) (fl : List Flit) : State :=
  let o := s.port g
  let k := s.key o.peer g
  let all := flitBytes fl
  let len := wireLen all
  -- the outbound guard that comes in the middle of the packet ends it in POISON (R215)
  if !s.windowFits g 1 then s.poisonOut g else
  match s.recvKey? fibre (wireEpoch all) with
  | none => s.poisonOut g
  | some x =>
    let c := s.recvCipher fibre x
    let body := (all.drop 32).take len
    let plain := List.zipWith (· ^^^ ·) body (Crypto.keyStream (Crypto.roundKeys c.1) c.2 body.length)
    -- the header goes on as it came, but for the key epoch of the outbound fibre
    let hdr := all.take 10 ++ Crypto.toLE (k.epoch % 1024) 2 ++ (all.drop 12).take 20
    let sealed := Crypto.gcmSeal (keyBytes (k.secret.getD 0) s.devid o.peer g k.epoch) (nonceOf (keyIndex s.devid o.peer g k.epoch) o.cutAt) hdr plain
    let out := hdr ++ sealed.take (if body.length = len then len + 16 else body.length)
    let x := dataFlit out ((len + 167) / 120) (fl.length - 1) o.nextLink (s.linkAck g)
    let o1 : Port := { o with replay := tabPut o.replay o.nextLink x, nextLink := o.nextLink + 1, freeAt := max o.freeAt (64 * s.now) + flitTime o.set }
    ((s.setPort g o1).spendKey o.peer g 1).tally 13

/-- A flit is passed on to the transport layer in link-sequence order (R209, R215): its packet is whole with its last flit, which a cut-through sends on only when the tag has passed. -/
def passFlit (fibre : Nat) (f : Flit) : State :=
  let p := s.port (64 + fibre)
  if flitType f = 4 then
    -- a packet that ends in POISON is discarded whole
    let s1 := (match p.cutting with | some g => s.poisonOut g | none => s).spendRecv fibre p.partialPkt false
    s1.modPort (64 + fibre) fun q => { q with partialPkt := [], cutting := none }
  else
    let pos := flitPos f
    let first : Bool := pos = 1 || pos = 3
    let last : Bool := pos = 2 || pos = 3
    let fl := if first then [f] else p.partialPkt ++ [f]
    let cut := if first then s.cutThrough f else (p.cutting, s)
    let s1 := match cut.1 with
      | some g => if first then cut.2.modPort g fun o => { o with cutting := some fibre, cutAt := (cut.2.key o.peer g).counter } else cut.2
      | none => cut.2
    if !last then
      let s2 := s1.modPort (64 + fibre) fun q => { q with partialPkt := fl, cutting := cut.1 }
      match cut.1 with | some g => s2.cutFlit g fibre fl | none => s2
    else
      let q := s1.assemble fibre fl
      let s2 := match cut.1 with
        | some g => if q.isSome then (s1.cutFlit g fibre fl).modPort g fun o => { o with cutting := none } else s1.poisonOut g
        | none => s1
      let s3 := (s2.spendRecv fibre fl q.isSome).modPort (64 + fibre) fun q => { q with partialPkt := [], cutting := none }
      match q with
      | none => s3
      | some q =>
        -- any packet of a peer that is received intact clears DOWN (R204)
        if cut.1.isSome then s3.heard q.src
        else if q.dst = s3.devid then s3.post [.transportReceive q]
        else if q.relayed then s3.post [.relayForward q] else s3

/-- Pass on every flit that is next in link sequence (R209). -/
def passAll (fibre : Nat) : Nat → State → State
  | 0, u => u
  | fuel + 1, u =>
    let p := u.port (64 + fibre)
    match tabFind p.early p.expectLink with
    | none => u
    | some f => passAll fibre fuel ((u.setPort (64 + fibre) { p with early := tabDel p.early p.expectLink, expectLink := p.expectLink + 1 }).passFlit fibre f)

/-- A link acknowledgement frees the replay buffer, and the relay buffer of the packets it covers (R202, R209). -/
def linkAcked (f n : Nat) : State :=
  let o := s.port f
  let fresh (k : Nat) : Bool := decide (n ≤ k)
  let freed := (o.relayOut.filter fun e => !fresh e.1).foldl (fun m e => m + e.2) 0
  let s1 := s.setPort f { o with replay := o.replay.filter fun e => fresh e.1, relayOut := o.relayOut.filter fun e => fresh e.1 }
  { s1 with fab := { s1.fab with relayUsed := s1.fab.relayUsed - freed } }

/-- The link sequence number of a flit, from its 16 bits and a number near it. -/
def nearSeq (base w : Nat) : Nat := if base ≤ base / 65536 * 65536 + w + 32768 then base / 65536 * 65536 + w else base / 65536 * 65536 + w + 65536

end State

/-- A FLIT ARRIVES (R206 to R209): corrected, checked, and passed on in link-sequence order; an uncorrectable one is named to the sender. DEDUCED (log 26): an uncorrectable flit is the next that has not been seen, unless its number is that of a flit already named. -/
def execFlitReceive (fibre : Nat) (f : Flit) (s : State) : Out :=
  if 64 ≤ fibre || !(s.port (64 + fibre)).live then .next s else
  let c := correct f
  let p := s.port (64 + fibre)
  let seen := p.early.foldl (fun m e => max m (e.1 + 1)) (p.failed.foldl (fun m e => max m (e.1 + 1)) p.expectLink)
  if !crcOk c.1 then
    let w := State.nearSeq p.expectLink (flitSeq f)
    let n := if (tabFind p.failed w).isSome then w else seen
    let p1 : Port := { p with uncorrectable := min 65535 (p.uncorrectable + 1), failed := tabPut p.failed n f }
    .next ((s.setPort (64 + fibre) p1).sendMsg p.peer 2 State.nakOp 0 0 [fibre, n])
  else
    let x := c.1
    let p1 : Port := if c.2 = 0 then p else { p with corrected := min 65535 (p.corrected + 1), bits := segmentBits p.set p.bits c.2 }
    if 4 < flitType x then .next (s.setPort (64 + fibre) { p1 with uncorrectable := min 65535 (p1.uncorrectable + 1) }) else
    let s1 := s.setPort (64 + fibre) p1
    let s2 := if flitField x 985 1 = 1 then s1.linkAcked fibre (State.nearSeq ((s1.port fibre).nextLink - 4096) (flitField x 986 16)) else s1
    if flitType x = 3 then .next (s2.post [.linkctl fibre (flitField x 0 16)])
    else if flitType x = 2 || flitType x = 4 then
      let n := State.nearSeq p1.expectLink (flitSeq x)
      let q := s2.port (64 + fibre)
      -- a replayed flit shows which bits of the failed copy were wrong
      let q1 : Port := match tabFind q.failed n with
        | some old => { q with failed := tabDel q.failed n, bits := segmentBits q.set q.bits (old ^^^ x) }
        | none => q
      if n < q1.expectLink || q1.expectLink + 4096 ≤ n then .next (s2.setPort (64 + fibre) q1) else
      let s3 := s2.setPort (64 + fibre) { q1 with early := tabPut q1.early n x }
      .next (State.passAll fibre (q1.early.length + 1) s3)
    else .next s2

/-- A NAK ARRIVES (R209): the named flit goes out again, ahead of new flits, with the ciphertext it had (R217). -/
def execLinkctl (fibre seq : Nat) (s : State) : Out :=
  let o := s.port fibre
  match o.replay.find? fun e => e.1 % 65536 = seq % 65536 with
  | none => .next s
  | some _ =>
    -- no more of it than ends before the window closes; what is left drops at the slot's end
    if s.windowClose fibre < 64 * s.now + flitTime o.set then .next s
    else .next ((s.setPort fibre { o with freeAt := max o.freeAt (64 * s.now) + flitTime o.set }).tally 13)

/-- THE GUARD AT THE END OF A SLOT (R209, R211, R215): poisoned cut-throughs, dropped flits, packets and names of flits, health scores; credit lapses (R202). -/
def execSlotEnd (s : State) : Out :=
  if !s.fab.slotOpen then .next s else
  let s1 := (List.range 64).foldl (fun (t : State) f => t.poisonOut f) s
  let drop (t : State) (f : Nat) : State :=
    let o := t.port f
    let freed := o.relayOut.foldl (fun m e => m + e.2) 0
    let o1 : Port := { o.scoreSlot with replay := [], relayOut := [], cutting := none }
    let q1 : Port := { (t.port (64 + f)).scoreSlot with early := [], failed := [], partialPkt := [], live := false, cutting := none }
    let t1 := (t.setPort f o1).setPort (64 + f) q1
    { t1 with fab := { t1.fab with relayUsed := t1.fab.relayUsed - freed } }
  let s2 := (List.range 64).foldl drop s1
  let lapse (r : Peer) : Peer := { r with credit := 0, link := r.link.filter fun p => p.op ≠ State.nakOp }
  .next (State.post { s2 with fab := { s2.fab with slotOpen := false, granted := [], peers := s2.fab.peers.map fun e => (e.1, lapse e.2) } } [.slotBoundary])

/-- A RELAY HAS A WHOLE RELAYED PACKET (R202): it waits in the relayed FIFO of its destination, in the relay buffer. It clears DOWN of the peer that has sent it (R204). -/
def execRelayForward (p : Pkt) (s : State) : Out :=
  let s0 := s.heard p.src
  if 268435456 < s.fab.relayUsed + 128 * p.flits || p.dst = s.devid then .next s0 else
  let s1 := s0.modPeer p.dst fun r => { r with relay := r.relay ++ [p] }
  .next { s1 with fab := { s1.fab with relayUsed := s1.fab.relayUsed + 128 * p.flits } }

/-- A cut-through whose inbound side has failed, or whose outbound window ends, ends in POISON (R215). -/
def execPoison (fibre : Nat) (s : State) : Out := .next (s.poisonOut fibre)

namespace State
variable (s : State)

/-- Wake parked wavelengths (R213): they join at the first boundary at least 4 µs later. -/
def wakeWaves (f : Nat) (m : BitVec 64) : State :=
  s.modPort f fun o =>
    let new := m &&& o.parked
    if new = 0 then o else { o with parked := o.parked &&& ~~~new, wakes := o.wakes ++ [(new, s.now + 4000)] }
/-- Park wavelengths from the next boundary on (R213). -/
def parkWaves (f : Nat) (m : BitVec 64) : State :=
  s.modPort f fun o => { o with parked := o.parked ||| m, wakes := (o.wakes.map fun e => (e.1 &&& ~~~m, e.2)).filter fun e => e.1 ≠ 0 }

end State

/-- PARKING the upper half of a striping set, and the wake command (R213). -/
def execParkWake (fibre : Nat) (wake : Bool) (s : State) : Out :=
  if 64 ≤ fibre then .next s
  else if wake then .next (s.wakeWaves fibre (BitVec.allOnes 64))
  else
    let l := wavesOf (s.port fibre).set
    .next (if l.length < 4 then s else s.parkWaves fibre (waveMask (l.drop (l.length / 2))))

/-- A HEATER STEP (R214). A code that reaches an end shifts the whole bank at the next boundary. DESIGN CHOICE (log 27): a step is one code, and a code that nothing has set is 0x8000. -/
def execRingTune (port w : Nat) (up : Bool) (s : State) : Out :=
  if 128 ≤ port || 64 ≤ w then .next s else
  .next (s.modPort port fun o =>
    let x := tabGet 0x8000 o.heater w
    let y := if up then min 65535 (x + 1) else x - 1
    { o with heater := tabPut o.heater w y, shift := o.shift || y = 0 || y = 65535 })

/-- A REKEY (R216, R217): an event without a peer's message starts the agreement, and the peer's ephemeral key with its signature ends it. With both signatures good it installs a new secret: on a transmit fibre the key of epoch e + 1 with its counter at 0, after a packet that is on its way; at a receiver, epoch e stays until a packet under e + 1 has come. A signature that fails leaves the pair DOWN. -/
def execRekey (key : Nat × Nat) (p : List Byte × List Byte) (s : State) : Out :=
  let peer := key.1
  let fibre := key.2
  if 512 ≤ peer || 64 ≤ fibre then .next s else
  let k := s.key peer fibre
  let d := peer % 256
  let again : List Instr := if p.1 = [] then [] else [.rekey key p]
  if !k.rekeying then .next (((s.setKey peer fibre { k with rekeying := true }).logAction .rekey).post again)
  else if p.1 = [] then .next s
  else if !State.peerSigned d p then
    let s1 := s.setKey peer fibre { k with rekeying := false }
    .next (State.failPeer { s1 with fab := { s1.fab with refused := d :: s1.fab.refused } } d)
  else if peer < 256 && (s.port fibre).cutting.isSome && (s.port fibre).peer = peer then .next (s.post again)
  else
    let x := some (State.newSecret s.ticks p.1)
    -- the pair has agreed again
    let s := { s with fab := { s.fab with refused := s.fab.refused.filter (· ≠ d) } }
    let s1 := { s.setKey peer fibre (if peer < 256 then ⟨k.epoch + 1, 0, false, false, x, none⟩ else { k with rekeying := false, next := x.map fun y => (y, 0) }) with ticks := s.ticks + 1 }
    .next (if peer < 256 then s1.modPort fibre fun o => { o with keystop := (List.range 256).any fun d => (s1.key d fibre).stopped } else s1)

/-- KEYSTOP (R217): a key whose counter has reached 2^41 sends no more. -/
def execKeystop (peer fibre : Nat) (s : State) : Out :=
  let k := s.key peer fibre
  if 256 ≤ peer || 64 ≤ fibre || k.counter < 2 ^ 41 then .next s else
  .next ((s.setKey peer fibre { k with stopped := true }).modPort fibre fun o => { o with keystop := true })

/-- LINK TRAINING (R197 to R199, R216): the pod's size, slot length and epoch, the phases, which rotors are in service, and a fresh secret with every peer. `ends` says which rotors came into service, and gives each peer's ephemeral key and its signature: a peer whose signature fails stays DOWN. A table outside its ranges trains nothing. -/
def execLinkTraining (n slotNs epoch : Nat) (phases : List Nat) (ends : List Bool × List (List Byte × List Byte)) (s : State) : Out :=
  let ok := ends.1
  let sent (d : Nat) : List Byte × List Byte := ends.2.getD d ([], [])
  let l := sequenceLength n
  if n < 2 || 256 < n || n ≤ s.devid || slotNs < 2000 || 20000 < slotNs then .next s else
  let ph (f : Nat) : Nat := phases.getD f (f * l / 64)
  if !(List.range 64).all (fun f => ph f < l) then .next s else
  let tabPh (t : Tab Nat) (f : Nat) : Tab Nat := tabSet 0 t f (ph f)
  let tabOk (t : Tab Bool) (f : Nat) : Tab Bool := tabSet false t f (ok.getD f false)
  let peers := (List.range n).filter fun d => d ≠ s.devid
  let bad := peers.filter fun d => !State.peerSigned d (sent d)
  let agree (t : Tab Nat) (d : Nat) : Tab Nat := if bad.contains d then t else tabPut t d (State.newSecret (s.ticks + d) (sent d).1)
  let fab : FabSt := { s.fab with n, slotNs, epoch, slot := 0, slotOpen := false, trained := true, keys := [], phases := (List.range 64).foldl tabPh [],
                                  inService := (List.range 64).foldl tabOk [], granted := [], secrets := peers.foldl agree [], refused := bad,
                                  ports := s.fab.ports.map fun e => (e.1, { e.2 with keystop := false, cutting := none }) }
  let s1 := bad.foldl (fun (t : State) d => t.failPeer d) { s with fab, ticks := s.ticks + 256 }
  let probe (t : State) (d : Nat) : State := if (t.peer d).down && !bad.contains d then t.sendMsg d 2 Pk.probe 0 0 [] else t
  .next ((peers.foldl probe s1).post [.slotBoundary])

/-- The agent writes a wavelength's score to 0, which readmits it (R211, R218). -/
def execHealthWrite (port w : Nat) (s : State) : Out :=
  if 128 ≤ port || 64 ≤ w then .next s else
  .next (s.modPort port fun o => o.writeHealth w 0)

namespace State
variable (s : State)

/-- A register of the fabric block as the host reads it (R199). -/
def fabricReg (off : Nat) : DWord :=
  let bit (b : Bool) (k : Nat) : Nat := if b then 2 ^ k else 0
  BitVec.ofNat 64 <|
    if off = 0x0000 then s.fab.slotNs
    else if off = 0x0008 then s.fab.epoch
    else if off = 0x0010 then s.fab.n % 512 + 2 ^ 16 * (s.devid % 256)
    else if off = 0x0018 then s.fab.slot
    else if off = 0x0020 then s.fab.relayTh % 16 + 16 * (s.fab.bulkTh % 16)
    else if 0x0100 ≤ off && off < 0x0300 && off % 8 = 0 then
      let f := (off - 0x0100) / 8
      f + 2 ^ 8 * sequenceLength s.fab.n + 2 ^ 16 * tabGet 0 s.fab.phases f + bit (tabGet false s.fab.inService f) 31
    else 0

/-- A register of a port's status block (R218). -/
def portReg (p off : Nat) : DWord :=
  let o := s.port p
  let bit (b : Bool) (k : Nat) : Nat := if b then 2 ^ k else 0
  let n := (wavesOf o.set).length
  if off = 0x00 then o.set
  else if off = 0x08 then (if p < 64 then o.parked else 0)
  else BitVec.ofNat 64 <|
    if off = 0x10 then
      o.corrected % 65536 + 2 ^ 16 * (o.uncorrectable % 65536) + 2 ^ 32 * (o.handoffs % 65536) + 2 ^ 48 * (o.peer % 256) + 2 ^ 59 * (if n < 2 then 0 else Nat.log2 n) + bit o.down 62 + bit o.keystop 63
    else if off = 0x18 then (List.range 256).foldl (fun m d => max m (s.key (if p < 64 then d else d + 256) (p % 64)).counter) 0
    else if 0x80 ≤ off && off < 0x100 && off % 2 = 0 then tabGet 0 o.health ((off - 0x80) / 2)
    else 0

end State

end Machine

end Sys2Proof
end

