-- ==== Sys2Proof/Machine/Logic.lean ====
section
/-! DEFINITION. Class 0x2: logic, shifts, bit fields, select and permute (R290, R294, R297, R357 to R359, R372). -/

namespace Sys2Proof.Machine

/-- The low n bits of source a as a number. -/
def natSrc (s : State) (ty : Ty) (x : Src) (i : Nat) : Nat := lowNat ty.bits (s.rdSrc ty.wide x i)
/-- A bitwise result at the type's width. -/
def bitsOut (ty : Ty) (n : Nat) : LaneOut := (putInt ty n, 0)

def logicOp (x : VArgs) (f : Nat → Nat → Nat) (s : State) : Out :=
  s.vec3 .logic x (.ofTy x.ty) fun t i => bitsOut x.ty (f (natSrc t x.ty x.a i) (natSrc t x.ty x.b i))
def logicOpI (x : VImm) (f : Nat → Nat → Nat) (s : State) : Out :=
  s.vecImm .logic x (.ofTy x.ty) fun t i => bitsOut x.ty (f (natSrc t x.ty x.a i) (lowNat x.ty.bits (x.imm.signExtend 64)))

def execAnd (x : VArgs) (s : State) : Out := logicOp x (fun a b => a &&& b) s
def execAndI (x : VImm) (s : State) : Out := logicOpI x (fun a b => a &&& b) s
def execOr (x : VArgs) (s : State) : Out := logicOp x (fun a b => a ||| b) s
def execOrI (x : VImm) (s : State) : Out := logicOpI x (fun a b => a ||| b) s
def execXor (x : VArgs) (s : State) : Out := logicOp x (fun a b => a ^^^ b) s
def execXorI (x : VImm) (s : State) : Out := logicOpI x (fun a b => a ^^^ b) s
def execNot (x : VArgs) (s : State) : Out :=
  s.vec3 .logicNot x (.ofTy x.ty) fun t i => bitsOut x.ty (2 ^ x.ty.bits - 1 - natSrc t x.ty x.a i)

/-- The three shifts, for any count (R372). -/
def shlVal (n x c : Nat) : Nat := if n ≤ c then 0 else x * 2 ^ c % 2 ^ n
def shrVal (n x c : Nat) : Nat := if n ≤ c then 0 else x / 2 ^ c
def sarVal (n x c : Nat) : Nat :=
  if n ≤ c then (if x / 2 ^ (n - 1) % 2 = 1 then 2 ^ n - 1 else 0) else wrapNat n (toSigned n x / (2 ^ c : Nat))

def shiftOp (x : VArgs) (f : Nat → Nat → Nat → Nat) (s : State) : Out :=
  s.vec3 .shift x (.ofTy x.ty) fun t i => bitsOut x.ty (f x.ty.bits (natSrc t x.ty x.a i) (lowNat 32 (t.rdSrc false x.b i)))
def shiftOpI (x : VImm) (f : Nat → Nat → Nat → Nat) (s : State) : Out :=
  s.vecImm .shift x (.ofTy x.ty) fun t i => bitsOut x.ty (f x.ty.bits (natSrc t x.ty x.a i) x.imm.toNat)

def execShl (x : VArgs) (s : State) : Out := shiftOp x shlVal s
def execShlI (x : VImm) (s : State) : Out := shiftOpI x shlVal s
def execShr (x : VArgs) (s : State) : Out := shiftOp x shrVal s
def execShrI (x : VImm) (s : State) : Out := shiftOpI x shrVal s
def execSar (x : VArgs) (s : State) : Out := shiftOp x sarVal s
def execSarI (x : VImm) (s : State) : Out := shiftOpI x sarVal s

/-- Bits of an n-bit number, counted. -/
def popNat (n x : Nat) : Nat := (List.range n).foldl (fun c i => if x.testBit i then c + 1 else c) 0
/-- Leading zeros of an n-bit number. -/
def clzNat (n x : Nat) : Nat := if x = 0 then n else n - 1 - Nat.log2 x
/-- An n-bit number with its bits reversed. -/
def revNat (n x : Nat) : Nat := (List.range n).foldl (fun c i => if x.testBit i then c + 2 ^ (n - 1 - i) else c) 0

def execPopc (x : VArgs) (s : State) : Out :=
  s.vec3 .count x .word fun t i => (BitVec.ofNat 64 (popNat x.ty.bits (natSrc t x.ty x.a i)), 0)
def execClz (x : VArgs) (s : State) : Out :=
  s.vec3 .count x .word fun t i => (BitVec.ofNat 64 (clzNat x.ty.bits (natSrc t x.ty x.a i)), 0)
def execBrev (x : VArgs) (s : State) : Out :=
  s.vec3 .reverse x (.ofTy x.ty) fun t i => (BitVec.ofNat 64 (revNat x.ty.bits (natSrc t x.ty x.a i)), 0)

/-- BFX on an n-bit number (R294). -/
def bfxVal (signed : Bool) (n x pos len : Nat) : Nat :=
  if n ≤ pos || len = 0 then 0 else
  let l := min len (n - pos)
  let f := x / 2 ^ pos % 2 ^ l
  if signed then wrapNat n (toSigned l f) else f
/-- BFI (R294). -/
def bfiVal (n x base pos len : Nat) : Nat :=
  if n ≤ pos || len = 0 then base else
  let l := min len (n - pos)
  base - (base / 2 ^ pos % 2 ^ l) * 2 ^ pos + (x % 2 ^ l) * 2 ^ pos

def execBfx (x : VArgs) (s : State) : Out :=
  s.vec3 .field x (.ofTy x.ty) fun t i =>
    let f := lowNat 32 (t.rdSrc false x.b i)
    bitsOut x.ty (bfxVal x.ty.signed x.ty.bits (natSrc t x.ty x.a i) (f % 256) (f / 256 % 256))
def execBfi (x : VArgs) (s : State) : Out :=
  s.vec3 .insert x (.ofTy x.ty) fun t i =>
    let f := lowNat 32 (t.rdSrc false x.b i)
    bitsOut x.ty (bfiVal x.ty.bits (natSrc t x.ty x.a i) (natSrc t x.ty x.c i) (f % 256) (f / 256 % 256))

/-- SEL: predicate in M[91:88], its negate in M[92] (R359). -/
def execSel (x : VArgs) (s : State) : Out :=
  s.vec3 .select x (.ofTy x.ty) fun t i =>
    let p := t.rdPred (x.op8.toNat % 16) i != x.op8.getLsbD 4
    bitsOut x.ty (natSrc t x.ty (if p then x.a else x.b) i)

/-- One result byte of PRMT from the selector nibble, the sources and the byte below (R358). -/
def prmtByte (src sel : Nat) (first zf : Bool) (below : Nat) : Nat :=
  if sel < 8 then src / 256 ^ sel % 256 else if first || zf then 0 else if 128 ≤ below then 255 else 0
def prmtVal (a b c : Nat) (zf : Bool) : Nat :=
  let src := a + 2 ^ 32 * b
  let b0 := prmtByte src (c % 16) true zf 0
  let b1 := prmtByte src (c / 16 % 16) false zf b0
  let b2 := prmtByte src (c / 256 % 16) false zf b1
  let b3 := prmtByte src (c / 4096 % 16) false zf b2
  b0 + 256 * b1 + 65536 * b2 + 16777216 * b3
def execPrmt (x : VArgs) (s : State) : Out :=
  s.vec3 .permute x .word fun t i =>
    (BitVec.ofNat 64 (prmtVal (lowNat 32 (t.rdSrc false x.a i)) (lowNat 32 (t.rdSrc false x.b i)) (lowNat 32 (t.rdSrc false x.c i))
      (x.op8.getLsbD 0)), 0)

end Sys2Proof.Machine
end

