-- ==== Sys2Proof/Machine/Teams.lean ====
section
/-! DEFINITION. Placement, the start and end of teams, tickets and clusters, and the privileged instructions (R16 to R19, R41, R101, R105, R168, R263, R264, R351 to R354). -/

namespace Sys2Proof.Machine

/-- A start record (R352). -/
structure StartRec where
  entry : Nat
  record : Nat
  x : Nat
  y : Nat
  z : Nat
  groups : Nat
  prio : Nat
  det : Bool
  clrank : Nat
  regs : Nat
  depth : Nat
  q0 : Nat
  scratch : Nat
  vaultAt : Nat
  priv : Nat
  bartmo : Nat
  spinth : Nat
  ctx : Nat
  asid : Nat
  /-- a reserved field is set -/
  junk : Bool
  deriving DecidableEq, Repr

/-- The 128 bytes of a start record, as a number. -/
def StartRec.ofNat (x : Nat) : StartRec :=
  let f (off n : Nat) : Nat := x / 256 ^ off % 256 ^ n
  { entry := f 0 8, record := f 8 8, x := f 16 4, y := f 20 4, z := f 24 4, groups := f 28 1, prio := f 29 1 % 4, det := f 29 1 / 4 % 2 = 1, clrank := f 30 2,
    regs := f 32 2, depth := f 34 1, q0 := f 35 1, scratch := f 36 4, vaultAt := f 40 8, priv := f 48 4, bartmo := f 52 4, spinth := f 56 4, ctx := f 60 4,
    asid := f 64 2, junk := f 29 1 / 8 ≠ 0 || f 66 62 ≠ 0 }

/-- Ranges of a start record (R15, R28, R80, R109, R352). DEDUCED (log 28): naming both an entry and a record, or neither, is malformed. -/
def StartRec.bad (r : StartRec) : Bool :=
  r.junk || decide (r.entry = 0 ↔ r.record = 0) || r.groups = 0 || 32 < r.groups || 3 < r.q0 || r.regs < 32 || 2048 < r.regs || r.regs % 32 ≠ 0 || 64 < r.depth ||
    262144 < r.scratch || r.scratch % 128 ≠ 0 || r.priv % 16 ≠ 0 || 65536 < r.priv

/-- Quad of a core on its die, and the hops between quads (R108, R110). -/
def dieQuad (c : Nat) : Nat := 6 * (meshRow c / 2) + meshCol c / 2
def quadHops (a b : Nat) : Nat := (max (a / 6) (b / 6) - min (a / 6) (b / 6)) + (max (a % 6) (b % 6) - min (a % 6) (b % 6))

/-- Groups of a team on quadrant q (R16). -/
def groupsOn (groups q0 q : Nat) : Nat := ((List.range groups).filter fun g => (q0 + g) % 4 = q).length

namespace State
variable (s : State)

/-- Group slots and vector registers in use on a quadrant (R16, R17). -/
def slotsUsed (c q : Nat) : Nat := (s.teamsOn c).foldl (fun n k => n + groupsOn (s.team k).groups (s.team k).q0 q) 0
def regsUsed (c q : Nat) : Nat := (s.teamsOn c).foldl (fun n k => n + groupsOn (s.team k).groups (s.team k).q0 q * (s.team k).regs) 0
def slotsFit (c groups q0 : Nat) : Bool := (List.range 4).all fun q => s.slotsUsed c q + groupsOn groups q0 q ≤ Config.groupSlots q
def regsFit (c groups regs q0 : Nat) : Bool := (List.range 4).all fun q => s.regsUsed c q + groupsOn groups q0 q * regs ≤ Config.quadRegs
/-- The team's first quadrant: the lowest that fits (R16). -/
def pickQ0 (c groups regs : Nat) : Option Nat := (List.range 4).find? fun q => s.slotsFit c groups q && s.regsFit c groups regs q
/-- A contiguous run of free scratchpad lines, lowest first (R17, R106). -/
def scratchFit (c n : Nat) : Option Nat :=
  let l := (s.teamsOn c).map fun k => ((s.team k).scratchAt, (s.team k).scratch)
  let starts := 0 :: l.map fun e => e.1 + e.2
  let free (a : Nat) : Bool := a + n ≤ Config.scratchBytes && l.all fun e => e.2 = 0 || a + n ≤ e.1 || e.1 + e.2 ≤ a
  let least (o : Option Nat) (a : Nat) : Option Nat := if free a then (match o with | some b => some (min a b) | none => some a) else o
  starts.foldl least none
/-- A free team slot of a core (R16). -/
def freeSlot (c : Nat) : Option Nat := (List.range Config.teamsPerCore).find? fun t => !(s.teamsOn c).contains (16 * c + t)

/-- A vault allocation for a team (R108, R109): the vault above its quad, or the nearest on the die. DESIGN CHOICE (log 106): of equally near vaults the lowest-numbered, and in it the lowest 64 KiB boundary with room. -/
def vaultFit (c n : Nat) : Option Nat :=
  let order := sortBy (fun a b => decide (quadHops (dieQuad c) a ≤ quadHops (dieQuad c) b)) (List.range 18)
  let free (o : Nat) : Bool := s.mem.vaultAlloc.all fun e => o + n ≤ e.1 || e.1 + (e.2.1 + 65535) / 65536 * 65536 ≤ o
  order.findSome? fun v =>
    let base := (c / 72) * 2 ^ 29 + v * 2 ^ 24
    ((List.range 256).map fun b => base + 65536 * b).find? fun o => o + n ≤ base + 2 ^ 24 && free o

/-- Bytes of vault that a team takes: its `.vault` and its private block (R109). -/
def vaultNeed (k : Kernel) (groups priv : Nat) : Nat := k.vault + 32 * groups * priv

/-- Give a vault range to a context: blocks that another context held last are zeroed (R101, R108). -/
def takeVault (o n ctx : Nat) : State :=
  if n = 0 then s else
  let blocks := (List.range ((n + 65535) / 65536)).map fun i => o / 65536 + i
  let dirty (b : Nat) : Bool := blocks.contains b && tabGet 0 s.mem.vaultHolder b ≠ ctx + 1
  let own (t : Tab Nat) (b : Nat) : Tab Nat := tabSet 0 t b (ctx + 1)
  { s with mem := { s.mem with vault := s.mem.vault.filter (fun e => !dirty (e.1 / 65536)), vaultHolder := blocks.foldl own s.mem.vaultHolder,
                               vaultAlloc := tabPut s.mem.vaultAlloc o (n, ctx) } }

/-- Give scratchpad lines to a team (R101, R106): lines that another context held last are zeroed, and every line reads present. -/
def takeScratch (c at_ n ctx : Nat) : State :=
  let lo := 2048 * c + at_ / 128
  let hi := lo + n / 128
  let mine (l : Nat) : Bool := lo ≤ l && l < hi
  let dirty (l : Nat) : Bool := mine l && tabGet 0 s.mem.holder l ≠ ctx + 1
  let own (t : Tab Nat) (i : Nat) : Tab Nat := tabSet 0 t (lo + i) (ctx + 1)
  { s with mem := { s.mem with scratch := s.mem.scratch.filter (fun e => !dirty (e.1 / 128)), holder := (List.range (n / 128)).foldl own s.mem.holder,
                               absent := s.mem.absent.filter (fun e => !mine e.1), filling := s.mem.filling.filter (fun e => !mine e.1) } }

/-- The coefficient tables of a core's resident teams equal this one (R168). -/
def coefFits (c : Nat) (coef : List Byte) : Bool := (s.teamsOn c).all fun k => decide ((s.grid (s.team k).grid).kernel.coef = coef)

/-- The age of the next team of a core: no two share a start cycle (R22). -/
def nextAge (c : Nat) : Nat := (s.teamsOn c).foldl (fun m k => max m ((s.team k).age + 1)) s.cycle

/-- START A TEAM on a core (R17, R42, R87, R101, R115, R168, R352): its registers hold their start values, its groups start together at the entry, the context's root and coefficient table are loaded, and the grid takes the record's SPINTH (R88). -/
def startTeam (c slot : Nat) (gi index scratchAt : Nat) (r : StartRec) : State :=
  let x := s.grid gi
  let tk := 16 * c + slot
  let g0 : Group := { Group.empty with pc := (List.range 32).map fun i => (i, BitVec.ofNat 64 r.entry) }
  let t : Team := { Team.empty with grid := gi, index, x := r.x, y := r.y, z := r.z, groups := r.groups, q0 := r.q0, prio := r.prio, det := r.det, clrank := r.clrank,
                                    regs := r.regs, depth := r.depth, scratch := r.scratch, scratchAt, vaultAt := r.vaultAt, vault := x.kernel.vault, privSize := r.priv,
                                    bartmo := r.bartmo, ctx := r.ctx, asid := r.asid, age := s.nextAge c, lastWork := s.cycle,
                                    cluster := if x.kernel.cn = 0 then 0 else index / x.kernel.cn }
  let add (l : Tab Group) (g : Nat) : Tab Group := tabPut l (32 * tk + g) g0
  let s1 := (s.takeScratch c scratchAt r.scratch r.ctx).takeVault r.vaultAt (vaultNeed x.kernel r.groups r.priv) r.ctx
  let s2 := { s1 with teams := tabPut s1.teams tk t, groups := (List.range r.groups).foldl add s1.groups, roots := tabPut s1.roots r.asid x.root }
  (s2.modCore c fun k => { k with coef := x.kernel.coef }).modGrid gi fun y => { y with spinth := clampSpin r.spinth }

end State

/-- The exact-sum descriptor in 32 bytes (R151), as block address, V, its reserved bits, and the region. -/
def esumOfNat (x block : Nat) : Bool × Bool × Esum :=
  (x / 2 ^ 63 % 2 = 1, x / 2 ^ 18 % 2 ^ 44 ≠ 0,
   { backing := x / 2 ^ 192, size := x / 2 ^ 128 % 2 ^ 64, base := x / 2 ^ 64 % 2 ^ 64, f64 := x / 2 ^ 62 % 2 = 1, lsb := toSigned 16 (x % 65536), block })

/-- The eight descriptors of a block. -/
def esumBlock (x block : Nat) : List (Bool × Bool × Esum) := (List.range 8).map fun i => esumOfNat (x / 2 ^ (256 * i) % 2 ^ 256) (block + 32 * i)

/-- Do the valid descriptors of a block keep R151's rules? -/
def esumOk (l : List (Bool × Bool × Esum)) : Bool :=
  let v := l.filter fun d => d.1
  v.all (fun d => !d.2.1 && decide (-1100 ≤ d.2.2.lsb) && decide (d.2.2.lsb ≤ 1023) && d.2.2.base % 65536 = 0 && d.2.2.size % 65536 = 0 && d.2.2.backing % 65536 = 0) &&
  v.all fun d => v.all fun e => e.2.2.block = d.2.2.block || d.2.2.base + d.2.2.size ≤ e.2.2.base || e.2.2.base + e.2.2.size ≤ d.2.2.base

namespace State
variable (s : State)

/-- Read a longer range for the agent, line by line. -/
def plainRange (c asid ctx w : Nat) : Nat → Nat → Nat → State → EngRead
  | 0, _, _, u => .wait u
  | fuel + 1, a, n, u =>
    if n = 0 then .ok 0 u else
    let k := min n (128 - a % 128)
    match u.plainRead c asid ctx a k w with
    | .ok x t => match plainRange c asid ctx w fuel (a + k) (n - k) t with
      | .ok y v => .ok (x + 256 ^ k * y) v
      | r => r
    | r => r
def agentRead (c asid ctx a n : Nat) (w : Nat := plainWaiter c) : EngRead := State.plainRange c asid ctx w (n / 128 + 3) a n s

/-- Load a context's exact-sum descriptors (R151). -/
def loadEsums (asid block x : Nat) : State :=
  let put (t : Tab Esum) (e : Nat × (Bool × Bool × Esum)) : Tab Esum :=
    if e.2.1 then tabPut t (8 * asid + e.1) e.2.2.2 else tabDel t (8 * asid + e.1)
  { s with mem := { s.mem with esums := (List.zip (List.range 8) (esumBlock x block)).foldl put s.mem.esums } }

/-- The start record by which the agent starts team i of a grid. -/
def gridRec (gi i q0 vaultAt : Nat) : StartRec :=
  let x := s.grid gi
  let k := x.kernel
  { entry := k.entry.toNat, record := 0, x := i % x.nx, y := i / x.nx % x.ny, z := i / x.nx / x.ny, groups := x.groups, prio := x.prio, det := k.det,
    clrank := if k.cn = 0 then 0 else i % k.cn, regs := k.regs, depth := k.depth, q0, scratch := k.scratch, vaultAt, priv := x.privSize, bartmo := x.bartmo,
    spinth := x.spinth, ctx := x.ctx, asid := x.asid, junk := false }

/-- Can a core take one more team of a grid (R17, R108, R168)? First quadrant, scratchpad and vault places. -/
def teamFit (c gi : Nat) : Option (Nat × Nat × Nat) :=
  let x := s.grid gi
  let k := x.kernel
  if (s.core c).preempt.isSome || (s.freeSlot c).isNone || !s.coefFits c k.coef then none else
  match s.pickQ0 c x.groups k.regs, s.scratchFit c k.scratch with
  | some q, some a =>
    let n := vaultNeed k x.groups x.privSize
    if n = 0 then some (q, a, 0) else (s.vaultFit c n).map fun v => (q, a, v)
  | _, _ => none

/-- May a grid start teams now? -/
def gridOpen (gi : Nat) : Bool :=
  let x := s.grid gi
  x.aborted.isNone && !x.held && !x.suspended && !x.halting && (tabFind s.grids gi).isSome

/-- Effective priority of a queue (R263): one more for each millisecond that its head has been claimable. -/
def effPriority (q : Nat) : Nat := match tabFind s.queues q with | some x => min 7 (x.prio + (if x.read = x.write then 0 else (s.now - x.since) / 1000000)) | none => 0

/-- Grids with tickets left, best first: higher effective priority, then older (R263). -/
def ticketGrids : List Nat :=
  let l := (s.grids.filter fun e => s.gridOpen e.1 && (if e.2.kernel.cn = 0 then e.2.next < e.2.count else e.2.nextCluster * e.2.kernel.cn < e.2.count)).map (·.1)
  sortBy (fun a b => decide (s.effPriority (s.grid b).queue ≤ s.effPriority (s.grid a).queue)) l

/-- Greatest performed time that has returned to any of a team's lanes (R320). -/
def lastPerformed (tk : Nat) : Nat :=
  (List.range (s.team tk).groups).foldl (fun m i => (s.grp (32 * tk + i)).storeP.foldl (fun n e => max n e.2) m) 0
/-- May a switched-out team not resume yet: 20 ns have not passed since the greatest performed time of its accesses, the ones answered after the halt among them (R320)? -/
def tooEarly (r : Record) : Bool := s.now < max r.notBefore (s.lastPerformed r.tk + 20)

/-- Cores whose index is below the module's count. -/
def allCores : List Nat := List.range Config.cores

/-- Greatest performed time among a team's stores, atomics and engine writes (R41). -/
def teamP (tk : Nat) : Nat :=
  s.ops.foldl (fun m e => if teamOf e.2.gk = tk && !isAgent e.2.gk then max m e.2.perf else m) (s.lastPerformed tk)

/-- A team may retire: every thread has exited, its counters are 0 and its log entries are freed (R264). -/
def canRetire (tk : Nat) : Bool :=
  (tabFind s.teams tk).isSome && teamDone s tk && !s.logs.any (fun e => teamOf e.2.gk = tk && !isAgent e.2.gk) &&
    (List.range (s.team tk).groups).all fun g => (List.range 4).all fun c => s.ctrValue (32 * tk + g) c = 0

/-- A grid whose last team has retired and whose spill area is empty ends (R140, R264). -/
def gridEnd (gi : Nat) : State :=
  let x := s.grid gi
  if x.aborted.isNone && x.retired.length = x.count && x.spill = [] && (tabFind s.grids gi).isSome && !x.stopping && !x.halting then
    s.postOnce (.kernelBoundary gi)
  else s

/-- A TEAM RETIRES (R41, R264): it leaves its core, and counts as retired for the frontiers from P + 2 ns. -/
def retireTeam (tk : Nat) : State :=
  let t := s.team tk
  let p := s.teamP tk
  let s1 := s.dropTeam tk
  let s2 := s1.modGrid t.grid fun x => { x with retired := tabPut x.retired t.index (p + 2) }
  (s2.post [.frontierRetire t.grid t.index]).gridEnd t.grid

end State

/-- A TEAM RETIRES once nothing of it is outstanding (R264); in a stop whose lane has exited, the stop takes it first (R281). -/
def execTeamRetire (team : Nat) (s : State) : Out :=
  if (tabFind s.teams team).isNone || isAgent (32 * team) || !teamDone s team then .next s
  else if s.canRetire team then .next (s.retireTeam team) else .next (s.post [.teamRetire team])

/-- A retired team begins to count for the frontiers, and lanes at ORDW go on (R41). -/
def execFrontierRetire (grid team : Nat) (s : State) : Out :=
  match tabFind (s.grid grid).retired team with
  | none => .next s
  | some p => if s.now < p then .next (s.post [.frontierRetire grid team]) else .next s.wakeOrdw

namespace State
variable (s : State)

/-- The grid of a start record: the oldest active one of its context and entry (log 29). -/
def lnchGrid (r : StartRec) : Nat :=
  ((s.grids.find? fun e => e.2.asid = r.asid && e.2.ctx = r.ctx && e.2.kernel.entry.toNat = r.entry && e.2.aborted.isNone).map (·.1)).getD 0

/-- The result code and effect of LNCH for a fresh start (R352). -/
def lnchStart (c : Nat) (r : StartRec) : Nat × State :=
  if !(s.freeSlot c).isSome || !s.slotsFit c r.groups r.q0 then (1, s)
  else if !s.regsFit c r.groups r.regs r.q0 then (2, s)
  else match s.scratchFit c r.scratch with
    | none => (3, s)
    | some a =>
      let gi := s.lnchGrid r
      let x := s.grid gi
      let index := r.x + x.nx * (r.y + x.ny * r.z)
      (0, s.startTeam c ((s.freeSlot c).getD 0) gi index a r)

/-- Does the entry PC fail R46? -/
def entryBad (c asid : Nat) (pc : DWord) : Option (Bool × State) :=
  match pcSlot pc with
  | none => some (true, s)
  | some k => match s.fetchLine c asid pc with
    | .line l bad t => some (bad || !markedAt l k, t)
    | .miss _ => none
    | .trap _ _ _ t => some (false, t)

/-- Key of a context record: its address in the context's space. -/
def recordKey (asid a : Nat) : Nat := asid * 2 ^ 64 + a

end State

end Sys2Proof.Machine
end

