-- ==== Sys2Proof/Machine/Records.lean ====
section
/-! DEFINITION. The bytes of a context record in the driver's save area (R100, R235, R267). The record itself is State's `Record`, from which the team resumes. DESIGN CHOICE (log 102): R100 gives the sections and their sizes, and the model the places of the fields within them. -/

namespace Sys2Proof.Machine

/-- Fields of w bytes each, the first lowest. -/
def packFields (w : Nat) (l : List Nat) : Nat := l.foldr (fun x n => x % 256 ^ w + 256 ^ w * n) 0

/-- Why a lane waits, in 4 bytes: a code and what it waits for. -/
def Wait.code : Wait → Nat
  | .run => 0
  | .exited => 1
  | .rjoin e => 2 + 256 * e
  | .bar b => 3 + 256 * b
  | .barAgain b at_ => (if at_ then 4 else 5) + 256 * b
  | .barw b => 6 + 256 * b
  | .cbar b => 7 + 256 * b
  | .cbarAgain b => 8 + 256 * b
  | .ordw k => 9 + 256 * k
  | .handle i => 10 + 256 * i
  | .parked i => 11 + 256 * i
  | .held => 12
  | .image .. => 13

/-- Registers of a group: vector registers by register and lane, scalar registers, predicates. -/
def groupVec (regs : Nat) (g : Group) : Nat := packFields 128 ((List.range regs).map fun r => packFields 4 ((List.range 32).map fun i => (g.rdV r i).toNat))
def groupScal (g : Group) : Nat := packFields 8 ((List.range 256).map fun n => (g.rdS n).toNat)
def groupPred (g : Group) : Nat := packFields 2 ((List.range 32).map fun i => (tabGet 0 g.p i).toNat)
/-- Path state: PC, RETIRED, innermost entry and wait state by lane. -/
def groupPaths (g : Group) : Nat := packFields 24 ((List.range 32).map fun i => (g.pcOf i).toNat + 2 ^ 64 * (g.retiredOf i % 2 ^ 64) + 2 ^ 128 * (tabGet 0 g.inner i % 2 ^ 32) + 2 ^ 160 * ((g.waitOf i).code % 2 ^ 32))

/-- Codes of the log's kinds and of the engines' operations. -/
def LogKind.code : LogKind → Nat
  | .load => 0 | .store => 1 | .acquire => 2 | .release => 3 | .lineLoad => 4 | .lineStore => 5 | .prefetch => 6 | .atomic => 7
def OpKind.code : OpKind → Nat
  | .copy => 1 | .tile => 2 | .kpass => 3 | .kwin => 4 | .fsend => 5 | .pmig => 6 | .atomNr => 7 | .ffence => 8 | .fsync => 9

/-- An operand-log entry in 1,344 bytes (R94): 64 of the instruction, its slot and masks among them, and 40 for each lane, its address, its store data or operand, and its comparand. -/
def logImage (e : Log) : Nat :=
  let head := e.pc.toNat + 2 ^ 64 * (e.kind.code + 2 ^ 8 * (gidOf e.gk % 256) + 2 ^ 16 * (e.width % 2 ^ 16) + 2 ^ 32 * (e.dst % 2 ^ 16) + 2 ^ 48 * (e.cnt % 2 ^ 16)) + 2 ^ 128 * e.mask.toNat + 2 ^ 160 * e.lanes.toNat + 2 ^ 192 * e.slot.toNat
  let data (i : Nat) : Nat := (List.range (e.width / e.unit)).foldl (fun n k => n + 2 ^ (8 * e.unit * k) * tabGet 0 e.data (64 * i + k)) 0
  let comparand (i : Nat) : Nat := if e.kind = .atomic then 2 ^ 128 * (tabGet 0 e.data (64 * i + 32) % 2 ^ 128) else 0
  head + 2 ^ 512 * packFields 40 ((List.range 32).map fun i => tabGet 0 e.addr i % 2 ^ 64 + 2 ^ 64 * ((data i + comparand i) % 2 ^ 256))

/-- A barrier in 264 bytes (R37): arrived mask, arrival marks, timer and phase. -/
def barImage (b : Barrier) : Nat := b.arrived % 2 ^ 1024 + 2 ^ 1024 * (b.marks % 2 ^ 1024) + 2 ^ 2048 * (b.timer % 2 ^ 63 + if b.phase then 2 ^ 63 else 0)

/-- An operation of the engine reissue list in 64 bytes (R98): 16 of the instruction and 48 of its operands; those of a tile copy are two addresses and two pitches of 8 bytes, height and width of 4, and element size, hy and hx of 1 (R114). -/
def opImage (o : Op) : Nat := o.pc.toNat + 2 ^ 64 * (o.kind.code + 2 ^ 8 * (gidOf o.gk % 256) + 2 ^ 16 * (o.lane % 256) + 2 ^ 32 * (o.mark % 2 ^ 32)) + 2 ^ 128 *
  let a (i : Nat) : Nat := o.args.getD i 0
  if o.kind = .tile then packFields 8 [a 0, a 1, a 2, a 8] + 2 ^ 256 * packFields 4 [a 3, a 4] + 2 ^ 320 * packFields 1 [a 5, a 6, a 7] else packFields 8 (o.args.take 6)

/-- A flow's 64-byte descriptor as the driver wrote it (R220), and the address of its generation table (R235). -/
def flowImage (id : Nat) (f : Flow) : Nat :=
  let mode := Nat.log2 f.esize + (if f.sender then 0 else 4) + if f.multi then 8 else 0
  packFields 8 [f.mirror, f.deliver, f.table, f.record] + 2 ^ 256 * (f.frame % 2 ^ 32 + 2 ^ 32 * (id % 4096) + 2 ^ 48 * (f.source % 256) + 2 ^ 56 * mode) +
    2 ^ 320 * f.dests.length + 2 ^ 384 * packFields 1 f.dests + 2 ^ 512 * f.table

/-- Bytes of a team's context record (R100, R259, R267). -/
def recordBytes (groups regs scratch : Nat) (cluster : Bool) (entries engines flows : Nat) : Nat :=
  64 + groups * (regs * 128 + 2048 + 64 + 32 * 16 * 8 + 32 * 24 + 32) + entries * 1344 + 16 * 264 + (if cluster then 4 * 264 else 0) + scratch + scratch / 1024 +
    64 * engines + 72 * flows

namespace State
variable (s : State)

/-- Handles of a group: status word and tag by lane; the tag's top bit says that the handle's failure has been reported. -/
def groupHandles (g : Group) : Nat :=
  packFields 8 ((List.range 512).map fun k => let tag := tabGet 0 g.h k; (s.handleWord tag).toNat + 2 ^ 32 * (tag % 2 ^ 31) + if tabGet false g.told k then 2 ^ 63 else 0)
/-- Counters, STATUS and the yield mark of a group. -/
def groupCounters (gk : Nat) (g : Group) : Nat := packFields 4 ((List.range 4).map (s.ctrValue gk)) + 2 ^ 128 * g.status.toNat + if g.yieldMark then 2 ^ 192 else 0

/-- THE SECTIONS OF A CONTEXT RECORD (R100), each with its bytes: the team's groups, log entries and operations as they stand, or a checkpoint's copies. -/
def recordSections (r : Record) : List (Nat × Nat) :=
  let t := if r.tk = 0 then r.team else s.team r.tk
  let grp (i : Nat) : Group := if r.tk = 0 then tabGet Group.empty r.groups i else s.grp (32 * r.tk + i)
  let gs := (List.range t.groups).map fun i => (32 * r.tk + i, grp i)
  let mine (gk : Nat) : Bool := !isAgent gk && teamOf gk = r.tk
  let logs := if r.tk = 0 then r.logs else s.logs.filter fun e => mine e.2.gk
  let ops := if r.tk = 0 then r.ops else s.ops.filter fun e => mine e.2.gk && e.2.st = .pending
  let flows := s.flows.filter fun e => e.2.ctx = t.ctx
  let clus : Bool := (s.grid r.grid).kernel.cn ≠ 0
  let n := t.groups
  let bars := (List.range 16).map fun b => barImage (tabGet Barrier.empty t.bars b)
  let cbars := if clus then (List.range 4).map fun b => barImage (tabGet Barrier.empty s.cbars (s.clusterKey r.tk b)) else []
  let presence := (List.range (t.scratch / 128)).foldl (fun m l => m + if (tabFind r.filling l).isSome then 0 else 2 ^ l) 0
  [(n * t.regs * 128, packFields (128 * t.regs) (gs.map fun g => groupVec t.regs g.2)),
   (n * 2048, packFields 2048 (gs.map fun g => groupScal g.2)),
   (n * 64, packFields 64 (gs.map fun g => groupPred g.2)),
   (n * 4096, packFields 4096 (gs.map fun g => s.groupHandles g.2)),
   (n * 768, packFields 768 (gs.map fun g => groupPaths g.2)),
   (n * 32, packFields 32 (gs.map fun g => s.groupCounters g.1 g.2)),
   (logs.length * 1344, packFields 1344 (logs.map fun e => logImage e.2)),
   ((16 + if clus then 4 else 0) * 264, packFields 264 (bars ++ cbars)),
   (t.scratch + t.scratch / 1024, natOf r.scratch + 256 ^ t.scratch * presence),
   (0, 0),
   (ops.length * 64, packFields 64 (ops.map fun e => opImage e.2)),
   (flows.length * 72, packFields 72 (flows.map fun e => flowImage e.1 e.2))]

/-- The 64-byte header (R100): magic, version, group count, `.regs`, context, `.scratch`, and the byte offset of each section. -/
def recordHeader (t : Team) (sizes : List Nat) : Nat :=
  let offset (i : Nat) : Nat := (sizes.take i).foldl (· + ·) 64
  0x43545852 + 2 ^ 32 * (1 + 2 ^ 8 * (t.groups % 2 ^ 8) + 2 ^ 16 * (t.regs % 2 ^ 16)) + 2 ^ 64 * (t.ctx % 2 ^ 32) + 2 ^ 96 * (t.scratch % 2 ^ 32) + 2 ^ 128 * packFields 4 ((List.range 12).map offset)

/-- A context record's bytes, and how many. -/
def recordImage (r : Record) : Nat × Nat :=
  let l := s.recordSections r
  let h := recordHeader (if r.tk = 0 then r.team else s.team r.tk) (l.map (·.1))
  ((l.map (·.1)).foldl (· + ·) 64, h + 2 ^ 512 * l.foldr (fun e n => e.2 + 256 ^ e.1 * n) 0)

/-- The agent writes the next line of a record into the save area (R267): bytes `r.wrote` to the end of its 128-byte line. -/
def writeRecordLine (key : Nat) (r : Record) (img : Nat × Nat) : State :=
  let x := s.grid r.grid
  let a := key % 2 ^ 64 + r.wrote
  let n := min (img.1 - r.wrote) (128 - a % 128)
  let go (u : State) : State := { u with records := tabPut u.records key { r with wrote := r.wrote + n } }
  match s.plainWrite 0 x.asid x.ctx a n (img.2 / 256 ^ r.wrote % 256 ^ n) with
  | .ok _ u => go u
  -- a save area that is not writable keeps what could be written
  | .bad _ => go (s.takeFail (plainWaiter 0))
  | .wait u => u

end State

end Sys2Proof.Machine
end

