-- ==== Sys2Proof/Machine/Preempt.lean ====
section
/-! DEFINITION. Tickets and clusters, pre-emption, context records, resumption, swaps, and LNCH, PREM and RTRAP (R18, R19, R35, R37, R39, R40, R92, R98 to R100, R191, R235, R263, R265, R267, R286, R320, R351 to R354). -/

namespace Sys2Proof.Machine

/-- Are the teams of a grid to leave their cores: for the SUSPEND of its queue, or for a replay stop (R261, R281)? -/
def Grid.leaves (x : Grid) : Bool := x.suspended || x.halting

namespace State
variable (s : State)

-- tickets -----------------------------------------------------------------------------------------------------------

/-- Start team i of a grid on a core where it fits, and take an action record (R263, R268). -/
def launchTeam (c gi i : Nat) (fit : Nat × Nat × Nat) : State :=
  ((s.startTeam c ((s.freeSlot c).getD 0) gi i fit.2.1 (s.gridRec gi i fit.1 fit.2.2))).logAction .lnch

/-- The context's exact-sum descriptors, loaded before a team starts (R151); not yet while the block's pages are serviced. A block that cannot be read any more leaves the descriptors as they are. -/
def withEsums (c gi : Nat) : Bool × State :=
  let x := s.grid gi
  if x.esum = 0 then (true, s) else
  match s.agentRead c x.asid x.ctx x.esum 256 with
  | .ok v t => (true, t.loadEsums x.asid x.esum v)
  | .wait t => (false, t)
  | .bad _ => (true, s.takeFail (plainWaiter c))

/-- The cores of a rectangle with its top-left core, in row-major order; nothing when it leaves the die (R18). -/
def rectangle (c h w : Nat) : Option (List Nat) :=
  if meshRow c + h ≤ 6 && meshCol c + w ≤ 12 then some ((List.range h).flatMap fun r => (List.range w).map fun k => c + 12 * r + k) else none

/-- Reserve one team on a core's entry of its occupancy band (R263). -/
def reserveBand (c : Nat) : Option State :=
  let key := 2 * (c / 72) + (if meshRow c < 4 then 0 else 1)
  let i := if meshRow c < 4 then c % 72 else c % 72 - 48
  let w := tabGet (0, 0) s.bands key
  if w.1 / 4 ^ i % 4 < 2 then some { s with bands := tabPut s.bands key (w.1 + 4 ^ i, (w.2 + 1) % 2 ^ 32) } else none

/-- Reserve and start the next cluster of a grid with its rectangle at a core, whole or not at all (R18, R19, R263). -/
def tryCluster (c gi : Nat) : Option State :=
  let x := s.grid gi
  let k := x.kernel
  match rectangle c k.ch k.cw with
  | none => none
  | some cores =>
    let first := x.nextCluster * k.cn
    let one (o : Option State) (rank : Nat) : Option State :=
      let m := cores.getD (rank % cores.length) 0
      o.bind fun t => (t.reserveBand m).bind fun u => (u.teamFit m gi).map fun f => u.launchTeam m gi (first + rank) f
    ((List.range k.cn).foldl one (some s)).map fun t => t.modGrid gi fun y => { y with nextCluster := y.nextCluster + 1, next := first + k.cn }

end State

/-- AN AGENT TAKES A TEAM TICKET (R14, R42, R263), which takes firmware that runs: the best grid that the core can start a team of; tickets are in linear index order. -/
def execTeamTicket (core grid : Nat) (s : State) : Out :=
  if Config.cores ≤ core || !s.gridOpen grid || s.sys.boot ≠ .ready then .next s else
  let fits := s.ticketGrids.filter fun gi => (s.grid gi).kernel.cn = 0 && (s.teamFit core gi).isSome
  match fits with
  | [] => .next s
  | gi :: _ =>
    match s.withEsums core gi with
    | (false, t) => .next t
    | (true, t) =>
      match t.teamFit core gi with
      | none => .next t
      | some f => .next ((t.launchTeam core gi (t.grid gi).next f).modGrid gi fun y => { y with next := y.next + 1 })

/-- AN ANCHOR RESERVES A RECTANGLE and starts a cluster (R14, R18, R19, R263); a reservation that fails is tried again after 1 µs. -/
def execClusterReserve (core grid : Nat) (s : State) : Out :=
  let x := s.grid grid
  if Config.cores ≤ core || !s.gridOpen grid || s.sys.boot ≠ .ready || x.kernel.cn = 0 || x.count ≤ x.nextCluster * x.kernel.cn then .next s else
  match s.withEsums core grid with
  | (false, t) => .next t
  | (true, t) => match t.tryCluster core grid with
    | some u => .next u
    | none => .next ((t.modGrid grid fun y => { y with retryAt := t.now + 1000 }).post [.clusterRetry core grid])

/-- The anchor tries again 1 µs after a failed reservation (R263). -/
def execClusterRetry (core grid : Nat) (s : State) : Out :=
  if (tabFind s.grids grid).isNone then .next s
  else if s.now < (s.grid grid).retryAt then .next (s.post [.clusterRetry core grid])
  else .next (s.postOnce (.clusterReserve core grid))

namespace State
variable (s : State)

-- pre-emption ---------------------------------------------------------------------------------------------------------

/-- A request for a team is latched on its core (R98): no user group issues there any more, chains in progress roll back and rings empty. -/
def latchCore (t : State) (tk : Nat) : State :=
  let here (gk : Nat) : Bool := !isAgent gk && coreOf gk = tk / 16
  if ((t.core (tk / 16)).preempt.any fun k => (t.members k).contains tk) then t else
  let t1 := t.modCore (tk / 16) fun k => { k with preempt := some tk, haltAt := t.cycle + 225, haltErr := t.errSeq, premOut := none, forSusp := (t.grid (t.team tk).grid).leaves }
  { t1.rollGroups here with issue := t1.issue.filter fun q => !here q.gk }

/-- Latch a pre-emption of a team (R98, R267): on its core, and on the cores of its cluster's other members. -/
def latchHalt (tk : Nat) : State :=
  ((s.members tk).filter fun m => m < 9216).foldl latchCore s

/-- Have the cores of a team's cluster no request latched, but for core c itself? -/
def latchable (c tk : Nat) : Bool := (s.members tk).all fun m => m / 16 = c || (s.core (m / 16)).preempt.isNone

/-- Bytes that the context record of a team takes now. -/
def recordSize (tk : Nat) : Nat :=
  let t := s.team tk
  let mine (gk : Nat) : Bool := !isAgent gk && teamOf gk = tk
  recordBytes t.groups t.regs t.scratch ((s.grid t.grid).kernel.cn ≠ 0) (s.logs.filter fun e => mine e.2.gk).length
    (s.ops.filter fun e => mine e.2.gk && e.2.st = .pending).length (s.flows.filter fun e => e.2.ctx = t.ctx).length

/-- Free room for n bytes in a grid's save area beside the taken ranges, lowest first (R267). -/
def roomIn (x : Grid) (l : List (Nat × Nat)) (n : Nat) : Option Nat :=
  let starts := x.save :: l.map fun e => (e.1 + e.2 + 63) / 64 * 64
  let free (a : Nat) : Bool := a + n ≤ x.save + 1024 * x.saveSize && l.all fun e => a + n ≤ e.1 || e.1 + e.2 ≤ a
  let least (o : Option Nat) (a : Nat) : Option Nat := if free a then (match o with | some b => some (min a b) | none => some a) else o
  starts.foldl least none
/-- The ranges of a grid's save area that records take. -/
def saved (gi : Nat) : List (Nat × Nat) := (s.records.filter fun e => e.2.grid = gi).map fun e => (e.1 % 2 ^ 64, e.2.size)
def saveFit (gi n : Nat) : Option Nat := roomIn (s.grid gi) (s.saved gi) n
/-- Do records of the given sizes all fit in a grid's save area? -/
def saveFits (gi : Nat) (sizes : List Nat) : Bool :=
  (sizes.foldl (fun (o : Option (List (Nat × Nat))) n => o.bind fun l => (roomIn (s.grid gi) l n).map fun a => (a, n) :: l) (some (s.saved gi))).isSome

/-- May a team be a victim, with every member of its cluster (R267, R281)? -/
def victimOk (tk : Nat) : Bool :=
  let t := s.team tk
  !(s.grid t.grid).held && (s.grid t.grid).aborted.isNone && (s.members tk).all (fun m => m < 9216 && !(s.team m).held && !(s.team m).halted) &&
    s.saveFits t.grid ((s.members tk).map s.recordSize)

/-- The next victim on a core: lowest priority, then youngest (R265); for the SUSPEND of a queue, of the teams of suspended grids alone (R261). -/
def victimOn (c : Nat) (susp : Bool) : Option Nat :=
  let l := (s.teamsOn c).filter fun k => s.victimOk k && s.latchable c k && (!susp || (s.grid (s.team k).grid).leaves)
  let pick (o : Option Nat) (k : Nat) : Option Nat :=
    match o with
    | some b => if (s.team k).prio < (s.team b).prio || ((s.team k).prio = (s.team b).prio && (s.team b).age < (s.team k).age) then some k else o
    | none => some k
  l.foldl pick none

/-- A withdrawn pass request starts anew: it fetches its plates and scales again (R191). -/
def withdraw (r : Kreq) : Kreq := { r with plates := [], scales := [], eligible := false, miss := false, fired := none, acc := [] }
/-- The fetch operands that a withdrawn request's parts need again. -/
def refetch (r : Kreq) : State :=
  let k := kWord r.fmt
  let e := kWinElem k.b
  let n := r.steps / kDigits k.a k.w
  let one (t : State) (q : Nat × Nat) : State := t.modOp q.2 fun o => { o with got := [], args := [r.mode, n, r.base.toNat, r.ss.toNat, kSlots k * e, e, opSnap o] }
  r.ops.foldl one s

/-- Of a fired request, the lanes behind an older pass of theirs that has not fired. -/
def behindUnfired (r : Kreq) : List (Nat × Nat) :=
  let older (q : Nat × Nat) : Bool := (s.op q.2).st = .pending && s.kreqs.any fun e =>
    e.2.fired.isNone && e.2.gk = r.gk && e.2.ops.any fun p => p.1 = q.1 && p.2 < q.2 && (s.op p.2).st = .pending
  if r.fired.isSome then r.ops.filter older else []

/-- The lanes of a team's fired passes that stand behind an older pass of theirs that has not fired are withdrawn with it (R188, R191). DEDUCED (log 120): that pass writes only after its reissue, and a lane's outputs keep their order. -/
def recallLanes (tk : Nat) : State :=
  let one (t : State) (e : Nat × Kreq) : State :=
    let l := s.behindUnfired e.2
    if isAgent e.2.gk || teamOf e.2.gk ≠ tk || l = [] then t else
    let rest := e.2.ops.filter fun q => !l.contains q
    let k1 := if rest = [] then tabDel t.kreqs e.1 else tabPut t.kreqs e.1 { e.2 with ops := rest }
    let r := withdraw { e.2 with ops := l }
    State.refetch { t with kreqs := tabPut k1 t.nextKreq r, nextKreq := t.nextKreq + 1, agenda := t.agenda ++ [.kilnEligible t.nextKreq] } r
  s.kreqs.foldl one s

/-- The core halts, with this team and the members of its cluster that it holds (R18, R98). -/
def haltTeam (c tk code : Nat) : State :=
  let here := (s.members tk).filter fun m => m / 16 = c
  let halt (t : State) (m : Nat) : State := ((t.flushOutputs m).recallLanes m).modTeam m fun x => { x with halted := true }
  ((here.foldl halt s).modCore c fun k => { k with preempt := none, premOut := if k.premWait then some code else none, idle := 0 }).post [.contextSwitch tk]

/-- The pre-emption passes to the next victim: the core, where no user group issues any more, halts with it, and the request is latched on the cores of the victim's other members; with no victim, the request ends (R99, R265, R267). -/
def passHalt (c code : Nat) : State :=
  match s.victimOn c (s.core c).forSusp with
  | some v => ((s.members v).filter fun m => m < 9216 && m / 16 ≠ c).foldl latchCore (s.haltTeam c v code)
  | none => s.modCore c fun k => { k with preempt := none, premOut := if k.premWait then some code else none }

/-- THE AGENTS PRE-EMPT THE TEAMS OF SUSPENDED QUEUES' GRIDS, and of grids that a replay stop halts (R261, R267, R268, R281): one on each core that has no request latched. -/
def suspendTeams : State :=
  let cores := ((s.teams.filter fun e => e.1 < 9216 && !e.2.halted && (s.grid e.2.grid).leaves).map fun e => e.1 / 16).eraseDups
  let one (t : State) (c : Nat) : State :=
    if (t.core c).preempt.isSome then t else match t.victimOn c true with
    | some k => (t.latchHalt k).logAction .prem
    | none => t
  cores.foldl one s

/-- A halted team issues again: what its log entries have left to do is due once more, the faulted parts included (R95, R98). -/
def unhalt (tk : Nat) : State :=
  let mine (gk : Nat) : Bool := !isAgent gk && teamOf gk = tk
  let again (p : Nat × LaneSt) : Nat × LaneSt := match p.2 with | .faulted _ => (p.1, .todo) | _ => p
  let s1 := s.modTeam tk fun x => { x with halted := false }
  let s2 := { s1 with logs := s1.logs.map fun (e : Nat × Log) => if mine e.2.gk then (e.1, { e.2 with st := e.2.st.map again }) else e }
  s2.post ((s2.logs.filter fun (e : Nat × Log) => mine e.2.gk).flatMap fun e => entryEvents e.1 e.2)

/-- A core reaches its halt point (R98, R99, R265). -/
def haltCore (c : Nat) : State :=
  let k := s.core c
  match k.preempt with
  | none => s
  | some tk =>
    if s.cycle < k.haltAt then s
    else if (tabFind s.teams tk).isNone then s.passHalt c (if k.haltErr < s.errSeq then 2 else 1)
    else if (s.team tk).held || (s.grid (s.team tk).grid).aborted.isSome then s.passHalt c 2
    else if s.canRetire tk then (s.retireTeam tk).passHalt c 1
    else s.haltTeam c tk 0

end State

/-- A PRE-EMPTION REQUEST for a core, for which the agent issues PREM (R98, R265, R267, R268). -/
def execPreemptionRequest (core : Nat) (s : State) : Out :=
  if Config.cores ≤ core || (s.core core).preempt.isSome then .next s else
  match s.victimOn core false with
  | none => .next s
  | some tk => .next ((s.latchHalt tk).logAction .prem)

/-- Cores halt at cycle 225 of their requests (R98). -/
def execCoreHalted (s : State) : Out := .next (s.cores.foldl (fun (t : State) e => t.haltCore e.1) s)

/-- The key of a team under a moved place. -/
def rekey (tk tk2 gk : Nat) : Nat := if !isAgent gk && teamOf gk = tk then 32 * tk2 + gidOf gk else gk

namespace State
variable (s : State)

/-- A team and all that names its groups moves to another key. -/
def moveTeam (tk tk2 : Nat) : State :=
  let mv (t : Tab Group) (e : Nat × Group) : Tab Group := tabPut t (rekey tk tk2 e.1) e.2
  -- what a KSTAB waits for stays its group's
  let wk (w : Nat) : Nat := if 2 ^ 66 ≤ w && w < 2 ^ 67 then kstabWaiter (rekey tk tk2 ((w - 2 ^ 66) / 32)) ((w - 2 ^ 66) % 32) else w
  { s with share := { s.share with remote := s.share.remote.map fun e => (e.1, { e.2 with entry := wk e.2.entry }), answers := s.share.answers.map fun r => { r with waiter := wk r.waiter } },
            groups := s.groups.foldl mv [], teams := tabPut (tabDel s.teams tk) tk2 (s.team tk),
           logs := s.logs.map fun e => (e.1, { e.2 with gk := rekey tk tk2 e.2.gk }), ops := s.ops.map fun e => (e.1, { e.2 with gk := rekey tk tk2 e.2.gk }),
           kreqs := s.kreqs.map fun e => (e.1, { e.2 with gk := rekey tk tk2 e.2.gk }), issue := s.issue.filter fun q => isAgent q.gk || teamOf q.gk ≠ tk }

/-- Has a fired pass of the team outputs left for TEAM, CLUS or VAULT (R98, R191)? -/
def passOutputs (tk : Nat) : Bool :=
  s.kreqs.any fun e => !isAgent e.2.gk && teamOf e.2.gk = tk && e.2.fired.isSome && e.2.ops.any fun q => (s.op q.2).st = .pending && apertureOf (tabGet 0 e.2.dst q.1).toNat ≠ .glob

/-- WRITE A CONTEXT RECORD (R98, R100, R267, R320): the team leaves its core, and what belonged to its place goes into the record. -/
def saveTeam (tk a : Nat) : State :=
  let t := s.team tk
  let c := tk / 16
  let n := s.nextRecord
  let lo := 2048 * c + t.scratchAt / 128
  let hi := lo + t.scratch / 128
  let key := recordKey t.asid a
  let mine (gk : Nat) : Bool := !isAgent gk && teamOf gk = tk
  let left (r : Kreq) : Bool := mine r.gk && r.fired.isNone
  let rec_ : Record :=
    { tk := 2 ^ 35 + 16 * n, grid := t.grid, size := s.recordSize tk, team := t, groups := [], logs := [], ops := [],
      kreqs := (s.kreqs.filter fun e => left e.2).map fun e => (e.1, withdraw e.2),
      scratch := bytesOf (memNat s.mem.scratch (Config.scratchBytes * c + t.scratchAt) t.scratch) t.scratch,
      filling := (s.mem.filling.filter fun e => lo ≤ e.1 && e.1 < hi).map fun e => (e.1 - lo, e.2), complete := false, wrote := 0, notBefore := s.lastPerformed tk + 20, after := s.nextGrid }
  let sends := (s.ops.filter fun e => mine e.2.gk && e.2.kind = .fsend && e.2.st = .pending).map (·.1)
  let s1 := (s.kreqs.filter fun e => left e.2).foldl (fun (u : State) e => u.refetch e.2) (sends.foldl (fun u i => u.recallBlock i) s)
  let s2 := { s1 with kreqs := s1.kreqs.filter (fun e => !left e.2), nextRecord := n + 1, records := tabPut s1.records key rec_,
                      mem := { s1.mem with absent := s1.mem.absent.filter (fun e => !(lo ≤ e.1 && e.1 < hi)), filling := s1.mem.filling.filter fun e => !(lo ≤ e.1 && e.1 < hi) } }
  let s3 := ((s2.releaseBand tk).moveTeam tk rec_.tk).modGrid t.grid fun x => { x with resume := x.resume ++ [key] }
  s3.post [.recordComplete key]

/-- Save every team of a list, each where its record fits. -/
def saveAll : List Nat → State → Option State
  | [], u => some u
  | k :: l, u => match u.saveFit (u.team k).grid (u.recordSize k) with
    | some a => saveAll l (u.saveTeam k a)
    | none => none

/-- A switched-out team has nothing left in flight: pending GLOBAL outputs of fired passes, and atomics already sent (R98, R286). -/
def recordSettled (tk : Nat) : Bool :=
  !(s.kreqs.any fun e => teamOf e.2.gk = tk && e.2.fired.isSome && e.2.ops.any fun q => (s.op q.2).st = .pending) &&
  !(s.logs.any fun e => teamOf e.2.gk = tk && (e.2.st.any (fun p => p.2 = .sent) || (e.2.kind = .atomic && logDone e.2) ||
    e.2.st.any fun p => p.2 = .done && s.agenda.contains (.homeAtomic e.1 (p.1 / 64))))

end State

namespace State
variable (s : State)

/-- A team can be part of no switch: a trap has stopped it, or its grid is aborted (R99). -/
def stopped (tk : Nat) : Bool := (s.team tk).held || (s.grid (s.team tk).grid).aborted.isSome

/-- The halted teams of a list issue again, and their cores pass the pre-emption on (R99, R267). -/
def passMembers (l : List Nat) : State :=
  let one (t : State) (m : Nat) : State := if (t.team m).halted then (t.unhalt m).passHalt (m / 16) 2 else t
  l.foldl one s

end State

/-- THE AGENT WRITES A CONTEXT RECORD (R267), for every member of a cluster at once. A member that a trap has stopped lets no member be switched, and the pre-emption passes on (R99). A record that no longer fits sends the team back to issue, and the pre-emption passes on. -/
def execContextSwitch (team : Nat) (s : State) : Out :=
  if (tabFind s.teams team).isNone || 9216 ≤ team || !(s.team team).halted then .next s else
  let ms := s.members team
  if ms.any fun m => m < 9216 && s.stopped m then .next (s.passMembers (ms.filter fun m => m < 9216))
  else if ms.any fun m => m < 9216 && !(s.team m).halted then
    -- the other members halt by their own requests; a request that has passed on to another team halts none
    if ms.all fun m => 9216 ≤ m || (s.team m).halted || (s.core (m / 16)).preempt.any ms.contains then .next (s.post [.contextSwitch team])
    else .next (s.passMembers (ms.filter fun m => m < 9216))
  else if ms.any s.passOutputs then .next (s.post [.contextSwitch team])
  else
    let l := ms.filter fun m => m < 9216
    match State.saveAll l s with
    | none => .next (s.passMembers l)
    | some t =>
      -- a suspended queue's other teams on these cores follow (R261)
      .next t.suspendTeams

/-- A RECORD IS COMPLETE when its pending GLOBAL writes and sent atomics have finished (R98, R286) and the agent has written its bytes, line by line, into the save area (R100, R267). -/
def execRecordComplete (rec : Nat) (s : State) : Out :=
  match tabFind s.records rec with
  | none => .next s
  | some r =>
    if r.complete && r.tk ≠ 0 then .next s
    else if r.tk ≠ 0 && !s.recordSettled r.tk then .next (s.post [.recordComplete rec])
    else
      let img := s.recordImage r
      if r.wrote < img.1 then .next ((s.writeRecordLine rec r img).post [.recordComplete rec])
      else .next { s with records := tabPut s.records rec { r with complete := true } }

namespace State
variable (s : State)

/-- Where a switched-out team fits on a core: first quadrant and scratchpad place. -/
def resumeFit (c : Nat) (t : Team) : Option (Nat × Nat) :=
  if (s.core c).preempt.isSome || (s.freeSlot c).isNone || !s.coefFits c (s.grid t.grid).kernel.coef then none else
  match s.pickQ0 c t.groups t.regs, s.scratchFit c t.scratch with
  | some q, some a => some (q, a)
  | _, _ => none

/-- RESTORE A CONTEXT RECORD (R98, R100, R267): every section before the team's first issue; the withdrawn requests and copies are reissued, the log's entries replayed. -/
def restoreTeam (key : Nat) (r : Record) (c q0 at_ : Nat) : State :=
  let t := s.team r.tk
  let tk := 16 * c + (s.freeSlot c).getD 0
  let s1 := (s.takeScratch c at_ t.scratch t.ctx).moveTeam r.tk tk
  let age := s1.nextAge c
  let s2 := s1.modTeam tk fun x => { x with q0, scratchAt := at_, age, halted := false }
  let lo := 2048 * c + at_ / 128
  let absent (u : Tab Bool) (e : Nat × List Nat) : Tab Bool := tabSet false u (lo + e.1) true
  let fill (u : Tab (List Nat)) (e : Nat × List Nat) : Tab (List Nat) := tabPut u (lo + e.1) e.2
  let s3 := { s2 with records := tabDel s2.records key, roots := tabPut s2.roots t.asid (s2.grid t.grid).root,
                      mem := { s2.mem with scratch := memPut s2.mem.scratch (Config.scratchBytes * c + at_) (natOf r.scratch) t.scratch,
                                           absent := r.filling.foldl absent s2.mem.absent, filling := r.filling.foldl fill s2.mem.filling } }
  let clean (e : Nat × Group) : Nat × Group := if !isAgent e.1 && teamOf e.1 = tk then (e.1, { e.2 with storeP := [], atomP := [], trialUntil := 0, trialOut := false }) else e
  let again (p : Nat × LaneSt) : Nat × LaneSt := match p.2 with | .faulted _ => (p.1, .todo) | _ => p
  let mine (gk : Nat) : Bool := !isAgent gk && teamOf gk = tk
  let s4 := { s3 with groups := s3.groups.map clean, logs := s3.logs.map fun e => if mine e.2.gk then (e.1, { e.2 with st := e.2.st.map again }) else e }
  let req (u : State) (e : Nat × Kreq) : State :=
    { u with kreqs := tabPut u.kreqs u.nextKreq { e.2 with gk := 32 * tk + gidOf e.2.gk, chamber := chamberOf c, issued := u.cycle }, nextKreq := u.nextKreq + 1,
             agenda := u.agenda ++ [.kilnEligible u.nextKreq] }
  let s5 := r.kreqs.foldl req s4
  let evs := ((s5.logs.filter fun e => mine e.2.gk).flatMap fun e => entryEvents e.1 e.2) ++
    ((s5.ops.filter fun e => mine e.2.gk && e.2.st = .pending && (e.2.kind = .copy || e.2.kind = .tile || e.2.kind = .fsend)).flatMap fun e => s5.opEvents e.1)
  ((s5.modCore c fun k => { k with coef := (s5.grid t.grid).kernel.coef }).modGrid t.grid fun x => { x with resume := x.resume.filter (· ≠ key) }).post evs

/-- Has the chamber of a core's Kiln reservation entries for a record's pass requests (R170, R191)? -/
def kilnFits (c : Nat) (r : Record) : Bool := s.reserved (chamberOf c) + r.kreqs.length ≤ Config.reservation

/-- The records of the cluster of a record's team, by rank; the record alone without clusters. -/
def clusterRecords (key : Nat) (r : Record) : List (Nat × Record) :=
  let t := s.team r.tk
  let k := (s.grid r.grid).kernel
  if k.cn = 0 then [(key, r)] else
  let l := s.records.filter fun e => e.2.grid = r.grid && e.2.tk ≠ 0 && (s.team e.2.tk).cluster = t.cluster
  sortBy (fun a b => decide ((s.team a.2.tk).clrank ≤ (s.team b.2.tk).clrank)) l

/-- Resume a record, or a cluster's records on a rectangle of the same shape, whole or not at all. -/
def resumeAll (core key : Nat) (r : Record) : Option State :=
  let k := (s.grid r.grid).kernel
  let l := s.clusterRecords key r
  if l.any fun e => !e.2.complete || s.tooEarly e.2 then none else
  match (if k.cn = 0 then some [core] else rectangle core k.ch k.cw) with
  | none => none
  | some cores =>
    let one (o : Option State) (e : Nat × Record) : Option State :=
      o.bind fun u =>
        let t := u.team e.2.tk
        let m := cores.getD (t.clrank % cores.length) core
        (if k.cn = 0 then some u else u.reserveBand m).bind fun v => (if v.kilnFits m e.2 then v.resumeFit m t else none).map fun f => (v.restoreTeam e.1 e.2 m f.1 f.2).logAction .lnch
    l.foldl one (some s)

end State

/-- AN AGENT RESUMES A TEAM from its record (R267, R320): any agent of the module whose core fits it. -/
def execResume (core rec : Nat) (s : State) : Out :=
  match tabFind s.records rec with
  | none => .next s
  | some r =>
    if r.tk = 0 || Config.cores ≤ core || !s.gridOpen r.grid then .next s else
    match s.resumeAll core rec r with
    | some t => .next t
    | none => .next s

namespace State
variable (s : State)

/-- Records whose teams wait to resume and may, in the order in which the teams were switched out (R40). -/
def resumable : List (Nat × Record) :=
  sortBy (fun a b => a.2.tk ≤ b.2.tk) <| (s.grids.filter fun e => s.gridOpen e.1).flatMap fun e => e.2.resume.filterMap fun k =>
    match tabFind s.records k with
    | some r => if r.complete && !s.tooEarly r then some (k, r) else none
    | none => none

/-- Cores on which a grid's next team, or cluster's first, fits. -/
def coresFor (gi : Nat) : List Nat :=
  let k := (s.grid gi).kernel
  allCores.filter fun c => (s.teamFit c gi).isSome && (k.cn = 0 || (rectangle c k.ch k.cw).isSome)
def coresForRecord (r : Record) : List Nat :=
  let k := (s.grid r.grid).kernel
  allCores.filter fun c => (s.resumeFit c (s.team r.tk)).isSome && s.kilnFits c r && (k.cn = 0 || (rectangle c k.ch k.cw).isSome)

/-- Does a grid's next team, or its whole next cluster, fit somewhere; and a switched-out team, or its whole cluster (R18, R263)? -/
def ticketFits (gi : Nat) : Bool := (s.coresFor gi).any fun c => (s.grid gi).kernel.cn = 0 || (s.tryCluster c gi).isSome
def recordFits (key : Nat) (r : Record) : Bool := (s.coresForRecord r).any fun c => (s.grid r.grid).kernel.cn = 0 || (s.resumeAll c key r).isSome
/-- A team or cluster waits that fits nowhere (R40). -/
def someoneWaits : Bool := (s.ticketGrids.any fun gi => !s.ticketFits gi) || s.resumable.any fun e => !s.recordFits e.1 e.2

/-- The agents look for work: a team to resume, or a ticket, is offered to one of the cores that fit it (R263, R267). Teams that waited when a team was switched out come before it (R40). Which agent comes first is a free choice. -/
def offerWork : State :=
  if s.sys.boot ≠ .ready || s.agenda.any (fun e => match e with | .teamTicket .. => true | .clusterReserve .. => true | .clusterRetry .. => true | .resume .. => true | _ => false) then s else
  let open_ := s.ticketGrids.filter fun gi => s.coresFor gi ≠ []
  match s.resumable.find? fun e => s.coresForRecord e.2 ≠ [] && !open_.any fun gi => gi < e.2.after with
  | some e =>
    let l := s.coresForRecord e.2
    let c := s.choose l.length
    c.2.post [.resume (l.getD c.1 0) e.1]
  | none =>
    match open_.head? with
    | none => s
    | some gi =>
      let l := s.coresFor gi
      let c := s.choose l.length
      c.2.post [if (s.grid gi).kernel.cn = 0 then .teamTicket (l.getD c.1 0) gi else .clusterReserve (l.getD c.1 0) gi]

/-- Threshold N of R40 on a core. DESIGN CHOICE (log 30): the least of its resident teams' grids. -/
def spinLimit (c : Nat) : Nat := (s.teamsOn c).foldl (fun m k => min m (s.grid (s.team k).grid).spinth) 16777216

/-- Is a team blocked: does it issue nothing, or only yield-marked spin instructions (R40)? DESIGN CHOICE (log 104): every group of it is yield-marked or has no path; a team whose paths stall at a FENCE, a WAITC or a pending register is not blocked. -/
def teamBlocked (tk : Nat) : Bool :=
  (List.range (s.team tk).groups).all fun g => let x := s.grp (32 * tk + g); x.yieldMark || x.paths = []

/-- The victim of a swap (R40, R267): the blocked team whose last issue of a non-spinning instruction is oldest. -/
def swapVictim (c : Nat) : Option Nat :=
  let pick (o : Option Nat) (k : Nat) : Option Nat :=
    match o with
    | some b => if (s.team k).lastWork < (s.team b).lastWork then some k else o
    | none => some k
  ((s.teamsOn c).filter fun k => s.victimOk k && s.latchable c k && s.teamBlocked k).foldl pick none

/-- Is a swap due on a core (R40)? -/
def swapDue (c : Nat) : Bool := (s.core c).preempt.isNone && s.teamsOn c ≠ [] && s.spinLimit c ≤ (s.core c).idle

end State

/-- SWAPS (R40): on every core whose idle count has reached N while a team waits for it, the agent pre-empts the victim; the count starts again. -/
def execSpinSwap (s : State) : Out :=
  if !s.someoneWaits then .next s else
  let one (t : State) (e : Nat × Core) : State :=
    if e.1 < Config.cores && t.swapDue e.1 then
      match t.swapVictim e.1 with
      | some k => ((t.latchHalt k).logAction .prem).modCore e.1 fun x => { x with idle := 0 }
      | none => t
    else t
  .next (s.cores.foldl one s)

-- privileged instructions -------------------------------------------------------------------------------------------------

/-- LNCH (R351, R352): start or resume one team on the issuing core. A start record outside the windows that the boot ROM has locked is out of the agent's reach and answers 4 (R268). DESIGN CHOICE (log 31): that code, and that the windows show device DRAM at its physical addresses. -/
def execLnch (x : PrivArgs) (s : State) : Out :=
  if !isAgent s.cur.gk then s.endChain.raise Cause.priv 0 s.cur.mask else
  s.enter [] [(x.a.toNat, 1), (x.b.toNat, 1)] fun s =>
    if s.trueLanes x.guard = 0 then .next ((s.advance s.cur.mask).finish false) else
    let c := s.curCore
    let a := (s.g.rdS x.a.toNat).toNat
    let r := StartRec.ofNat (memNat s.mem.dram a 128)
    let answer (code : Nat) (t : State) : Out := .next (((t.logAction .lnch).wrScalar x.b.toNat (BitVec.ofNat 64 code)).advance t.cur.mask |>.finish false)
    if a % 128 ≠ 0 || !s.inWindow a 128 || r.bad then answer 4 s
    else if r.record ≠ 0 then
      match tabFind s.records (State.recordKey r.asid r.record) with
      | none => answer 4 s
      | some y =>
        let t := s.team y.tk
        if y.tk = 0 then answer 4 s
        else if !y.complete || s.tooEarly y || !s.kilnFits c y || !s.coefFits c (s.grid y.grid).kernel.coef then .next s.stall
        else if (s.freeSlot c).isNone || !s.slotsFit c t.groups r.q0 then answer 1 s
        else if !s.regsFit c t.groups t.regs r.q0 then answer 2 s
        else match s.scratchFit c t.scratch with
          | none => answer 3 s
          | some p => answer 0 (s.restoreTeam (State.recordKey r.asid r.record) y c r.q0 p)
    else
      match s.entryBad c r.asid (BitVec.ofNat 64 r.entry) with
      | none => .next (s.postOnce (.faultService c r.asid r.entry)).stall
      | some (true, t) => answer 4 t
      | some (false, t) =>
        -- the context's exact-sum descriptors are loaded before the team starts (R151)
        match t.withEsums c (t.lnchGrid r) with
        | (false, u) => .next u.stall
        | (true, u) =>
          -- a team whose coefficient table differs waits until the core's teams have left (R168)
          if !u.coefFits c (u.grid (u.lnchGrid r)).kernel.coef then .next u.stall else
          let q := u.lnchStart c r; answer q.1 q.2

/-- PREM (R98, R351, R353): halt a resident team; the path waits until the halt is decided. -/
def execPrem (x : PrivArgs) (s : State) : Out :=
  if !isAgent s.cur.gk then s.endChain.raise Cause.priv 0 s.cur.mask else
  s.enter [] [(x.a.toNat, 1), (x.b.toNat, 1)] fun s =>
    if s.trueLanes x.guard = 0 then .next ((s.advance s.cur.mask).finish false) else
    let c := s.curCore
    let slot := (s.g.rdS x.a.toNat).toNat
    let answer (code : Nat) (t : State) : Out := .next (((t.logAction .prem).wrScalar x.b.toNat (BitVec.ofNat 64 code)).advance t.cur.mask |>.finish false)
    match (s.core c).premOut with
    | some code => answer code (s.modCore c fun k => { k with premOut := none, premWait := false })
    | none =>
      let tk := 16 * c + slot
      if (s.core c).preempt.isSome then .next s.stall
      else if 16 ≤ slot || !(s.teamsOn c).contains tk then answer 3 s
      else if (s.team tk).halted then answer 0 s
      else if !s.latchable c tk then .next s.stall
      else .next ((s.latchHalt tk).modCore c fun k => { k with premWait := true }).stall

namespace State
variable (s : State)

/-- The abort of a held team (R354): its operations are cancelled, its slots freed, no record is written, and it counts as retired. -/
def abortTeam (tk : Nat) : State :=
  let t := s.team tk
  let err := ((s.errors.find? fun e => e.team = t.index && e.packet = (s.grid t.grid).seq).map fun e => e.seq).getD s.errSeq
  let s1 := (s.retireTeam tk).modGrid t.grid fun x => { x with trapped := if x.trapped = 0 then err else x.trapped }
  if s1.teams.any fun e => e.2.grid = t.grid && e.2.held then s1 else s1.modGrid t.grid fun x => { x with held := false }

end State

/-- RTRAP (R351, R354): resume or abort a held team. The spec names actions 0 and 1; for any other the result is a free value (log 32). -/
def execRtrap (x : PrivArgs) (s : State) : Out :=
  if !isAgent s.cur.gk then s.endChain.raise Cause.priv 0 s.cur.mask else
  s.enter [] [(x.a.toNat, 1), (x.b.toNat, 1)] fun s =>
    if s.trueLanes x.guard = 0 then .next ((s.advance s.cur.mask).finish false) else
    let tk := 16 * s.curCore + (s.g.rdS x.a.toNat).toNat
    let answer (code : DWord) (t : State) : Out := .next (((t.logAction .rtrap).wrScalar x.b.toNat code).advance t.cur.mask |>.finish false)
    if 16 ≤ (s.g.rdS x.a.toNat).toNat || !(s.teamsOn s.curCore).contains tk || !(s.team tk).held then answer 3 s
    else match (s.g.rdS x.b.toNat).toNat with
      | 0 => answer 0 (s.resumeHeld tk)
      -- what the team has recorded in the operand log is performed first (R92)
      | 1 => if s.logs.any fun e => teamOf e.2.gk = tk then .next (s.cancelTeam tk).stall else answer 0 (s.abortTeam tk)
      | _ => answer (Config.freeWord s.ticks) { s with ticks := s.ticks + 1 }

/-- A trap is taken for a group by its core's agent (R92). -/
def execTrapTaken (gk cause sub : Nat) (mask : LaneMask) (pc : DWord) (detail : Nat) (addr : DWord) (s : State) : Out :=
  if (tabFind s.groups gk).isNone || isAgent gk then .next s else
  let s1 := { s with cur := { Issue.none with gk, mask := (s.grp gk).pathAt pc ||| mask, pc } }
  .next (s1.takeTrap { cause, sub, detail, mask, addr })

/-- Does a lane wait at a barrier: at BAR, BARW or CBAR, or held while arriving again (R33, R35)? -/
def waitsAt (g : Group) (i b : Nat) (clus : Bool) : Bool :=
  match g.waitOf i with
  | .bar c => !clus && c = b
  | .barw c => !clus && c = b
  | .barAgain c _ => !clus && c = b
  | .cbar c => clus && c = b
  | .cbarAgain c => clus && c = b
  | _ => false

namespace State
variable (s : State)

/-- Threads that wait at a barrier: group key and lane, lowest rank and TID first (R35, R293). -/
def barWaiters (tk b : Nat) (clus : Bool) : List (Nat × Nat) :=
  let ms := if clus then sortBy (fun x y => decide ((s.team x).clrank ≤ (s.team y).clrank)) (s.members tk) else [tk]
  let lanes (k g : Nat) : List (Nat × Nat) := ((List.range 32).filter fun i => waitsAt (s.grp (32 * k + g)) i b clus).map fun i => (32 * k + g, i)
  (ms.filter fun m => m < 9216).flatMap fun k => (List.range (s.team k).groups).flatMap (lanes k)

/-- The timeout of a barrier: its team's BARTMO, and for a cluster barrier that of the team of rank 0 (R35, R293). -/
def barLimit (tk : Nat) (clus : Bool) : Nat := (s.team (if clus then (s.clusterMember tk 0).getD tk else tk)).bartmo

/-- Has a barrier of a resident team reached its timeout, in a grid that is neither held nor aborted (R35)? -/
def stallDue (tk b : Nat) (clus : Bool) : Bool :=
  let x := s.grid (s.team tk).grid
  (tabFind s.teams tk).isSome && tk < 9216 && !x.held && x.aborted.isNone && s.barLimit tk clus ≠ 0 && s.barLimit tk clus ≤ (s.bar tk b clus).timer

/-- RAISE BARSTALL at a barrier that has timed out (R35, R92, R93, R293): at the barrier instruction of the waiting thread with the lowest TID, of the lowest-ranked team of a cluster that has one; nothing while no thread waits. The record's arrived threads are that team's. Its lanes go on waiting, and the timer starts again. -/
def raiseStall (tk b : Nat) (clus : Bool) : State :=
  if !s.stallDue tk b clus then s else
  match s.barWaiters tk b clus with
  | [] => s
  | (gk, i) :: _ =>
    let x := s.bar tk b clus
    let g := s.grp gk
    let pc := g.pcOf i
    let path := maskOf fun j => g.waitOf j = g.waitOf i && g.pcOf j = pc
    let s1 := s.setBar tk b clus { x with timer := 0 }
    let s2 := { s1 with cur := { Issue.none with gk, mask := path, pc } }
    s2.takeTrap { cause := Cause.barstall, detail := b + (if x.phase then 16 else 0) + (if clus then 32 else 0), mask := BitVec.ofNat 32 (2 ^ i), restart := some pc,
                  arrived := if clus then x.arrived / 2 ^ (1024 * (s.team (teamOf gk)).clrank) % 2 ^ 1024 else x.arrived, moved := some 0 }

/-- Every barrier that has timed out raises BARSTALL in this cycle (R35). -/
def stallBars : State :=
  let team (t : State) (e : Nat × Team) : State :=
    (List.range 4).foldl (fun u b => u.raiseStall e.1 b true) ((List.range 16).foldl (fun u b => u.raiseStall e.1 b false) t)
  s.teams.foldl team s

end State

/-- BARSTALL, as an event of the spec's list (R35). -/
def execBarstall (team b : Nat) (clus : Bool) (s : State) : Out := .next (s.raiseStall team b clus)

end Sys2Proof.Machine
end

