-- ==== Sys2Proof/Machine/Scalar.lean ====
section
/-! DEFINITION. Class 0x6: the scalar instructions, special registers and the clock count (R88, R301, R371, R373). -/

namespace Sys2Proof.Machine

/-- A result extended to 64 bits by the type's signedness (R371). -/
def sclOut (ty : Ty) (z : Int) : DWord :=
  let w := wrapNat ty.bits z
  BitVec.ofNat 64 (if ty.signed then wrapNat 64 (toSigned ty.bits w) else w)

/-- A scalar as a number of the type's width. -/
def sclNat (s : State) (ty : Ty) (n : Nat) : Nat := lowNat ty.bits (s.g.rdS n)

def sclBin (x : SclArgs) (f : Nat → Nat → DWord → Int) (s : State) : Out :=
  s.sclOp x.guard [(x.d.toNat, 1), (x.a.toNat, 1), (x.b.toNat, 1)] fun t =>
    t.wrScalar x.d.toNat (sclOut x.ty (f (sclNat t x.ty x.a.toNat) (sclNat t x.ty x.b.toNat) (t.g.rdS x.b.toNat)))
/-- I-forms take sx(imm, 32), the shifts zx(imm, 32) (R54). -/
def sclBinI (x : SclImm) (f : Nat → Nat → DWord → Int) (s : State) : Out :=
  s.sclOp x.guard [(x.d.toNat, 1), (x.a.toNat, 1)] fun t =>
    t.wrScalar x.d.toNat (sclOut x.ty (f (sclNat t x.ty x.a.toNat) (lowNat x.ty.bits (x.imm.signExtend 64)) (x.imm.setWidth 64)))

/-- SSHR fills with the sign for the s types (R371). -/
def sshrVal (ty : Ty) (a c : Nat) : Int := if ty.signed then sarVal ty.bits a c else shrVal ty.bits a c

def execSadd (x : SclArgs) (s : State) : Out := sclBin x (fun a b _ => a + b) s
def execSaddI (x : SclImm) (s : State) : Out := sclBinI x (fun a b _ => a + b) s
def execSsub (x : SclArgs) (s : State) : Out := sclBin x (fun a b _ => (a : Int) - b) s
def execSsubI (x : SclImm) (s : State) : Out := sclBinI x (fun a b _ => (a : Int) - b) s
def execSmul (x : SclArgs) (s : State) : Out := sclBin x (fun a b _ => a * b) s
def execSmulI (x : SclImm) (s : State) : Out := sclBinI x (fun a b _ => a * b) s
def execSand (x : SclArgs) (s : State) : Out := sclBin x (fun a b _ => (a &&& b : Nat)) s
def execSandI (x : SclImm) (s : State) : Out := sclBinI x (fun a b _ => (a &&& b : Nat)) s
def execSor (x : SclArgs) (s : State) : Out := sclBin x (fun a b _ => (a ||| b : Nat)) s
def execSorI (x : SclImm) (s : State) : Out := sclBinI x (fun a b _ => (a ||| b : Nat)) s
def execSxor (x : SclArgs) (s : State) : Out := sclBin x (fun a b _ => (a ^^^ b : Nat)) s
def execSxorI (x : SclImm) (s : State) : Out := sclBinI x (fun a b _ => (a ^^^ b : Nat)) s
def execSshl (x : SclArgs) (s : State) : Out := sclBin x (fun a _ c => shlVal x.ty.bits a c.toNat) s
def execSshlI (x : SclImm) (s : State) : Out := sclBinI x (fun a _ c => shlVal x.ty.bits a c.toNat) s
def execSshr (x : SclArgs) (s : State) : Out := sclBin x (fun a _ c => sshrVal x.ty a c.toNat) s
def execSshrI (x : SclImm) (s : State) : Out := sclBinI x (fun a _ c => sshrVal x.ty a c.toNat) s
def execSmov (x : SclArgs) (s : State) : Out := sclBin x (fun a _ _ => a) s
def execSmovi (x : SclImm) (s : State) : Out := sclBinI x (fun _ b _ => b) s

/-- SSETP writes pD in every true-guard lane of the path (R371). -/
def execSsetp (x : SclArgs) (s : State) : Out :=
  s.sclOp x.guard [(x.a.toNat, 1), (x.b.toNat, 1)] fun t =>
    let a := intVal x.ty (t.g.rdS x.a.toNat)
    let b := intVal x.ty (t.g.rdS x.b.toNat)
    t.modG fun g => g.each (s.trueLanes x.guard) fun h i => h.wrP x.d.toNat i (cmpInt x.cmp a b)

/-- SRD reads per-lane registers from the lowest true-guard lane (R373). -/
def execSrd (x : SprArgs) (s : State) : Out :=
  s.sclOp x.guard [(x.s.toNat, 1)] fun t => t.wrScalar x.s.toNat (t.sprRead x.num.toNat (lowLane (s.trueLanes x.guard)))

/-- The team that an agent's write of a per-team register reaches: the spec names no team, so among several resident ones a free value says which (log 15). -/
def agentTeam (s : State) (f : Nat → State → State) : State :=
  let l := s.teamsOn s.curCore
  match l with
  | [] => s
  | [k] => f k s
  | _ => let c := s.choose l.length; f (l.getD c.1 0) c.2

/-- SWR: STATUS for every group; BARTMO and SPINTH for the agent alone, PRIV otherwise (R88, R373). -/
def execSwr (x : SprArgs) (s : State) : Out :=
  if x.num ≠ 0x010 && !isAgent s.cur.gk then s.endChain.raise Cause.priv 0 s.cur.mask else
  s.sclOp x.guard [(x.s.toNat, 1)] fun t =>
    let v := t.g.rdS x.s.toNat
    match x.num.toNat with
    | 0x010 => t.modG fun g => { g with status := v &&& Flag.all }
    | 0x020 => agentTeam t fun k u => u.modTeam k fun y => { y with bartmo := v.toNat }
    | _ => agentTeam t fun k u => u.modGrid (u.team k).grid fun y => { y with spinth := clampSpin v.toNat }

/-- CLK: the core's count of cycles (R301). -/
def execClk (x : SprArgs) (s : State) : Out :=
  s.sclOp x.guard [(x.s.toNat, 1)] fun t => t.wrScalar x.s.toNat (BitVec.ofNat 64 (t.coreClk t.curCore))

end Sys2Proof.Machine
end

