-- ==== Sys2Proof/Machine/Queues.lean ====
section
/-! DEFINITION. Queues, packets and their completion, QPUSH and spill areas (R80, R140, R255 to R266, R364). -/

namespace Sys2Proof.Machine

/-- QSTATE codes (R261). -/
def QState.code : QState → Nat
  | .idle => 0 | .running => 1 | .waiting => 2 | .suspended => 3 | .seqerr => 4 | .overrun => 5 | .ringfault => 6
/-- States that last until the driver recreates the queue (R257, R261). -/
def QState.stuck : QState → Bool
  | .seqerr | .overrun | .ringfault => true
  | _ => false

/-- Packets between two free-running 32-bit counts (R256). -/
def ringDist (a b : Nat) : Nat := (b + 2 ^ 32 - a % 2 ^ 32) % 2 ^ 32

/-- The state of a queue that is neither stuck nor suspended (R261). -/
def Queue.live (x : Queue) : QState :=
  if x.waiting.isSome then .waiting else if x.read = x.write && x.accepted = x.completed then .idle else .running

namespace State
variable (s : State)

def queue? (q : Nat) : Option Queue := tabFind s.queues q

/-- Write bytes of host memory over CXL.cache (R271). -/
def putHost (a x n : Nat) : State := { s with mem := { s.mem with host := memPut s.mem.host a x n } }

/-- A queue changes, and its 16-byte status entry is written (R261, R266). -/
def modQueue (q : Nat) (f : Queue → Queue) : State :=
  match s.queue? q with
  | none => s
  | some x =>
    let y := f x
    let z : Queue := if y.state.stuck then y else { y with state := if y.susp then .suspended else y.live }
    let entry := z.accepted + 2 ^ 32 * z.completed + 2 ^ 64 * z.read + 2 ^ 96 * z.state.code
    State.putHost { s with queues := tabPut s.queues q z } z.status entry 16

/-- Address of packet i of a ring (R256). -/
def ringAt (x : Queue) (i : Nat) : Nat := x.ring + 128 * (i % 2 ^ x.log2)

/-- The agent's AADD.s64 on a signal (R257, R258): done, refused by the tables, or waiting for service or for the page's owner. -/
def agentAdd (c asid ctx a v w : Nat) : EngWrite :=
  match s.atomGlobal c asid a 8 ⟨fun old => (old + v) % 2 ^ 64, none⟩ with
  | .ok _ p t => .ok p t
  | .bad b => .bad b
  | .fault va => match s.engFault asid ctx va with
    | .bad b => .bad b
    | .wait t => .wait t
    | .ok _ t => .wait t
  | .wait t => .wait t
  | .away origin =>
    match s.reply? w (addPlace a) with
    | some r => match r.fails with
      | some b => .bad ⟨b.1, b.2.1, b.2.2, 0⟩
      | none => .ok r.time (s.dropReply w (addPlace a))
    | none =>
      if s.remoteBusy w (addPlace a) then .wait s else
      match s.downFor origin asid a with
      | some d => .bad ⟨Cause.remote, 0, d, 0⟩
      | none => .wait (s.remoteIssue origin asid a Pk.atomic [8, v, 0, 0, 3, 0] w (addPlace a))

/-- THE QUEUE'S MMIO PAGE as the host reads it (R261): read index, state, and QCTL's SUSPEND; every other offset reads 0. -/
def queueReg (q off : Nat) : DWord :=
  match s.queue? q with
  | none => 0
  | some x => BitVec.ofNat 64 (if off = 0x008 then x.read else if off = 0x010 then x.state.code else if off = 0x018 then (if x.susp then 1 else 0) else 0)

end State

/-- A field of a packet or descriptor, little-endian. -/
def field (x off n : Nat) : Nat := x / 256 ^ off % 256 ^ n

/-- THE DRIVER WRITES A QUEUE DESCRIPTOR (R255), which creates the queue, or creates it anew, and writes its status entry (R266). -/
def execQueueCreate (q : Nat) (desc : List Byte) (s : State) : Out :=
  let d := natOf desc
  let pr := field d 9 1
  if 4096 ≤ q || field d 8 1 < 4 || 20 < field d 8 1 || pr / 8 % 16 ≠ 0 || field d 32 32 ≠ 0 then .next s else
  let x : Queue :=
    { ring := field d 0 8, log2 := field d 8 1, prio := pr % 8, devWrite := pr / 128 = 1, asid := field d 10 2, ctx := field d 12 4, compRing := field d 16 8,
      status := field d 24 8, write := 0, read := 0, state := .idle, accepted := 0, completed := 0, doneSet := [], nextSeq := 1, waiting := none, since := s.now,
      checkAt := s.now, barrier := false, badAt := none, signals := [], compCount := 0, workPending := false, susp := false }
  .next (State.modQueue { s with queues := tabPut s.queues q x } q id)

/-- A KICK (R261). DEDUCED (log 34): an index more than half the count range ahead lies behind. -/
def execKick (q : Nat) (w : DWord) (s : State) : Out :=
  match s.queue? q with
  | none => .next s
  | some x =>
    let i := w.toNat % 2 ^ 32
    let d := ringDist x.read i
    if x.state.stuck || d = 0 || 2 ^ 31 < d then .next s
    else if 2 ^ x.log2 < d then .next (s.modQueue q fun y => { y with state := .overrun })
    else if d ≤ ringDist x.read x.write then .next s
    else
      match s.agentRead 0 x.asid x.ctx (State.ringAt x ((i + 2 ^ 32 - 1) % 2 ^ 32)) 8 (ringWaiter q) with
      | .wait t => .next (t.post [.kick q w])
      | .bad _ => .next ((s.takeFail (ringWaiter q)).modQueue q fun y => { y with write := i, workPending := true, since := if y.read = y.write then s.now else y.since })
      | .ok v t =>
        let bad : Bool := v / 2 ^ 32 ≠ w.toNat / 2 ^ 32
        .next (t.modQueue q fun y => { y with write := i, workPending := true, since := if y.read = y.write then s.now else y.since,
                                              badAt := if bad && y.badAt.isNone then some ((i + 2 ^ 32 - 1) % 2 ^ 32) else y.badAt })

namespace State
variable (s : State)

/-- May the head of a queue be claimed (R257, R260, R261)? -/
def claimable (x : Queue) : Bool := (x.state = .idle || x.state = .running) && x.read ≠ x.write && !x.barrier

/-- Does RPCTL, with Enable set, name a LAUNCH (R279)? -/
def replayNames (q seq : Nat) : Bool := s.obs.rpctl.getLsbD 0 && (s.obs.rpctl.extractLsb' 48 16).toNat = q && (s.obs.rpctl.extractLsb' 16 32).toNat = seq

/-- The queue whose head is claimed next: highest effective priority, then round-robin from the rotating pointer (R263). -/
def bestQueue : Option Nat :=
  let l := (s.queues.filter fun e => claimable e.2).map (·.1)
  let key (q : Nat) : Nat := (7 - s.effPriority q) * 4096 + (q + 4096 - s.rotate % 4096) % 4096
  let pick (o : Option Nat) (q : Nat) : Option Nat := match o with | some b => if key q < key b then some q else o | none => some q
  l.foldl pick none

end State

/-- A signal field that is not a canonical GLOBAL address aligned to 8 (R257). -/
def badSignal (a : Nat) : Bool := a ≠ 0 && (!canonical a || apertureOf a ≠ .glob || a % 8 ≠ 0)

/-- Bytes that R258 requires to be zero, by kind, are set. -/
def badZeros (kind b : Nat) : Bool :=
  match kind with
  | 1 => field b 60 4 ≠ 0 || field b 96 32 ≠ 0 || field b 37 1 / 8 ≠ 0
  | 2 => field b 32 96 ≠ 0
  | 3 => field b 33 95 ≠ 0
  | 4 => field b 25 103 ≠ 0
  | _ => field b 17 7 ≠ 0 || field b 32 96 ≠ 0

/-- AN AGENT CLAIMS A PACKET (R14, R257, R260, R263), which takes firmware that runs: the head of the best queue is read as a core access would, accepted, and handed on by its kind, or refused. -/
def execPacketClaim (core q : Nat) (s : State) : Out :=
  if Config.cores ≤ core || (s.queue? q).isNone || s.sys.boot ≠ .ready then .next s else
  match s.bestQueue with
  | none => .next s
  | some q =>
    match s.queue? q with
    | none => .next s
    | some x =>
      match s.agentRead core x.asid x.ctx (State.ringAt x x.read) 128 (ringWaiter q) with
      | .wait t => .next t
      | .bad _ => .next ((s.takeFail (ringWaiter q)).modQueue q fun y => { y with state := .ringfault })
      | .ok b t =>
        let kind := field b 0 1
        let seq := field b 4 4
        let sig := field b 8 8
        if kind = 0 || 5 < kind || field b 1 1 / 2 ≠ 0 || field b 2 2 ≠ 0 || seq ≠ (x.accepted + 1) % 2 ^ 32 || x.badAt = some x.read then
          .next (t.modQueue q fun y => { y with state := .seqerr })
        else if field b 1 1 % 2 = 1 && x.accepted ≠ x.completed then .next (t.modQueue q fun y => { y with barrier := true })
        else
          let body := bytesOf b 128
          let refuse : Bool := badSignal sig || badZeros kind b
          let hold : Option (Nat × Nat × Nat) := if kind = 2 && !refuse then some (seq, field b 16 8, field b 24 8) else none
          let t1 := t.modQueue q fun y => { y with accepted := seq, read := (y.read + 1) % 2 ^ 32, since := t.now, waiting := hold, checkAt := t.now,
                                                   signals := if sig = 0 || badSignal sig then y.signals else tabPut y.signals seq sig }
          let t2 := { t1 with rotate := (q + 1) % 4096, obs := if kind = 1 && !refuse && t1.replayNames q seq then { t1.obs with named := (q, seq) :: t1.obs.named } else t1.obs }
          .next (t2.post [if refuse then .packetComplete q seq 2 0 else
            match kind with
            | 1 => .launch q seq body
            | 2 => .wait q seq body
            | 3 => .set q seq body
            | 4 => .migrate q seq body
            | _ => .flow q seq body])

/-- Ranges of a kernel descriptor (R80). -/
def badKernel (k : Kernel) : Bool :=
  k.regs < 32 || 2048 < k.regs || k.regs % 32 ≠ 0 || 64 < k.depth || 262144 < k.scratch || k.scratch % 128 ≠ 0 || Config.vaultBytes < k.vault || k.vault % 65536 ≠ 0 ||
    2 ^ 20 < k.spill || (k.cn ≠ 0 && (k.ch = 0 || 4 < k.ch || k.cw = 0 || 12 < k.cw || 12 < k.ch * k.cw || min 24 (2 * k.ch * k.cw) < k.cn))

/-- A coefficient table breaks R167. -/
def badCoef (l : List Byte) : Bool :=
  decide (l.length ≠ 16384) || decide (l.take 6 ≠ [0x43, 0x4F, 0x45, 0x46, 0x01, 0x00]) || ((l.drop 6).take 1018).any fun b => decide (b ≠ 0)

/-- One team fits an empty core (R17). -/
def fitsEmpty (groups : Nat) (k : Kernel) : Bool :=
  (List.range 4).any fun q0 => (List.range 4).all fun q => groupsOn groups q0 q ≤ Config.groupSlots q && groupsOn groups q0 q * k.regs ≤ Config.quadRegs

/-- A LAUNCH that R259 refuses, the exact-sum block apart. -/
def badLaunch (b : Nat) (k : Kernel) : Bool :=
  let nx := field b 24 4
  let ny := field b 28 4
  let nz := field b 32 4
  let groups := field b 36 1
  let p := 16 * field b 38 2
  nx = 0 || ny = 0 || nz = 0 || 2 ^ 32 < nx * ny * nz || groups = 0 || 32 < groups || 4096 < field b 38 2 || field b 48 8 % 4096 ≠ 0 || field b 64 8 % 2097152 ≠ 0 ||
    field b 88 8 % 128 ≠ 0 || badKernel k || badCoef k.coef || !fitsEmpty groups k || (k.cn ≠ 0 && nx * ny * nz % k.cn ≠ 0) || 251658240 < k.cn * k.vault ||
    Config.vaultBytes < k.vault + 32 * groups * p || 1024 * field b 56 4 < recordBytes groups k.regs k.scratch (k.cn ≠ 0) 0 0 0

/-- The checkpoint at a grid's LAUNCH, before any of its teams has started (R280). -/
def firstCkpt (s : State) (count nx : Nat) : Ckpt :=
  { gtime := s.now, records := [], next := 0, nextCluster := 0, count, nx, retired := [], ords := [], signalled := [], cbars := s.cbars }

/-- A LAUNCH BECOMES AN ACTIVE GRID, or is refused (R15, R19, R259); one that RPCTL named when it was claimed enters replay mode with a checkpoint (R279, R280). Firmware takes note of the frames of the context's tables and pages (R124), and a suspended queue's grid starts suspended (R261). -/
def execLaunch (q seq : Nat) (body : List Byte) (s : State) : Out :=
  let b := natOf body
  let named : Bool := s.obs.named.contains (q, seq)
  let settle (t : State) : State := { t with obs := { t.obs with named := t.obs.named.filter (· ≠ (q, seq)) } }
  let refuse (t : State) : Out := .next ((settle t).post [.packetComplete q seq 2 0])
  match s.queue? q with
  | none => .next s
  | some x =>
    match tabFind s.kernels (field b 16 8) with
    | none => refuse s
    | some k =>
      if badLaunch b k then refuse s else
      let block := field b 72 8
      let start (t : State) : Out :=
        let replay : Bool := named && k.det
        let gi := t.nextGrid
        let count := field b 24 4 * field b 28 4 * field b 32 4
        let g : Grid :=
          { Grid.empty with queue := q, seq, kernel := k, nx := field b 24 4, ny := field b 28 4, nz := field b 32 4, count,
                            groups := field b 36 1, prio := field b 37 1 % 4, policy := field b 37 1 / 4 % 2, privSize := 16 * field b 38 2, bartmo := field b 40 4,
                            spinth := clampSpin (field b 44 4), save := field b 48 8, saveSize := field b 56 4, root := field b 64 8, esum := block, scales := field b 80 8,
                            spillAt := field b 88 8, ctx := x.ctx, asid := x.asid, suspended := x.susp, replay,
                            checkpoints := if replay then [firstCkpt t count (field b 24 4)] else [] }
        let t1 := State.noteContext { settle t with grids := tabPut t.grids gi g, nextGrid := gi + 1, roots := tabPut t.roots x.asid (field b 64 8) } x.asid x.ctx
        if !named then .next t1 else
        let st : DWord := if k.det then 4 else 8
        .next { t1 with obs := { t1.obs with rpctl := (t1.obs.rpctl &&& ~~~(0xC : DWord)) ||| st, journal := [], journaled := [] } }
      if block = 0 then start s else
      let s1 := { s with roots := tabPut s.roots x.asid (field b 64 8) }
      match s1.agentRead 0 x.asid x.ctx block 256 (packetWaiter q seq) with
      | .wait t => .next (t.post [.launch q seq body])
      | .bad _ => refuse (s.takeFail (packetWaiter q seq))
      | .ok v t => if esumOk (esumBlock v block) then start t else refuse s

namespace State
variable (s : State)

/-- Read a WAIT's signal: reached, not yet, refused, or waiting for service (R260). -/
def waitCheck (x : Queue) (a v w : Nat) : EngRead × Bool :=
  match s.agentRead 0 x.asid x.ctx a 8 w with
  | .ok y t => (.ok y t, decide (v ≤ y))
  | r => (r, false)

end State

/-- A WAIT (R259, R260): refused, done, or holding its queue. -/
def execWait (q seq : Nat) (body : List Byte) (s : State) : Out :=
  let b := natOf body
  let a := field b 16 8
  let refuse (t : State) : Out := .next (t.post [.packetComplete q seq 2 0])
  match s.queue? q with
  | none => .next s
  | some x =>
    if !canonical a || apertureOf a ≠ .glob || a % 8 ≠ 0 then refuse s else
    match s.waitCheck x a (field b 24 8) (packetWaiter q seq) with
    | (.bad _, _) => refuse (s.takeFail (packetWaiter q seq))
    | (.wait t, _) => .next (t.post [.wait q seq body])
    | (.ok _ t, done) => if done then .next (t.post [.packetComplete q seq 0 0]) else .next (t.modQueue q fun y => { y with checkAt := t.now })

/-- WAITS ARE RECHECKED (R260): on any completion, or 2 µs after the last check; one whose signal has lost its mapping or R is refused (R259). -/
def execWaitRecheck (s : State) : Out :=
  let one (t : State) (e : Nat × Queue) : State :=
    match e.2.waiting with
    | none => t
    | some (seq, a, v) =>
      if t.agenda.any (fun i => match i with | .wait q n _ => q = e.1 && n = seq | .packetComplete q n _ _ => q = e.1 && n = seq | _ => false) then t else
      match t.waitCheck e.2 a v (packetWaiter e.1 seq) with
      | (.ok _ u, true) => u.post [.packetComplete e.1 seq 0 0]
      | (.ok _ u, false) => { u with queues := tabPut u.queues e.1 { e.2 with checkAt := u.now } }
      | (.wait u, _) => u
      | (.bad _, _) => (t.takeFail (packetWaiter e.1 seq)).post [.packetComplete e.1 seq 2 0]
  .next (s.queues.foldl one s)

/-- A SET (R258, R259): a store or an addition as a system-scope release. -/
def execSet (q seq : Nat) (body : List Byte) (s : State) : Out :=
  let b := natOf body
  let a := field b 16 8
  let v := field b 24 8
  let refuse (t : State) : Out := .next (t.post [.packetComplete q seq 2 0])
  let w := packetWaiter q seq
  match s.queue? q with
  | none => .next s
  | some x =>
    if 1 < field b 32 1 || !canonical a || apertureOf a ≠ .glob || a % 8 ≠ 0 then refuse s else
    match (if field b 32 1 = 0 then s.plainWrite 0 x.asid x.ctx a 8 v w else s.agentAdd 0 x.asid x.ctx a v w) with
    | .ok _ t => .next (t.post [.packetComplete q seq 0 0])
    | .bad _ => refuse (s.takeFail w)
    | .wait t => .next (t.post [.set q seq body])

/-- A MIGRATE (R129, R259, R363, R380): the page's origin decides; its answer completes the packet. -/
def execMigrate (q seq : Nat) (body : List Byte) (s : State) : Out :=
  let b := natOf body
  let va := field b 16 8
  let n := field b 24 1
  let done (code : Nat) : Out := .next (s.post [.packetComplete q seq (0x100 + code) 0])
  match s.queue? q with
  | none => .next s
  | some x =>
    if s.fab.n ≤ n || !canonical va || va % 65536 ≠ 0 then .next (s.post [.packetComplete q seq 2 0])
    else if apertureOf va ≠ .glob then done 0x0A
    else
      let ask (o : Nat) : Out :=
        if s.peerDown n || s.peerDown o then done 0x12
        else .next (s.sendMsg o 0 Pk.migRequest x.asid va [n, State.packetTag s.devid q seq])
      match s.walk x.asid va with
      | .page _ e _ => if Pte.s e then ask (Pte.origin e) else done 0x0A
      | .elsewhere o => ask o
      | .absent k _ _ => if k = 0 then done 0x0B else done 0x0A
      | .malformed | .walking => done 0x0B

/-- No GLOBAL address (R219, R220). -/
def notGlobal (a : Nat) : Bool := !canonical a || apertureOf a ≠ .glob

/-- A flow descriptor that R220 refuses, at this device. -/
def badFlow (devid d : Nat) : Bool :=
  let mode := field d 39 1
  let recv : Bool := mode / 4 % 2 = 1
  let multi : Bool := mode / 8 % 2 = 1
  let k := field d 40 1
  let f := field d 32 4
  let src := field d 38 1
  let dests := (List.range k).map fun i => field d (48 + i) 1
  notGlobal (field d 0 8) || notGlobal (field d 16 8) || (recv && (notGlobal (field d 8 8) || notGlobal (field d 24 8))) ||
    field d 0 8 % 65536 ≠ 0 || (if recv then field d 8 8 % 64 ≠ 0 || field d 24 8 % 16 ≠ 0 else field d 8 8 ≠ 0 || field d 24 8 ≠ 0) || field d 16 8 % 64 ≠ 0 ||
    f % 64 ≠ 0 || f < 64 || 2 ^ 28 < f || field d 36 2 / 4096 ≠ 0 || mode % 4 = 3 || mode / 16 ≠ 0 || k = 0 || 16 < k || (!multi && k ≠ 1) || field d 41 7 ≠ 0 ||
    field d 48 16 / 256 ^ k ≠ 0 || dests.contains src || !decide dests.Nodup || (if recv then !dests.contains devid else decide (src ≠ devid))

/-- A FLOW PACKET (R219 to R221, R259): it creates one end of a flow, or destroys it. Operations on a destroyed flow end with NOMAP. -/
def execFlow (q seq : Nat) (body : List Byte) (s : State) : Out :=
  let b := natOf body
  let a := field b 24 8
  let w := packetWaiter q seq
  let refuse : Out := .next ((s.takeFail w).post [.packetComplete q seq 2 0])
  match s.queue? q with
  | none => .next s
  | some x =>
    if 1 < field b 16 1 || notGlobal a then refuse else
    match s.agentRead 0 x.asid x.ctx a 64 w with
    | .bad _ => refuse
    | .wait t => .next (t.post [.flow q seq body])
    | .ok d t =>
      let recv : Bool := field d 39 1 / 4 % 2 = 1
      let id := field d 36 2 % 4096
      let src := field d 38 1
      let key := if recv then recvKey src id else id
      let done (u : State) : Out := .next (u.post [.packetComplete q seq 0 0])
      if field b 16 1 = 1 then
        if (t.flow? key).isNone then refuse else
        let ops := if recv then [] else (t.ops.filter fun e => (e.2.kind = .fsend || e.2.kind = .fsync) && e.2.st = .pending && e.2.args.headD 0 = id).map (·.1)
        let u := ops.foldl (fun (u : State) i => if (u.op i).kind = .fsend then u.failOp i ⟨Cause.nomap, 0, 0, 0⟩ else u.endOp i 0) t
        done { u.destroyFlow key with reasm := if recv then u.reasm.filter fun e => !(e.2.src = src && e.2.flow = id) else u.reasm }
      else if badFlow t.devid d || (t.flow? key).isSome then refuse
      else
        let f := field d 32 4
        let multi : Bool := field d 39 1 / 8 % 2 = 1
        let fl : Flow :=
          { sender := !recv, multi, ctx := x.ctx, mirror := field d 0 8, deliver := field d 8 8, table := field d 16 8, record := field d 24 8, frame := f,
            esize := 2 ^ (field d 39 1 % 4), source := src, dests := (List.range (field d 40 1)).map fun i => field d (48 + i) 1, asid := x.asid, nextTransfer := 0,
            lastSent := [], baseSent := [], perf := 0, done := 0, raws := 0, running := [], queuedAt := [], plane0 := [], plane1 := [], gen0 := [], gen1 := [], inflight := [],
            owed := [], records := [], ackGen := [], slotFlight := [], slotQueued := [], slotBehind := [], slotRaw := [], rest := [], latestT := [], spans := [] }
        let put (u : State) : Out := done (u.createFlow key fl)
        if !recv then put t else
        match t.plainWrite portCore x.asid x.ctx (field d 24 8) 16 0 w with
        | .ok _ u => put u
        | .bad _ => refuse
        | .wait u => .next (u.post [.flow q seq body])

namespace State
variable (s : State)

/-- The last completed sequence in order, with those completed out of order (R266). -/
def advanceDone (l : List Nat) : Nat → Nat → Nat
  | 0, c => c
  | fuel + 1, c => if l.contains ((c + 1) % 2 ^ 32) then advanceDone l fuel ((c + 1) % 2 ^ 32) else c

/-- THE COMPLETION RECORD (R264) and the queue's counts. -/
def recordCompletion (q seq status err : Nat) : State :=
  match s.queue? q with
  | none => s
  | some x =>
    let n := s.completions + 1
    let entry := n + 2 ^ 64 * (q + 2 ^ 16 * status) + 2 ^ 96 * seq + 2 ^ 128 * s.now + 2 ^ 192 * err
    let s1 := State.putHost { s with completions := n, compLog := s.compLog ++ [(q, seq, status, s.now, err)] } (x.compRing + 32 * (x.compCount % 4096)) entry 32
    let all := seq :: x.doneSet
    let c := advanceDone all (all.length + 1) x.completed
    let past : Bool := x.waiting.any fun w => w.1 = seq
    -- the head becomes claimable when a WAIT before it completes, or its BARRIER's packets have (R263)
    let freed : Bool := x.barrier && c = x.accepted
    s1.modQueue q fun y => { y with completed := c, doneSet := all.filter fun d => ringDist c d ≠ 0 && ringDist c d < 2 ^ 31, compCount := y.compCount + 1, barrier := y.barrier && !freed,
                                    signals := tabDel y.signals seq, waiting := if past then none else y.waiting, since := if past || freed then s.now else y.since }

end State

/-- A PACKET COMPLETES (R257, R260, R264, R266): the signal is incremented, the record written, and the WAITs of the module are rechecked. -/
def execPacketComplete (q seq status errSeq : Nat) (s : State) : Out :=
  match s.queue? q with
  | none => .next s
  | some x =>
    let finish (t : State) (st : Nat) : Out := .next ((t.recordCompletion q seq st errSeq).postOnce .waitRecheck)
    match tabFind x.signals seq with
    | none => finish s status
    | some a =>
      match s.agentAdd 0 x.asid x.ctx a 1 (packetWaiter q seq) with
      | .ok _ t => finish t status
      | .bad _ => finish (s.takeFail (packetWaiter q seq)) (status + 32768)
      | .wait t => .next (t.post [.packetComplete q seq status errSeq])

/-- THE KERNEL BOUNDARY at a grid's end (R140, R264): every L1 drops the row-1 lines of the grid's context, and the LAUNCH completes. -/
def execKernelBoundary (grid : Nat) (s : State) : Out :=
  match tabFind s.grids grid with
  | none => .next s
  | some x =>
    -- a replay stop that is under way takes the grid's end (R281)
    if (x.stopping || x.halting) && x.aborted.isNone then .next s else
    let drop (k : Core) : Core := { k with l1 := k.l1.filter fun e => !(e.2.row1 && e.2.ctx = x.ctx) }
    let e := match x.aborted with | some p => p | none => if x.trapped = 0 then (0, 0) else (1, x.trapped)
    .next (State.post { s with cores := s.cores.map (fun c => (c.1, drop c.2)), grids := tabDel s.grids grid, records := s.records.filter fun r => r.2.grid ≠ grid }
      [.packetComplete x.queue x.seq e.1 e.2])

namespace State
variable (s : State)

/-- Refuse the n unclaimed packets of a queue, in order, each with its signal: the state and whether all are done. An entry that cannot be read has no signal. -/
def refuseRest (q : Nat) : Nat → State → State × Bool
  | 0, t => (t, true)
  | n + 1, t =>
    match t.queue? q with
    | none => (t, true)
    | some x =>
      let seq := (x.accepted + 1) % 2 ^ 32
      let one (u : State) (sig : Nat) : State :=
        (u.modQueue q fun y => { y with accepted := seq, read := (y.read + 1) % 2 ^ 32, signals := if sig = 0 || badSignal sig then y.signals else tabPut y.signals seq sig }).post
          [.packetComplete q seq 3 0]
      match t.agentRead 0 x.asid x.ctx (ringAt x x.read) 16 (ringWaiter q) with
      | .ok v u => refuseRest q n (one u (v / 2 ^ 64))
      | .bad _ => refuseRest q n (one (t.takeFail (ringWaiter q)) 0)
      | .wait u => (u, false)

end State

/-- QCTL ABORT (R261): unclaimed packets are refused with status 3, and the queue's running grids are aborted as after a trap under policy 0. -/
def execAbortQueue (q : Nat) (s : State) : Out :=
  match s.queue? q with
  | none => .next s
  | some x =>
    let r := State.refuseRest q (ringDist x.read x.write) s
    let s1 := if r.2 then r.1 else r.1.post [.abortQueue q]
    .next ((s1.grids.filter fun e => e.2.queue = q && e.2.aborted.isNone).foldl (fun (t : State) e => t.abortGrid e.1 3 0) s1)

/-- QCTL SUSPEND (R261, R267): nothing is claimed and every resident team of the queue's grids is pre-empted; or the queue goes on. The bit is kept in a stuck queue too. -/
def execSuspend (q : Nat) (on : Bool) (s : State) : Out :=
  match s.queue? q with
  | none => .next s
  | some _ =>
    let s1 := s.modQueue q fun y => { y with susp := on, since := if on then y.since else s.now }
    let mark (e : Nat × Grid) : Nat × Grid := if e.2.queue = q then (e.1, { e.2 with suspended := on }) else e
    let s2 := { s1 with grids := s1.grids.map mark }
    .next (if on then s2.suspendTeams else s2)

namespace State
variable (s : State)

/-- Free entries of a queue's ring. -/
def ringFree (x : Queue) : Nat := 2 ^ x.log2 - ringDist x.read x.write

/-- Put a packet into a queue's ring with the queue's next sequence number (R262), once its bytes are written. -/
def enqueue (c q pkt w : Nat) : EngWrite :=
  match s.queue? q with
  | none => .ok 0 s
  | some x =>
    let p := pkt % 2 ^ 32 + 2 ^ 32 * (x.nextSeq % 2 ^ 32) + pkt / 2 ^ 64 * 2 ^ 64
    match s.plainWrite c x.asid x.ctx (ringAt x x.write) 128 p w with
    | .ok _ t => .ok 1 (t.modQueue q fun y => { y with nextSeq := (y.nextSeq + 1) % 2 ^ 32, write := (y.write + 1) % 2 ^ 32, workPending := true,
                                                       since := if y.read = y.write then s.now else y.since })
    | r => r

/-- Place i of a grid's spill area (R258, R262). -/
def spillPlace (x : Grid) (i : Nat) : Nat := x.spillAt + 128 * (i % x.kernel.spill)

/-- One lane's push (R262): into the ring, into the spill area, or refused; the Bool is pD. DESIGN CHOICE (log 114): a push whose ring entry or place of the spill area cannot be written, for which the spec names no result, has none: pD is 0. -/
def pushLane (q gi pkt w : Nat) : EngWrite :=
  let x := s.grid gi
  let free : Bool := match s.queue? q with | some y => 0 < ringFree y | none => false
  let r : EngWrite :=
    if x.spill = [] && free then s.enqueue s.curCore q pkt w
    else if x.spill.length < x.kernel.spill then
      match s.plainWrite s.curCore x.asid x.ctx (spillPlace x x.spilled) 128 pkt w with
      | .ok _ t => .ok 1 (t.modGrid gi fun y => { y with spill := y.spill ++ [(q, y.spilled)], spilled := y.spilled + 1 })
      | e => e
    else .ok 0 s
  match r with
  | .bad _ => .ok 0 (s.takeFail w)
  | e => e

/-- The pushes of the lanes, in their order: all of them, or the lane, with the state before its push, that has to wait. -/
def pushAll (q gi : Nat) (p : Nat) (pk : Tab Nat) (w : Nat) : List Nat → State → State × Option Nat
  | [], u => (u, none)
  | i :: l, u => match u.pushLane q gi (tabGet 0 pk i) w with
    | .ok d t => pushAll q gi p pk w l (t.modG fun g => g.wrP p i (d = 1))
    | _ => (u, some i)

/-- Wait for a lane's push: from the state before the instruction, with what the write at its place asks for; `u` is the state in which it found its place. -/
def pushWait (u : State) (q gi pkt w : Nat) : State :=
  let x := u.grid gi
  let go (r : EngWrite) : State := match r with | .wait t => t.stall | _ => s.stall
  match u.queue? q with
  | none => s.stall
  | some y =>
    if x.spill = [] && 0 < ringFree y then go (s.plainWrite s.curCore y.asid y.ctx (ringAt y y.write) 128 (pkt % 2 ^ 32 + 2 ^ 32 * (y.nextSeq % 2 ^ 32) + pkt / 2 ^ 64 * 2 ^ 64) w)
    else go (s.plainWrite s.curCore x.asid x.ctx (spillPlace x x.spilled) 128 pkt w)

/-- What a read of a lane's packet answers: its bytes, a failure, or nothing yet. -/
def readPacket (i a w : Nat) : EngRead :=
  match s.placeOf s.cur.gk i a 128 with
  | some (.glob va) => s.plainRead s.curCore s.tm.asid s.tm.ctx va 128 w
  | some (.scratch p) => if s.touchesAbsent p 128 then .wait s else .ok (s.readArray (.scratch p) 128).1 s
  | some (.vault p) => .ok (s.readArray (.vault p) 128).1 s
  | none => .bad ⟨Cause.prot, 0, 1, 0⟩

/-- Read the packets of some lanes, ascending: the packets, or the first failing lane with its failure, or the state that waits. -/
inductive Packets where
  | all (pk : Tab Nat) (s : State)
  | fails (i : Nat) (b : Bad)
  | waits (s : State)

def readPackets (a : Nat → Nat) (w : Nat) : List Nat → State → Packets
  | [], u => .all [] u
  | i :: l, u => match u.readPacket i (a i) w with
    | .wait t => .waits t
    | .bad b => .fails i b
    | .ok v t => match readPackets a w l t with
      | .all pk r => .all (tabPut pk i v) r
      | r => r

/-- The first of a lane's checks that fails before its packet is read (R364): NOMAP, MISALIGN, PROT for the queue, then R342's. -/
def pushCheck (ok : Bool) (i a : Nat) : Option (Nat × Nat) :=
  if !canonical a then some (Cause.nomap, 0)
  else if a % 128 ≠ 0 then some (Cause.misalign, 0)
  else if !ok then some (Cause.prot, 2)
  else (s.issueChecks s.cur.gk (BitVec.ofNat 32 (2 ^ i)) (fun _ => a) 128 false).map fun t => (t.cause, t.detail)

end State

/-- QPUSH (R262, R280, R364): each lane is checked in turn, in ascending order, and the first failure is raised with the lanes that meet its cause; then the lanes' fences, reads and pushes. DESIGN CHOICE (log 115): no lane pushes before every lane's checks have passed, so that a trap leaves nothing pushed. -/
def execQpush (x : QpushArgs) (s : State) : Out :=
  s.enter [(x.a.toNat, 2)] [(x.b.toNat % 256, 1)] fun s =>
    let t := s.trueLanes x.guard
    if t = 0 then .next ((s.advance s.cur.mask).finish false) else
    let a (i : Nat) : Nat := (s.g.rdPair x.a.toNat i).toNat
    let q := (s.g.rdS (x.b.toNat % 256)).toNat % 4096
    let gi := s.tm.grid
    let w := kstabWaiter s.cur.gk (lowLane t)
    let allowed : Bool := match s.queue? q with | some y => y.devWrite && y.ctx = s.tm.ctx | none => false
    if s.gr.replay then s.raise Cause.prot 2 t else
    let check (i : Nat) : Option (Nat × Nat) := s.pushCheck allowed i (a i)
    let bad := maskOf fun i => t.getLsbD i && (check i).isSome
    let fail : Out := match check (lowLane bad) with
      | some c => s.raise c.1 c.2 (maskOf fun i => t.getLsbD i && check i = some c) 0 (BitVec.ofNat 64 (a (lowLane bad)))
      | none => .next s.stall
    if bad ≠ 0 && lowLane bad = lowLane t then fail
    else if !s.fencePassed s.cur.gk t .dev then .next s.stall
    else
      match State.readPackets a w ((lanesOf t).takeWhile fun i => !bad.getLsbD i) s with
      | .waits u => .next u.stall
      | .fails i b =>
        let m := maskOf fun j => t.getLsbD j && !bad.getLsbD j && (match s.readPacket j (a j) w with | .bad c => c.cause = b.cause | _ => false)
        .next ((s.takeFail w).takeTrap { cause := b.cause, sub := b.sub, detail := b.detail, mask := m ||| BitVec.ofNat 32 (2 ^ i), addr := BitVec.ofNat 64 (a i) })
      | .all pk u =>
        if bad ≠ 0 then fail else
        match State.pushAll q gi x.p.toNat pk w (lanesOf t) u with
        | (v, none) => .next ((v.advance s.cur.mask).finish false)
        | (v, some i) => .next (s.pushWait v q gi (tabGet 0 pk i) w)

/-- The agent moves the oldest spilled packet of a grid into its queue once an entry is free, from its place in the spill area (R262). DESIGN CHOICE (log 114): a packet that can no longer be read from there is lost, and a queue whose entry cannot be written enters RINGFAULT. -/
def execSpillMove (grid : Nat) (s : State) : Out :=
  let x := s.grid grid
  match x.spill with
  | [] => .next s
  | (q, i) :: rest =>
    let w := packetWaiter q (2 ^ 32 + 1)
    let gone (t : State) : Out := .next ((t.modGrid grid fun y => { y with spill := rest }).gridEnd grid)
    match s.queue? q with
    | none => gone s
    | some y =>
      if State.ringFree y = 0 then .next s else
      match s.agentRead 0 x.asid x.ctx (State.spillPlace x i) 128 w with
      | .wait t => .next (t.post [.spillMove grid])
      | .bad _ => gone (s.takeFail w)
      | .ok p u => match u.enqueue 0 q p w with
        | .ok _ t => gone t
        | .wait t => .next (t.post [.spillMove grid])
        | .bad _ => .next ((s.takeFail w).modQueue q fun z => { z with state := .ringfault })

end Sys2Proof.Machine
end

