-- ==== Sys2Proof/Machine/Observe.lean ====
section
/-! DEFINITION. Geyser, causal trials, checkpoints and replay stops, host and agent registers, starting, power, attestation and the host's own memory accesses (R2, R5, R199, R218, R268 to R281, R379). -/

namespace Sys2Proof.Machine

/-- Paths in replay mode: in rotation, by ascending lowest lane (R280). -/
def Group.inTurn (g : Group) : List (DWord × LaneMask) :=
  let l := sortBy (fun a b => lowLane a.2 ≤ lowLane b.2) g.paths
  (l.filter fun p => g.rot ≤ lowLane p.2) ++ l.filter fun p => lowLane p.2 < g.rot

namespace State
variable (s : State)

def modObs (f : ObsSt → ObsSt) : State := { s with obs := f s.obs }
def modSys (f : SysSt → SysSt) : State := { s with sys := f s.sys }

/-- An event count as Geyser reads it (R273). -/
def eventCount (code : Nat) : Nat := if code = 0 || 32 < code then 0 else tabGet 0 s.obs.counts code

/-- Sampling interval in nanoseconds (R272). -/
def geyserInterval : Nat := let i := (s.obs.gctl.extractLsb' 16 16).toNat; 1000 * (if i = 0 then 1 else i)
/-- Log2 of the ring's rows: values outside 4 to 24 act as 4 (R272). -/
def geyserRows : Nat := let z := s.obs.gsize.toNat % 32; if 4 ≤ z && z ≤ 24 then z else 4
/-- Selector of counter i (R272). -/
def geyserSel (i : Nat) : Nat := if i < 8 then (s.obs.gsela.toNat / 256 ^ i) % 256 else (s.obs.gselb.toNat / 256 ^ (i - 8)) % 256

/-- One row as a number: GTIME, sequence, flags, and 14 counts (R274). -/
def geyserRow (k : Nat) : Nat :=
  let flags := 2 ^ 16 * min 65535 s.obs.gpend + (if s.obs.trctl.getLsbD 0 then 1 else 0)
  (List.range 14).foldl (fun n i => n + 2 ^ (128 + 64 * i) * (s.eventCount (s.geyserSel i) % 2 ^ 64)) (s.now % 2 ^ 64 + 2 ^ 64 * (k % 2 ^ 32) + 2 ^ 96 * flags)

end State

namespace State
variable (s : State)

/-- GEYSER TAKES A ROW that is due (R273, R274): written as a release when the ring has room, and dropped otherwise. -/
def sampleRow : State :=
  let o := s.obs
  if !o.gctl.getLsbD 0 || s.now < o.gt0 + o.gnext * s.geyserInterval then s else
  let k := o.gnext
  let z := 2 ^ s.geyserRows
  if ringDist o.gread o.gwrite < z then
    let s1 := s.putHost (o.gring.toNat + 128 * (o.gwrite % z)) (s.geyserRow k) 128
    s1.modObs fun p => { p with gnext := k + 1, gwrite := (p.gwrite + 1) % 2 ^ 32, gpend := 0 }
  else s.modObs fun p => { p with gnext := k + 1, gdrop := min (2 ^ 32 - 1) (p.gdrop + 1), gpend := p.gpend + 1 }

/-- A write to GCTL (R272, R274): setting Enable starts sampling at this GTIME, with row 0 at once. -/
def writeGctl (v : DWord) : State :=
  let on := v.getLsbD 0
  let was := s.obs.gctl.getLsbD 0
  let s1 := s.modObs fun o => { o with gctl := v &&& 0xFFFF0001 }
  if on && !was then State.sampleRow (s1.modObs fun o => { o with gt0 := s.now, gnext := 0 }) else s1

end State

/-- A WRITE TO GCTL, as an event (R272, R274). -/
def execGeyserEnable (v : DWord) (s : State) : Out := .next (s.writeGctl v)

/-- A GEYSER SAMPLE, as an event: the row that is due (R274). Each cycle takes the rows that have become due in it. -/
def execGeyserSample (s : State) : Out := .next s.sampleRow

namespace State
variable (s : State)

def trialQ : Nat := (s.obs.trdq.extractLsb' 32 20).toNat
def trialD : Nat := (s.obs.trdq.extractLsb' 0 20).toNat

/-- Every hold of a trial ends (R276). -/
def endHolds : State := { s with groups := s.groups.map fun e => (e.1, { e.2 with trialUntil := 0, trialOut := false }) }

end State

namespace State
variable (s : State)

/-- A write to TRCTL (R275, R276): a trial starts with the next cycle, or ends. -/
def writeTrctl (v : DWord) : State :=
  let w := v &&& 0xFFFFFFFFFFFF0001
  if s.obs.trctl.getLsbD 0 then
    if v.getLsbD 0 then s else State.endHolds (s.modObs fun o => { o with trctl := w })
  else if !v.getLsbD 0 then s.modObs fun o => { o with trctl := w }
  else if s.trialQ < 64 || s.trialQ ≤ s.trialD then s.modObs fun o => { o with trctl := w &&& ~~~(1 : DWord) }
  else State.endHolds (s.modObs fun o => { o with trctl := w, trialNext := s.cycle + 1 + s.trialQ })

/-- A QUANTUM ENDS on every core, when its Q cycles are over (R276): groups of the named grid that issued outside the range are held for this cycle and the D − 1 after it. -/
def endQuantum : State :=
  if !s.obs.trctl.getLsbD 0 || s.cycle < s.obs.trialNext then s else
  let hold (e : Nat × Group) : Nat × Group :=
    if !isAgent e.1 && !switchedOut e.1 && s.trialOn e.1 then
      (e.1, { e.2 with trialUntil := if e.2.trialOut then s.cycle + s.trialD else e.2.trialUntil, trialOut := false })
    else e
  State.modObs { s with groups := s.groups.map hold } fun o => { o with trialNext := o.trialNext + s.trialQ }

/-- A write to RPCTL (R279): Enable, the grid's name, and Stop, which clears itself. -/
def writeRpctl (v : DWord) : State :=
  let st := if v.getLsbD 0 then s.obs.rpctl &&& 0xC else 0
  let s1 := s.modObs fun o => { o with rpctl := (v &&& 0xFFFFFFFFFFFF0001) ||| st }
  if v.getLsbD 1 then s1.postOnce .stop else s1

end State

/-- A WRITE TO TRCTL, as an event (R275, R276). -/
def execTrialEnable (v : DWord) (s : State) : Out := .next (s.writeTrctl v)

/-- THE END OF A TRIAL'S QUANTUM, as an event (R276). Each cycle ends the quantum that is over in it. -/
def execTrialQuantum (s : State) : Out := .next s.endQuantum

/-- A WRITE TO RPCTL, as an event (R279). -/
def execReplayEnable (v : DWord) (s : State) : Out := .next (s.writeRpctl v)

namespace State
variable (s : State)

/-- A copy of a team for a checkpoint (R267, R280): of a resident one, or of one that is switched out, whose record `out` is. -/
def snapshot (tk : Nat) (out : Option Record) : Record :=
  let t := s.team tk
  let mine (gk : Nat) : Bool := !isAgent gk && teamOf gk = tk
  let c := tk / 16
  let lo := 2048 * c + t.scratchAt / 128
  let hi := lo + t.scratch / 128
  let r : Record :=
    { tk := 0, grid := t.grid, size := s.recordSize tk, team := t, groups := (s.groups.filter fun e => mine e.1).map fun e => (gidOf e.1, { e.2 with rings := [] }),
      logs := s.logs.filter fun e => mine e.2.gk, ops := s.ops.filter fun e => mine e.2.gk && e.2.st = .pending,
      kreqs := (s.kreqs.filter fun e => mine e.2.gk && e.2.fired.isNone).map fun e => (e.1, withdraw e.2),
      scratch := bytesOf (memNat s.mem.scratch (Config.scratchBytes * c + t.scratchAt) t.scratch) t.scratch,
      filling := (s.mem.filling.filter fun e => lo ≤ e.1 && e.1 < hi).map fun e => (e.1 - lo, e.2), complete := true, wrote := 0, notBefore := 0, after := s.nextGrid }
  match out with
  | none => r
  | some q => { r with kreqs := q.kreqs, scratch := q.scratch, filling := q.filling }

/-- Chains of a team's paths roll back and its rings empty (R63, R66). -/
def quiesce (tk : Nat) : State :=
  { s.rollGroups (fun gk => !isAgent gk && teamOf gk = tk) with issue := s.issue.filter fun q => isAgent q.gk || teamOf q.gk ≠ tk }

/-- Keep the records of a list of teams in the grid's save area, each where it fits. -/
def keepAll : List Nat → State → Option (List Nat × State)
  | [], u => some ([], u)
  | k :: l, u =>
    let r := u.snapshot k ((u.records.find? fun e => e.2.tk = k && k ≠ 0 && 9216 ≤ k).map (·.2))
    match u.saveFit r.grid r.size with
    | none => none
    | some a =>
      let key := recordKey r.team.asid a
      (keepAll l { u with records := tabPut u.records key r }).map fun e => (key :: e.1, e.2)

end State

namespace State
variable (s : State)

/-- A checkpoint that can be taken now (R280): every resident team of the grid is switched out, its record kept, and resumed at once; a team that is switched out already is kept as it is. Nothing while a fired pass has outputs left for a core's own memories, a record is still being made, or the records do not fit the save area. -/
def checkpoint? (grid : Nat) : Option State :=
  let x := s.grid grid
  let l := (s.teams.filter fun e => e.2.grid = grid).map (·.1)
  if l.any s.passOutputs || s.records.any (fun e => e.2.grid = grid && e.2.tk ≠ 0 && !e.2.complete) then none else
  let s1 := (l.filter fun k => k < 9216).foldl (fun (t : State) k => t.quiesce k) s
  (keepAll l s1).map fun e =>
    let c : Ckpt := { gtime := s.now, records := e.1, next := x.next, nextCluster := x.nextCluster, count := x.count, nx := x.nx, retired := x.retired, ords := x.ords,
                      signalled := x.signalled, cbars := s.cbars }
    ((e.2.modGrid grid fun y => { y with checkpoints := y.checkpoints ++ [c] }).modObs fun o => { o with journaled := [] }).post (e.1.map .recordComplete)

/-- Does a grid take checkpoints? -/
def checkpoints (grid : Nat) : Bool := let x := s.grid grid; x.replay && x.aborted.isNone && !x.halting && (tabFind s.grids grid).isSome

end State

/-- A CHECKPOINT, as an event (R280). One that cannot be taken yet is tried again. -/
def execCheckpoint (grid : Nat) (s : State) : Out :=
  if !s.checkpoints grid then .next s else
  match s.checkpoint? grid with
  | some t => .next t
  | none => .next (s.post [.checkpoint grid])

/-- A journal entry (R280): the home slice keeps a page's old contents before its first write since the last checkpoint. -/
def execJournalEntry (asid va pa : Nat) (s : State) : Out := .next (s.journal asid va pa)

namespace State
variable (s : State)

/-- Could the stop start from a checkpoint: the named lane had reached at most n, or its team had not started (R281)? -/
def ckptOk (c : Ckpt) (team gid lane n : Nat) : Bool :=
  match c.records.findSome? fun k => (tabFind s.records k).filter fun r => r.team.index = team with
  | some r => (tabGet Group.empty r.groups gid).retiredOf lane ≤ n
  | none => c.next ≤ team

/-- Put a page back to its journaled contents; no L1 keeps a line of it. -/
def restorePage (e : JEntry) : State :=
  let drop (k : Core) : Core := { k with l1 := k.l1.filter fun l => l.1 / 512 ≠ e.pa / 65536 }
  { s with cores := s.cores.map (fun c => (c.1, drop c.2)), mem := { s.mem with dram := e.old.foldl (fun t c => tabSet (0 : Byte) t c.1 c.2) (s.mem.dram.filter fun c => c.1 / 65536 ≠ e.pa / 65536) } }

/-- Put a checkpoint's copy of a team back, as a team that waits to resume. -/
def revive (gi : Nat) (key : Nat) : State :=
  match tabFind s.records key with
  | none => s
  | some r =>
    let n := s.nextRecord
    let tk := 2 ^ 35 + 16 * n
    let g (t : Tab Group) (e : Nat × Group) : Tab Group := tabPut t (32 * tk + e.1) e.2
    let lg (t : Tab Log) (e : Nat × Log) : Tab Log := tabPut t e.1 { e.2 with gk := 32 * tk + gidOf e.2.gk }
    let op (t : Tab Op) (e : Nat × Op) : Tab Op := tabPut t e.1 { e.2 with gk := 32 * tk + gidOf e.2.gk }
    let s1 := { s with nextRecord := n + 1, groups := r.groups.foldl g s.groups, teams := tabPut s.teams tk r.team, logs := r.logs.foldl lg s.logs, ops := r.ops.foldl op s.ops,
                       records := tabPut s.records (2 ^ 120 + n) { r with tk, groups := [], logs := [], ops := [] } }
    let s2 := r.kreqs.foldl (fun (t : State) e => t.refetch e.2) s1
    s2.modGrid gi fun x => { x with resume := x.resume ++ [2 ^ 120 + n] }

end State

namespace State
variable (s : State)

/-- The checkpoint from which a stop of a grid starts: the latest at which the named lane's count was at most n, or its team had not started (R281). -/
def stopFrom (x : Grid) : Option (Nat × Ckpt) :=
  let team := (s.obs.rpstop.extractLsb' 32 32).toNat
  let gid := (s.obs.rpstop.extractLsb' 27 5).toNat
  let lane := (s.obs.rpstop.extractLsb' 22 5).toNat
  ((List.range x.checkpoints.length).zip x.checkpoints).reverse.find? fun e => s.ckptOk e.2 team gid lane s.obs.rpcnt.toNat

/-- THE GRID GOES BACK to the stop's checkpoint (R281), once every team of it has halted and what it had sent has finished: the journal's pages are restored in reverse order, later entries discarded, and the records of that checkpoint restored. -/
def goBack (gi : Nat) : State :=
  let x := s.grid gi
  if !x.halting then s
  else if x.aborted.isSome then s.modGrid gi fun y => { y with halting := false }
  else if s.teams.any (fun e => e.1 < 9216 && e.2.grid = gi) || s.records.any (fun r => r.2.grid = gi && r.2.tk ≠ 0 && !s.recordSettled r.2.tk) then s
  else match s.stopFrom x with
    | none => s.modGrid gi fun y => { y with halting := false }
    | some (i, c) =>
      let tks := (s.teams.filter fun e => e.2.grid = gi).map (·.1)
      let s1 := tks.foldl (fun (t : State) k => t.dropTeam k) s
      let later := s.obs.journal.filter fun e => i < e.ckpt
      let s2 := later.reverse.foldl (fun (t : State) e => t.restorePage e) s1
      let keep := (x.checkpoints.take (i + 1)).flatMap fun k => k.records
      let s3 := { s2 with records := s2.records.filter fun r => r.2.grid ≠ gi || keep.contains r.1 }
      let s4 := s3.modObs fun p => { p with journal := p.journal.filter (fun e => e.ckpt ≤ i), journaled := [] }
      let s5 := s4.modGrid gi fun y => { y with next := c.next, nextCluster := c.nextCluster, count := c.count, nx := c.nx, retired := c.retired, ords := c.ords, signalled := c.signalled,
                                                checkpoints := y.checkpoints.take (i + 1), stopping := true, halting := false, held := false, resume := [] }
      c.records.foldl (fun (t : State) k => t.revive gi k) { s5 with cbars := c.cbars }

end State

/-- A REPLAY STOP (R281): every team of the grid halts under R267; then the grid goes back to the latest usable checkpoint and runs again toward the named count. -/
def execStop (s : State) : Out :=
  let o := s.obs
  if o.rpctl.extractLsb' 2 2 ≠ 1 then .next s else
  match s.grids.find? fun e => e.2.replay && e.2.queue = (o.rpctl.extractLsb' 48 16).toNat && e.2.seq = (o.rpctl.extractLsb' 16 32).toNat with
  | none => .next s
  | some (gi, x) =>
    if (s.stopFrom x).isNone || x.aborted.isSome then .next s else
    .next (((s.modGrid gi fun y => { y with halting := true, stopping := false }).suspendTeams).goBack gi)

namespace State
variable (s : State)

/-- Where a grid's stop has come to (R281): the subcode of its record, with the named group's key when it is resident. -/
def stopPoint (gi : Nat) : Option (Nat × Option Nat) :=
  let x := s.grid gi
  let team := (s.obs.rpstop.extractLsb' 32 32).toNat
  let gid := (s.obs.rpstop.extractLsb' 27 5).toNat
  let lane := (s.obs.rpstop.extractLsb' 22 5).toNat
  match s.teams.find? fun e => e.2.grid = gi && e.2.index = team with
  | some (tk, t) =>
    if t.groups ≤ gid then some (2, none) else
    let g := s.grp (32 * tk + gid)
    if s.obs.rpcnt.toNat ≤ g.retiredOf lane && (g.rings.all fun r => !r.mask.getLsbD lane || r.chain.isNone) then some (1, some (32 * tk + gid))
    else if g.waitOf lane = .exited then some (2, some (32 * tk + gid)) else none
  | none => if (tabFind x.retired team).isSome || (x.next = x.count && x.retired.length = x.count) then some (2, none) else none

/-- THE STOP IS TAKEN (R281): an error record with cause BKPT, and the grid held as under policy 1. -/
def takeStop (gi : Nat) : State :=
  let x := s.grid gi
  if !x.stopping then s else
  if x.held || x.aborted.isSome then s.modGrid gi fun y => { y with stopping := false } else
  match s.stopPoint gi with
  | none => s
  | some (sub, key) =>
    let lane := (s.obs.rpstop.extractLsb' 22 5).toNat
    let gk := key.getD 0
    let g := s.grp gk
    let pc := if key.isSome then g.pcOf lane else 0
    let e : ErrRec := { seq := s.errSeq + 1, packet := x.seq, team := (s.obs.rpstop.extractLsb' 32 32).toNat, gid := (s.obs.rpstop.extractLsb' 27 5).toNat, cause := Cause.bkpt, sub,
                        pc, restart := if key.isSome then (g.inTurn.head?.map (·.1)).getD pc else 0, mask := if key.isSome then g.pathAt pc else 0, causeMask := BitVec.ofNat 32 (2 ^ lane), pc2 := 0, mask2 := 0, detail := 0, gtime := s.now,
                        addr := 0, retired := if key.isSome then g.retiredOf lane else 0, after := 0, issuePc := 0, arrived := 0, gk }
    let tks := (s.teams.filter fun t => t.2.grid = gi && t.1 < 9216).map (·.1)
    let s1 := State.addError { s with issue := s.issue.filter fun q => isAgent q.gk || (s.team (teamOf q.gk)).grid ≠ gi } e
    let s2 := tks.foldl (fun (t : State) k => t.modTeam k fun y => { y with held := true }) s1
    s2.modGrid gi fun y => { y with stopping := false, held := true }

end State

namespace State
variable (s : State)

/-- FIRMWARE'S AND THE DRIVER'S SETTINGS, for which the spec names no register: limits below the fused caps, whose change is logged (R5, R268), the watermark from 0.1% to 10% (R125), and the bases of the host's error ring (R93) and action log (R268). DESIGN CHOICE (log 100): their offsets, and that a value outside its range takes the nearest that is in it. -/
def setLimit (off : Nat) (v : DWord) : State :=
  if off = 0x00 then (s.modSys fun y => { y with fwPower := min v.toNat Config.powerCap }).logAction .cap
  else if off = 0x08 then (s.modSys fun y => { y with fwJunction := min v.toNat Config.junctionCap }).logAction .cap
  else if off = 0x10 then { s with mem := { s.mem with watermark := max 1 (min 100 v.toNat) } }
  else if off = 0x18 then { s with errRing := v.toNat }
  else if off = 0x20 then s.modSys fun y => { y with actionRing := v.toNat }
  else s

end State

/-- A WRITE TO A REGISTER of the host or of firmware (R5, R125, R199, R218, R272, R275, R279). -/
def execRegisterWrite (blk : RegBlock) (off : Nat) (v : DWord) (agent : Bool) (s : State) : Out :=
  match blk with
  | .fabric =>
    if off = 0x20 && agent then .next { s with fab := { s.fab with relayTh := v.toNat % 16, bulkTh := v.toNat / 16 % 16 } } else .next s
  | .port p =>
    if 128 ≤ p || !agent then .next s
    else if off = 0x08 then .next (if p < 64 then (s.wakeWaves p (~~~v)).parkWaves p v else s)
    else if off = 0x10 then .next (s.modPort p fun o => { o with uncorrectable := v.toNat / 65536 % 65536, corrected := v.toNat % 65536 })
    else if 0x80 ≤ off && off < 0x100 && off % 2 = 0 then .next (s.modPort p fun o => o.writeHealth ((off - 0x80) / 2) v.toNat)
    else .next s
  | .geyser =>
    let on := s.obs.gctl.getLsbD 0
    if off = 0x00 then .next (s.writeGctl v)
    else if off = 0x08 then .next (if on then s else s.modObs fun o => { o with gring := v &&& 0xFFFFFFFFFFFFFF80 })
    else if off = 0x10 then .next (if on then s else s.modObs fun o => { o with gsize := v &&& 0x1F })
    else if off = 0x18 then .next (s.modObs fun o => { o with gread := v.toNat / 2 ^ 32 })
    else if off = 0x28 then .next (if on then s else s.modObs fun o => { o with gsela := v })
    else if off = 0x30 then .next (if on then s else s.modObs fun o => { o with gselb := v &&& 0xFFFFFFFFFFFF })
    else .next s
  | .trial =>
    let on := s.obs.trctl.getLsbD 0
    if off = 0x18 then .next (s.writeTrctl v)
    else if on then .next s
    else if off = 0x00 then .next (s.modObs fun o => { o with trlo := v })
    else if off = 0x08 then .next (s.modObs fun o => { o with trhi := v })
    else if off = 0x10 then .next (s.modObs fun o => { o with trdq := v &&& 0x000FFFFF000FFFFF })
    else .next s
  | .replay =>
    if off = 0x00 then .next (s.writeRpctl v)
    else if off = 0x08 then .next (s.modObs fun o => { o with rpjrn := v &&& 0xFFFFFFFFFFFF0000 })
    else if off = 0x10 then .next (s.modObs fun o => { o with rpjsz := v &&& 0xFFFFFFFFFFFF0000 })
    else if off = 0x18 then .next (s.modObs fun o => { o with rpcki := v &&& 0xFFFFFFFF })
    else if off = 0x20 then .next (s.modObs fun o => { o with rpstop := v &&& 0xFFFFFFFFFFC00000 })
    else if off = 0x28 then .next (s.modObs fun o => { o with rpcnt := v })
    else .next s
  | .limits => .next (if agent then s.setLimit off v else s)
  | .pages n => .next (if agent then s.firmwareMig v.toNat off n else s)
  -- the driver has loaded a code object, whose kernel descriptor record stands at the address (R80, R258): DESIGN CHOICE (log 112)
  | .code k => .next (if agent then s else { s with kernels := tabPut s.kernels off k })

/-- THE WATCHDOG (R268): an agent whose group has given no sign of life for 2^24 cycles is restarted from the image entry; its core's user groups keep their state. -/
def execWatchdog (s : State) : Out :=
  let one (t : State) (e : Nat × Group) : State :=
    let c := coreOf e.1
    if isAgent e.1 && (t.core c).beat + Config.watchdogCycles ≤ t.cycle then
      ((t.setGrp e.1 { Group.empty with pc := (List.range 32).map fun i => (i, t.sys.entry) }).modCore c fun k => { k with beat := t.cycle }).logAction .watchdog
    else t
  .next (s.groups.foldl one s)

/-- A field of an image's 64-byte header (R269). DESIGN CHOICE (log 79): magic in bytes 0 to 3, version in 4 to 7, body size in 8 to 15, security version in 16 to 19, and entry in 24 to 31. -/
def headerField (h : List Byte) (off n : Nat) : Nat := natOf ((h.drop off).take n)

/-- The SHAKE256 digest of an image's header and body (R269). -/
def imageDigest (h body : List Byte) : List Nat := Crypto.shake256 ((h ++ body).map BitVec.toNat) 64

/-- Is the image the signer's, and whole (R269)? A wrong magic or body size counts as a wrong signature does (log 79). -/
def imageOk (h body sig : List Byte) : Bool :=
  h.length = 64 && headerField h 0 4 = Config.bootMagic % 2 ^ 32 && headerField h 8 8 = body.length && Crypto.edVerify Config.bootKey (imageDigest h body) (sig.map BitVec.toNat)

/-- THE BOOT ROM checks the image (R14, R269): its signature, and its security version against the fused minimum; it latches the digest as measurement 0, and sets and locks the firmware's memory windows, at most 16 (R268): each is a window change, which is logged. -/
def execBoot (header body signature : List Byte) (windows : List (Nat × Nat)) (s : State) : Out :=
  if !imageOk header body signature || headerField header 16 4 < s.sys.fuseSec then .next (s.modSys fun y => { y with boot := .bootfail })
  else
    let w := windows.take 16
    .next (w.foldl (fun (t : State) _ => t.logAction .window) (s.modSys fun y =>
      { y with boot := .verified, measurement := BitVec.ofNat 512 (Crypto.ofLE (imageDigest header body)), entry := BitVec.ofNat 64 (headerField header 24 8), windows := w }))

namespace State
variable (s : State)

/-- A start leaves nothing of the work before it; time, the host's memory, the pod number and the always-on registers stay (R270). DEDUCED (log 35). DESIGN CHOICE (log 35): the list of retired frames (R2) is emptied too, and the code objects are to be loaded again. -/
def fresh (spared : List (Nat × Nat)) : State :=
  let keep (a : Nat) : Bool := spared.any fun r => r.1 ≤ a && a < r.1 + r.2
  let saved (e : Nat × Port) : Nat × Port := (e.1, { Port.empty with heater := e.2.heater, bank := e.2.bank })
  { State.reset with cycle := s.cycle, third := s.third, devid := s.devid, agenda := [], ticks := s.ticks,
                     mem := { MemSt.reset with host := s.mem.host, hostPages := s.mem.hostPages, dram := s.mem.dram.filter fun c => keep c.1 },
                     fab := { FabSt.reset with ports := s.fab.ports.map saved }, sys := { s.sys with boot := .ready, clk := [], zeroing := true, zeroAt := 0, spared } }

end State

/-- COLD START (R270): full DRAM training and ring calibration, whose results are free values; then ready. -/
def execColdStart (s : State) : Out :=
  if s.sys.boot ≠ .verified then .next s else
  let t := s.fresh []
  let codes (p : Nat) : List (Nat × Nat) := (List.range 64).map fun w => (w, (Config.heaterCode (s.ticks + 64 * p + w)).toNat)
  let s1 := { t with fab := { t.fab with ports := (List.range 128).map fun p => (p, { Port.empty with heater := codes p }) }, ticks := s.ticks + 8192 }
  .next (s1.modSys fun y => { y with trainRecord := BitVec.ofNat 512 ((List.range 8).foldl (fun n i => n * 2 ^ 64 + (Config.freeWord (s.ticks + i)).toNat) 0) })

/-- WARM START (R270): training parameters and heater codes come from the always-on registers; host-marked DRAM ranges are spared. -/
def execWarmStart (spared : List (Nat × Nat)) (s : State) : Out := if s.sys.boot ≠ .verified then .next s else .next (s.fresh spared)

/-- BACKGROUND ZEROING of one frame that neither a mapping nor an access has touched since the start (R101, R270); after the last it ends. -/
def execBackgroundZero (pa : Nat) (s : State) : Out :=
  let f := pa / 65536
  let spared : Bool := s.sys.spared.any fun r => r.1 < 65536 * f + 65536 && 65536 * f < r.1 + r.2
  let s1 := if (tabFind s.mem.frames f).isNone && (s.frameOf f).f && !spared && s.sys.zeroing then { s with mem := { s.mem with dram := s.mem.dram.filter fun c => c.1 / 65536 ≠ f } } else s
  .next (if f = s.sys.zeroAt then s1.modSys fun y => { y with zeroAt := f + 1, zeroing := f + 1 < Config.frames && y.zeroing } else s1)

/-- THE POWER AND THERMAL CLAMPS (R5): over the lower of the fused and the firmware's limits, the die's clock is divided further; under them it is restored step by step. -/
def execPowerClamp (die watts junction : Nat) (s : State) : Out :=
  let hot : Bool := min Config.powerCap s.sys.fwPower < watts || min Config.junctionCap s.sys.fwJunction < junction
  if Config.dies ≤ die then .next s else
  let d := tabGet 1 s.sys.slow die
  .next (s.modSys fun y => { y with slow := tabSet 1 y.slow die (if hot then d + 1 else max 1 (d - 1)) })

namespace State
variable (s : State)

/-- A host access at the home slices, line by line (R124, R140, R379): each line takes its place in the slice, and what has not found one yet is left over. -/
def hostPut : Nat → Nat → List Byte → State → Nat × List Byte × State
  | 0, pa, l, u => (pa, l, u)
  | fuel + 1, pa, l, u =>
    if l = [] then (pa, l, u) else
    let k := min l.length (128 - pa % 128)
    match u.allocLine (pa / 128) with
    | none => (pa, l, u)
    | some v => hostPut fuel (pa + k) (l.drop k) (v.homeStore portCore 0 0 pa k (natOf (l.take k))).2
/-- A host read of the 64-byte line of an address, which sets A of its frame and answers with the line's bytes; nothing while the line has no place in its home slice. -/
def hostGet (pa : Nat) : Option State :=
  (s.allocLine (pa / 128)).map fun t =>
    let u := (t.tally 6).touchFrame pa false
    { u with mem := { u.mem with hostReads := u.mem.hostReads ++ [(pa / 64 * 64, memNat u.mem.dram (pa / 64 * 64) 64)] } }

end State

/-- A CXL.mem ACCESS (R379): untranslated, at the physical address. A line that has no place in its home slice is read or written once it has (R138). -/
def execCxlMemAccess (pa : Nat) (data : Option (List Byte)) (s : State) : Out :=
  if Config.frames * 65536 < pa + (data.getD [0]).length then .next s else
  match data with
  | none => (match s.hostGet pa with
    | some t => .next t
    | none => .next ((s.postOnce (evictWait (pa / 128))).post [.cxlMemAccess pa none]))
  | some l =>
    let r := State.hostPut (l.length + 1) pa l s
    .next (if r.2.1 = [] then r.2.2 else r.2.2.post [.cxlMemAccess r.1 (some r.2.1)])

/-- The selected algorithms (R271): the signature EdDSA Ed448 in the low word, the transcript hash SHA3-512 in the high one. PRESUMED (log 101): bits 11 and 5 of DMTF SPDM 1.3's BaseAsymSel and BaseHashSel. -/
def spdmAlgorithms : BitVec 64 := BitVec.ofNat 64 (2 ^ 11 + 2 ^ 32 * 2 ^ 5)

/-- Words of a list of bytes, and bytes of a list of words. -/
def wordsOf (l : List Nat) : List (BitVec 64) := (Crypto.chunks 8 (l.length + 1) l).map fun c => BitVec.ofNat 64 (Crypto.ofLE c)
def bytesOfWords (l : List (BitVec 64)) : List Nat := l.flatMap fun x => Crypto.toLE x.toNat 8

/-- The device's Ed448 signature of an answer: over the SHA3-512 hash of the transcript, the answers so far and this one's code and content (R271). PRESUMED (log 101): that form of the transcript. -/
def spdmSignature (before : List (Nat × List (BitVec 64))) (code : Nat) (content : List (BitVec 64)) : List (BitVec 64) :=
  wordsOf (Crypto.edSign Config.deviceKey (Crypto.sha3_512 ((before ++ [(code, content)]).flatMap fun e => e.1 :: bytesOfWords e.2)))

/-- AN SPDM REQUEST (R271): measurements are 64-byte bit streams, which the device signs with its Ed448 key, as it signs the answer to a challenge; certificates and nonces are free values. -/
def execSpdmRequest (r : SpdmReq) (arg : Nat) (s : State) : Out :=
  let words (x : BitVec 512) : List (BitVec 64) := (List.range 8).map fun i => x.extractLsb' (64 * i) 64
  let free (k n : Nat) : List (BitVec 64) := (List.range n).map fun i => Config.freeWord (s.ticks + k + i)
  let signed (code : Nat) (l : List (BitVec 64)) : Nat × List (BitVec 64) := (code, l ++ spdmSignature s.sys.spdm code l)
  let answer : Nat × List (BitVec 64) :=
    match r with
    | .getVersion => (0, [0x13])
    | .getCapabilities => (1, free 0 1)
    | .negotiateAlgorithms => (2, [spdmAlgorithms])
    | .getDigests => (3, free 0 8)
    | .getCertificate => (4, free 0 64)
    | .challenge => signed 5 (free 0 12)
    | .getMeasurements => signed 6 ((if arg = 0 then words s.sys.measurement else if arg = 1 then words Config.fuseConfig else if arg = 2 then words s.sys.trainRecord else free 0 8) ++ free 8 4)
  .next { s.modSys (fun y => { y with spdm := y.spdm ++ [answer] }) with ticks := s.ticks + 64 }

/-- A BAD DRAM PAGE IS RETIRED by firmware (R2, R111): no frame takes its place. -/
def execPageRetire (pa : Nat) (s : State) : Out :=
  let f := pa / 65536
  if s.mem.retired.contains f || Config.frames ≤ f then .next s else .next { s with mem := { s.mem with retired := s.mem.retired ++ [f] } }

end Sys2Proof.Machine
end

