-- ==== Sys2Proof/Machine/Select.lean ====
section
/-! DEFINITION. One cycle of the module: its clocks and timers, what the agents and engines find due, and the selection of groups and paths (R5, R10, R11, R21 to R24, R35, R39, R40, R41, R128, R204, R205, R226, R263, R268, R273, R276, R280, R281, R301). -/

namespace Sys2Proof.Machine

/-- The execution class of R24 by which two paths may join: integer, logic, floating, conversion, lane moves, or plain memory. MOV from a handle (slot bit 88) joins none (R355). -/
def joinRow (x : Raw) : Option Nat :=
  let o := x.op.toNat % 256
  match x.op.toNat / 256 with
  | 1 => some 1 | 2 => some 2 | 3 => some 3 | 4 => some 4
  | 5 => if (o = 0x00 && !x.m.getLsbD 23) || o = 0x01 || o = 0x06 || o = 0x07 || o = 0x80 then some 5 else none
  | 7 => if o = 0x00 || o = 0x01 || o = 0x06 then some 6 else none
  | _ => none

/-- Is slot k part of a pair (R62)? -/
def inPair (l : Line) (k : Nat) : Bool := pairAt l k || (1 ≤ k && pairAt l (k - 1))

/-- Would the slot go on with a chain: a single instruction of classes 0x1 to 0x5 that may be a member and names a latch (R64)? -/
def goesOn (l : Line) (k : Nat) : Bool :=
  let r := unpack (slotOf l k)
  let o := r.op.toNat % 256
  let lone : Bool := r.op.toNat / 256 = 5 && 2 ≤ o && o ≤ 5
  !inPair l k && vectorOp r.op && !lone && (r.a.getLsbD 11 || (o < 128 && (r.b.getLsbD 11 || r.c.getLsbD 11)))

/-- Is one list of numbers not after another, position by position? -/
def lexLe : List Nat → List Nat → Bool
  | [], _ => true
  | _, [] => false
  | a :: x, b :: y => a < b || (a = b && lexLe x y)

namespace Group
variable (g : Group)

/-- First and second path (R23): the most populous, then the next; a tie goes to the lower PC. -/
def firstTwo : List (DWord × LaneMask) :=
  (sortBy (fun a b => popMask b.2 < popMask a.2 || (popMask a.2 = popMask b.2 && a.1.toNat ≤ b.1.toNat)) g.paths).take 2

/-- Is a path of the group inside a latch chain (R22, R66)? -/
def inChain : Bool := g.paths.any fun p => (g.openChain p.2).isSome

end Group

namespace State
variable (s : State)

-- clocks and timers ---------------------------------------------------------------------------------------------------

/-- Does the die's clock tick in this cycle (R5)? -/
def dieTicks (d : Nat) : Bool := s.cycle % tabGet 1 s.sys.slow d = 0

/-- Time passes: 1.5 GHz is two thirds of a nanosecond a cycle (R10, R136, R273). DESIGN CHOICE (log 38): event code 1 counts the module's undivided clock. -/
def passTime : State :=
  let s1 : State := State.tally { s with cycle := s.cycle + 1, third := s.third + 2 } 1
  let tick (t : Tab Nat) (d : Nat) : Tab Nat := if s1.dieTicks d then tabSet 0 t d (tabGet 0 t d + 1) else t
  { s1 with sys := { s1.sys with clk := (List.range 8).foldl tick s1.sys.clk } }

/-- Barrier timers of resident teams (R35, R37): a timer counts from the first arrival of the phase. DESIGN CHOICE (log 84): it stands still while the team's grid is held, and counts while the queue is suspended. -/
def barTimers : State :=
  let run (b : Barrier) : Barrier := if b.arrived = 0 then b else { b with timer := b.timer + 1 }
  let live (t : Team) : Bool := !(s.grid t.grid).held
  let one (e : Nat × Team) : Nat × Team := if e.1 < 9216 && live e.2 then (e.1, { e.2 with bars := e.2.bars.map fun b => (b.1, run b.2) }) else e
  let two (e : Nat × Barrier) : Nat × Barrier :=
    if s.teams.any fun t => t.1 < 9216 && live t.2 && (List.range 4).any fun b => s.clusterKey t.1 b = e.1 then (e.1, run e.2) else e
  { s with teams := s.teams.map one, cbars := s.cbars.map two }

/-- Idle counts rise, but for cycles that a trial holds (R40, R276); what issues in the cycle takes the count back to 0. -/
def idleCounts : State :=
  let cores := (s.teams.filter fun e => e.1 < 9216).map fun e => e.1 / 16
  let one (t : State) (c : Nat) : State := if s.trialHeld c || !s.dieTicks (c / 72) then t else t.modCore c fun k => { k with idle := k.idle + 1 }
  (sortBy (fun a b => a ≤ b) cores).eraseDups.foldl one s

/-- Group-cycles spent yield-marked, and held by a trial (R273). -/
def markTallies : State :=
  let l := s.groups.filter fun e => !isAgent e.1 && !switchedOut e.1
  (s.tally 15 (l.filter fun e => e.2.yieldMark).length).tally 32 (l.filter fun e => s.cycle < e.2.trialUntil).length

/-- What is due by the clock, in every table (R39, R125, R128, R204, R205, R225, R226, R197, R210, R260, R268). -/
def dueTimers : List Instr :=
  let when (b : Bool) (i : Instr) : List Instr := if b then [i] else []
  when (s.groups.any fun e => e.2.yieldUntil ≠ 0 && e.2.yieldUntil ≤ s.cycle) .yieldExpiry ++
  when (s.share.owners.any fun e => !e.2.pending && e.2.expiry ≤ s.now) .ownerCacheExpiry ++
  when (s.share.remote.any fun e => e.2.peer ≠ unknownOwner && e.2.peer ≠ s.devid && e.2.stamp ≠ 0 && e.2.stamp + 10000 + 5 * s.fab.slotNs < s.now) .responseTimeout ++
  (s.fab.peers.flatMap fun e => (e.2.sent.filter fun x => x.time + 5 * s.fab.slotNs < s.now).map fun x => Instr.retransmit e.1 x.pkt.cls x.pkt.seq) ++
  ((s.flows.filter fun e => e.2.sender).flatMap fun e =>
    (e.2.queuedAt.filter fun q => q.2 + 16 * s.fab.slotNs < s.now &&
      (tabGet false e.2.inflight q.1 || (List.range e.2.dests.length).any fun i => tabGet false e.2.slotFlight (16 * q.1 + i))).map fun q => Instr.flowTimeout e.1 q.1) ++
  when (s.reasm.any fun e => e.2.stamp + 16 * s.fab.slotNs < s.now) .reassemblyTimeout ++
  when (s.fab.trained && s.fab.epoch ≤ s.now && !s.fab.slotOpen) .slotBoundary ++
  when (s.fab.slotOpen && s.fab.slot ≠ (s.now - s.fab.epoch) / s.fab.slotNs) .slotEnd ++
  -- a cut-through for which the next flit would come too late (R215)
  ((s.fab.ports.filter fun e => e.1 < 64 && e.2.cutting.isSome && s.windowClose e.1 < 64 * (s.now + 1) + flitTime e.2.set).map fun e => Instr.poison e.1) ++
  when (s.cores.any fun e => e.2.preempt.isSome && e.2.haltAt ≤ s.cycle) .coreHalted ++
  when (s.groups.any fun e => isAgent e.1 && (s.core (coreOf e.1)).beat + Config.watchdogCycles ≤ s.cycle) .watchdog ++
  when ((s.freeFrames + s.mem.coldQueue.length) * 1000 < s.mem.watermark * Config.frames) .sweeperStep ++
  when (s.queues.any fun e => e.2.waiting.isSome && e.2.checkAt + 2000 ≤ s.now) .waitRecheck ++
  when (s.cores.any (fun e => e.1 < Config.cores && s.swapDue e.1) && s.someoneWaits) .spinSwap ++
  when s.sys.zeroing (.backgroundZero (65536 * s.sys.zeroAt))

/-- Checkpoints that are due are taken: every interval after the one at launch (R280). One that cannot be taken in its cycle is taken in the next that allows it. -/
def takeCheckpoints : State :=
  let step := 1000 * s.obs.rpcki.toNat
  let due (x : Grid) : Bool := match x.checkpoints.getLast? with | none => true | some c => step ≠ 0 && c.gtime + step ≤ s.now
  (s.grids.filter fun e => due e.2).foldl (fun (t : State) e => if t.checkpoints e.1 then (t.checkpoint? e.1).getD t else t) s

/-- Grids with spilled packets whose queue has room again (R80). -/
def dueSpills : List Instr :=
  (s.grids.filter fun e => match e.2.spill with
    | [] => false
    | (q, _) :: _ => (match s.queue? q with | some x => State.ringFree x ≠ 0 | none => true)).map fun e => Instr.spillMove e.1

/-- A queue's head may be claimed, by the agent of any core (R263). -/
def offerPacket : State :=
  if s.sys.boot ≠ .ready || s.agenda.any fun e => match e with | .packetClaim .. => true | _ => false then s else
  match s.bestQueue with
  | none => s
  | some q => let c := s.choose Config.cores; c.2.post [.packetClaim c.1 q]

/-- Aborted grids lose the teams that have nothing left to perform (R26, R92). -/
def sweepAborted : State :=
  (s.grids.filter fun e => e.2.aborted.isSome).foldl (fun (t : State) e => t.finishAbort e.1) s

/-- What the agents and engines see in this cycle. -/
def lookAround : State :=
  let s1 := s.sampleRow.endQuantum.sweepAborted.wakeOrdw.wakeImages.stallBars.takeCheckpoints.suspendTeams
  let s2 := (s1.dueTimers ++ s1.dueSpills).foldl (fun (t : State) e => t.postOnce e) s1
  let s3 := (s2.grids.filter fun e => e.2.stopping || e.2.halting).foldl (fun (t : State) e => (t.goBack e.1).takeStop e.1) s2
  s3.offerPacket.offerWork.dealAll

-- selection ---------------------------------------------------------------------------------------------------------------

/-- The line that a path would issue from, when the instruction cache holds it. -/
def cachedLine (c asid : Nat) (pc : DWord) : Option Line :=
  match s.peek c asid pc.toNat with
  | .page pa _ _ => (tabFind (s.core c).icache (pa / 64)).map (·.1)
  | .elsewhere _ => (tabFind (s.core c).icache (farKey asid pc.toNat)).map (·.1)
  | _ => none

/-- Does the slot at a PC end a chain that has run up to it (R64)? It does unless it goes on with the chain, or stands in a line that the core cannot read before the path fetches it. -/
def chainEnds (c asid : Nat) (pc : DWord) : Bool :=
  let ends (l : Line) : Bool := match pcSlot pc with | some k => parityMask l ≠ 0 || lineIllegal l || !goesOn l k | none => true
  match s.peek c asid pc.toNat with
  | .page pa e _ => !Pte.x e || (match tabFind (s.core c).icache (pa / 64) with | some l => ends l.1 | none => ends (s.lineAt pa))
  | .elsewhere _ => (match tabFind (s.core c).icache (farKey asid pc.toNat) with | some l => ends l.1 | none => false)
  | .malformed => true
  | .absent .. | .walking => false

/-- A chain commits when its last member completes: when the slot behind it is no member (R64, R66). -/
def closeChain (q : Issue) : State :=
  if ((s.grp q.gk).openChain q.mask).isSome && s.chainEnds (coreOf q.gk) (s.asidOf q.gk) (nextPc q.pc) then s.modGrp q.gk fun g => g.commitChain q.mask else s

/-- May the group be selected now? Outside YIELD's exclusion an agent's group always; a user group when its team is resident and runs, outside a trial's hold and a core's halt (R39, R92, R98, R276). -/
def selectable (gk : Nat) (g : Group) : Bool :=
  g.yieldUntil ≤ s.cycle && (isAgent gk || (!switchedOut gk && (s.core (coreOf gk)).preempt.isNone && g.trialUntil ≤ s.cycle &&
    !(s.team (teamOf gk)).held && !(s.team (teamOf gk)).halted && !(s.grid (s.team (teamOf gk)).grid).held && (s.grid (s.team (teamOf gk)).grid).aborted.isNone))

/-- The order of R22 as numbers: a chain in progress, the yield mark, then the team's priority and age, and the GID. An agent has no team: a free value says whether its priority comes before or after every team's (log 36). -/
def rank (agentFirst : Bool) (gk : Nat) (g : Group) : List Nat :=
  let t := s.team (teamOf gk)
  [if g.inChain then 0 else 1, if g.yieldMark then 1 else 0] ++ (if isAgent gk then [if agentFirst then 0 else 9] else [4 - t.prio, t.age, gidOf gk])

/-- The paths of a group that may issue, as candidates: the two of R23, or in replay mode one in turn (R280). -/
def candidates (gk : Nat) (g : Group) : List Issue :=
  let l := if !isAgent gk && (s.grid (s.team (teamOf gk)).grid).replay then g.inTurn else g.firstTwo
  l.map fun p => { Issue.none with gk, mask := p.2, pc := p.1 }

/-- SELECTION (R22): for every quadrant whose die ticks, its groups in order. A group is ready when a path of it does not stall; the step takes the candidates in turn until one issues. -/
def select : State :=
  let c := s.choose 2
  let u := c.2
  let l := u.groups.filter fun e => u.selectable e.1 e.2 && u.dieTicks (coreOf e.1 / 72)
  let quad (e : Nat × Group) : Nat := 4 * coreOf e.1 + u.quadOf e.1
  let order := sortBy (fun (a b : Nat × List Nat × Nat × Group) => a.1 < b.1 || (a.1 = b.1 && lexLe a.2.1 b.2.1))
    (l.map fun e => (quad e, u.rank (c.1 = 0) e.1 e.2, e.1, e.2))
  { u with issue := order.flatMap fun e => u.candidates e.2.2.1 e.2.2.2 }

end State

/-- ONE CYCLE (R10, R22): time passes, the agents and engines look around, and each quadrant selects. -/
def execGroupSelect (s : State) : Out := .next s.passTime.barTimers.idleCounts.markTallies.lookAround.select

/-- YIELD's exclusion ends (R39); the mark stays. -/
def execYieldExpiry (s : State) : Out :=
  .next { s with groups := s.groups.map fun e => (e.1, if e.2.yieldUntil ≤ s.cycle then { e.2 with yieldUntil := 0 } else e.2) }

/-- A CORE FETCHES A LINE (R47, R49): from this module's memory with the parity check, or from the device that owns its page. `glitch` is a transfer error of the first copy. -/
def execLineFetch (core asid va : Nat) (glitch : BitVec 512) (s : State) : Out :=
  if !canonical va || apertureOf va ≠ .glob then .next (s.fetchTrap core asid va ⟨Cause.nomap, 0, 0, 0⟩) else
  let r := s.translate core asid va
  match r.1 with
  | .malformed => .next (r.2.fetchTrap core asid va ⟨Cause.nomap, 1, 0, 0⟩)
  | .absent .. => .next (r.2.postOnce (.faultService core asid va))
  | .walking => .next (r.2.post [.lineFetch core asid va glitch])
  | .page pa e _ => if Pte.x e then (match r.2.cacheLine core pa glitch with
      | some t => .next t
      | none => .next ((r.2.postOnce (evictWait (pa / 128))).post [.lineFetch core asid va glitch])) else .next (r.2.fetchTrap core asid va ⟨Cause.prot, 0, 4, 0⟩)
  | .elsewhere o =>
    let line := va / 64 * 64
    if (tabFind (r.2.core core).icache (State.farKey asid va)).isSome || r.2.share.remote.any (fun e => e.2.entry = 0 && e.2.lane = core && e.2.pkt.asid = asid && e.2.pkt.va = line) then .next r.2 else
    match r.2.downFor o asid va with
    | some d => .next (r.2.fetchTrap core asid va ⟨Cause.remote, 0, d, 0⟩)
    | none => .next (r.2.remoteIssue o asid line Pk.load [64, 2] 0 core)

end Sys2Proof.Machine
end

