-- ==== Sys2Proof/Machine/Dispatch.lean ====
section
/-! DEFINITION. The meaning of every row of the table of operations: one arm and one call for each. -/

namespace Sys2Proof.Machine

def exec (i : Instr) (s : State) : Host.Outcome State Fault Refusal :=
  match i with
  | .nop x => Sys2Proof.Machine.execNop x s
  | .bra x => Sys2Proof.Machine.execBra x s
  | .brx x => Sys2Proof.Machine.execBrx x s
  | .call x => Sys2Proof.Machine.execCall x s
  | .ret x => Sys2Proof.Machine.execRet x s
  | .exit x => Sys2Proof.Machine.execExit x s
  | .rcv x => Sys2Proof.Machine.execRcv x s
  | .rjoin x => Sys2Proof.Machine.execRjoin x s
  | .brk x => Sys2Proof.Machine.execBrk x s
  | .yield x => Sys2Proof.Machine.execYield x s
  | .trap x => Sys2Proof.Machine.execTrap x s
  | .bkpt x => Sys2Proof.Machine.execBkpt x s
  | .prog x => Sys2Proof.Machine.execProg x s
  | .rtrap x => Sys2Proof.Machine.execRtrap x s
  | .lnch x => Sys2Proof.Machine.execLnch x s
  | .prem x => Sys2Proof.Machine.execPrem x s
  | .iadd x => Sys2Proof.Machine.execIadd x s
  | .iaddI x => Sys2Proof.Machine.execIaddI x s
  | .isub x => Sys2Proof.Machine.execIsub x s
  | .isubI x => Sys2Proof.Machine.execIsubI x s
  | .imul x => Sys2Proof.Machine.execImul x s
  | .imulI x => Sys2Proof.Machine.execImulI x s
  | .imulh x => Sys2Proof.Machine.execImulh x s
  | .imad x => Sys2Proof.Machine.execImad x s
  | .imin x => Sys2Proof.Machine.execImin x s
  | .iminI x => Sys2Proof.Machine.execIminI x s
  | .imax x => Sys2Proof.Machine.execImax x s
  | .imaxI x => Sys2Proof.Machine.execImaxI x s
  | .iabs x => Sys2Proof.Machine.execIabs x s
  | .ineg x => Sys2Proof.Machine.execIneg x s
  | .isetp x => Sys2Proof.Machine.execIsetp x s
  | .isetpI x => Sys2Proof.Machine.execIsetpI x s
  | .lea x => Sys2Proof.Machine.execLea x s
  | .leaI x => Sys2Proof.Machine.execLeaI x s
  | .and x => Sys2Proof.Machine.execAnd x s
  | .andI x => Sys2Proof.Machine.execAndI x s
  | .or x => Sys2Proof.Machine.execOr x s
  | .orI x => Sys2Proof.Machine.execOrI x s
  | .xor x => Sys2Proof.Machine.execXor x s
  | .xorI x => Sys2Proof.Machine.execXorI x s
  | .not x => Sys2Proof.Machine.execNot x s
  | .shl x => Sys2Proof.Machine.execShl x s
  | .shlI x => Sys2Proof.Machine.execShlI x s
  | .shr x => Sys2Proof.Machine.execShr x s
  | .shrI x => Sys2Proof.Machine.execShrI x s
  | .sar x => Sys2Proof.Machine.execSar x s
  | .sarI x => Sys2Proof.Machine.execSarI x s
  | .popc x => Sys2Proof.Machine.execPopc x s
  | .clz x => Sys2Proof.Machine.execClz x s
  | .brev x => Sys2Proof.Machine.execBrev x s
  | .bfx x => Sys2Proof.Machine.execBfx x s
  | .bfi x => Sys2Proof.Machine.execBfi x s
  | .sel x => Sys2Proof.Machine.execSel x s
  | .prmt x => Sys2Proof.Machine.execPrmt x s
  | .fadd x => Sys2Proof.Machine.execFadd x s
  | .faddI x => Sys2Proof.Machine.execFaddI x s
  | .fsub x => Sys2Proof.Machine.execFsub x s
  | .fmul x => Sys2Proof.Machine.execFmul x s
  | .fmulI x => Sys2Proof.Machine.execFmulI x s
  | .ffma x => Sys2Proof.Machine.execFfma x s
  | .ffmaI x => Sys2Proof.Machine.execFfmaI x s
  | .fmin x => Sys2Proof.Machine.execFmin x s
  | .fmax x => Sys2Proof.Machine.execFmax x s
  | .fsetp x => Sys2Proof.Machine.execFsetp x s
  | .fsetpI x => Sys2Proof.Machine.execFsetpI x s
  | .fclass x => Sys2Proof.Machine.execFclass x s
  | .fcvt x => Sys2Proof.Machine.execFcvt x s
  | .frnd x => Sys2Proof.Machine.execFrnd x s
  | .fsqrt x => Sys2Proof.Machine.execFsqrt x s
  | .frcp x => Sys2Proof.Machine.execFrcp x s
  | .frsq x => Sys2Proof.Machine.execFrsq x s
  | .fexp2 x => Sys2Proof.Machine.execFexp2 x s
  | .flog2 x => Sys2Proof.Machine.execFlog2 x s
  | .fsin x => Sys2Proof.Machine.execFsin x s
  | .fcos x => Sys2Proof.Machine.execFcos x s
  | .mov x => Sys2Proof.Machine.execMov x s
  | .movH x => Sys2Proof.Machine.execMovH x s
  | .movi x => Sys2Proof.Machine.execMovi x s
  | .movs x => Sys2Proof.Machine.execMovs x s
  | .sget x => Sys2Proof.Machine.execSget x s
  | .shfl x => Sys2Proof.Machine.execShfl x s
  | .vote x => Sys2Proof.Machine.execVote x s
  | .redux x => Sys2Proof.Machine.execRedux x s
  | .pset x => Sys2Proof.Machine.execPset x s
  | .plop x => Sys2Proof.Machine.execPlop x s
  | .sadd x => Sys2Proof.Machine.execSadd x s
  | .saddI x => Sys2Proof.Machine.execSaddI x s
  | .ssub x => Sys2Proof.Machine.execSsub x s
  | .ssubI x => Sys2Proof.Machine.execSsubI x s
  | .smul x => Sys2Proof.Machine.execSmul x s
  | .smulI x => Sys2Proof.Machine.execSmulI x s
  | .sand x => Sys2Proof.Machine.execSand x s
  | .sandI x => Sys2Proof.Machine.execSandI x s
  | .sor x => Sys2Proof.Machine.execSor x s
  | .sorI x => Sys2Proof.Machine.execSorI x s
  | .sxor x => Sys2Proof.Machine.execSxor x s
  | .sxorI x => Sys2Proof.Machine.execSxorI x s
  | .sshl x => Sys2Proof.Machine.execSshl x s
  | .sshlI x => Sys2Proof.Machine.execSshlI x s
  | .sshr x => Sys2Proof.Machine.execSshr x s
  | .sshrI x => Sys2Proof.Machine.execSshrI x s
  | .smov x => Sys2Proof.Machine.execSmov x s
  | .smovi x => Sys2Proof.Machine.execSmovi x s
  | .ssetp x => Sys2Proof.Machine.execSsetp x s
  | .srd x => Sys2Proof.Machine.execSrd x s
  | .swr x => Sys2Proof.Machine.execSwr x s
  | .clk x => Sys2Proof.Machine.execClk x s
  | .ld x => Sys2Proof.Machine.execLd x s
  | .st x => Sys2Proof.Machine.execSt x s
  | .ldaq x => Sys2Proof.Machine.execLdaq x s
  | .strl x => Sys2Proof.Machine.execStrl x s
  | .ldln x => Sys2Proof.Machine.execLdln x s
  | .stln x => Sys2Proof.Machine.execStln x s
  | .pref x => Sys2Proof.Machine.execPref x s
  | .sld x => Sys2Proof.Machine.execSld x s
  | .sst x => Sys2Proof.Machine.execSst x s
  | .fence x => Sys2Proof.Machine.execFence x s
  | .waitc x => Sys2Proof.Machine.execWaitc x s
  | .aadd x => Sys2Proof.Machine.execAadd x s
  | .amin x => Sys2Proof.Machine.execAmin x s
  | .amax x => Sys2Proof.Machine.execAmax x s
  | .aand x => Sys2Proof.Machine.execAand x s
  | .aor x => Sys2Proof.Machine.execAor x s
  | .axor x => Sys2Proof.Machine.execAxor x s
  | .axch x => Sys2Proof.Machine.execAxch x s
  | .acas x => Sys2Proof.Machine.execAcas x s
  | .afadd x => Sys2Proof.Machine.execAfadd x s
  | .afmin x => Sys2Proof.Machine.execAfmin x s
  | .afmax x => Sys2Proof.Machine.execAfmax x s
  | .bar x => Sys2Proof.Machine.execBar x s
  | .bara x => Sys2Proof.Machine.execBara x s
  | .barw x => Sys2Proof.Machine.execBarw x s
  | .cbar x => Sys2Proof.Machine.execCbar x s
  | .ordw x => Sys2Proof.Machine.execOrdw x s
  | .ords x => Sys2Proof.Machine.execOrds x s
  | .grow x => Sys2Proof.Machine.execGrow x s
  | .qpush x => Sys2Proof.Machine.execQpush x s
  | .cpy x => Sys2Proof.Machine.execCpy x s
  | .cpyh x => Sys2Proof.Machine.execCpyh x s
  | .htst x => Sys2Proof.Machine.execHtst x s
  | .hcan x => Sys2Proof.Machine.execHcan x s
  | .hmov x => Sys2Proof.Machine.execHmov x s
  | .kpackA x => Sys2Proof.Machine.execKpackA x s
  | .kpackB x => Sys2Proof.Machine.execKpackB x s
  | .kpass x => Sys2Proof.Machine.execKpass x s
  | .kwin x => Sys2Proof.Machine.execKwin x s
  | .kext x => Sys2Proof.Machine.execKext x s
  | .kstab x => Sys2Proof.Machine.execKstab x s
  | .fsend x => Sys2Proof.Machine.execFsend x s
  | .ffence x => Sys2Proof.Machine.execFfence x s
  | .fsync x => Sys2Proof.Machine.execFsync x s
  | .pmig x => Sys2Proof.Machine.execPmig x s
  | .lineFetch core asid va glitch => Sys2Proof.Machine.execLineFetch core asid va glitch s
  | .barstall team b clus => Sys2Proof.Machine.execBarstall team b clus s
  | .frontierRetire grid team => Sys2Proof.Machine.execFrontierRetire grid team s
  | .trapTaken gk cause sub mask pc detail addr => Sys2Proof.Machine.execTrapTaken gk cause sub mask pc detail addr s
  | .loadReturn entry => Sys2Proof.Machine.execLoadReturn entry s
  | .storePerformed entry lane => Sys2Proof.Machine.execStorePerformed entry lane s
  | .homeRead core pa row1 => Sys2Proof.Machine.execHomeRead core pa row1 s
  | .homeAtomic entry lane => Sys2Proof.Machine.execHomeAtomic entry lane s
  | .atomicResponse entry => Sys2Proof.Machine.execAtomicResponse entry s
  | .sliceEvictWait slice line => Sys2Proof.Machine.execSliceEvictWait slice line s
  | .operandLogReplay entry => Sys2Proof.Machine.execOperandLogReplay entry s
  | .faultService core asid va => Sys2Proof.Machine.execFaultService core asid va s
  | .tableWalk core asid va => Sys2Proof.Machine.execTableWalk core asid va s
  | .invalidate asid lo hi => Sys2Proof.Machine.execInvalidate asid lo hi s
  | .frameEvict asid va pa peer payload => Sys2Proof.Machine.execFrameEvict asid va pa peer payload s
  | .copyLineWrite op line => Sys2Proof.Machine.execCopyLineWrite op line s
  | .copyComplete op => Sys2Proof.Machine.execCopyComplete op s
  | .ownerCacheQuery asid vpn answer => Sys2Proof.Machine.execOwnerCacheQuery asid vpn answer s
  | .redirect asid vpn owner gen => Sys2Proof.Machine.execRedirect asid vpn owner gen s
  | .pendingDrain asid vpn => Sys2Proof.Machine.execPendingDrain asid vpn s
  | .stubRelay p => Sys2Proof.Machine.execStubRelay p s
  | .stale asid vpn => Sys2Proof.Machine.execStale asid vpn s
  | .migrateGrant asid vpn => Sys2Proof.Machine.execMigrateGrant asid vpn s
  | .migrateCopy asid vpn line => Sys2Proof.Machine.execMigrateCopy asid vpn line s
  | .switchover asid vpn => Sys2Proof.Machine.execSwitchover asid vpn s
  | .install asid vpn => Sys2Proof.Machine.execInstall asid vpn s
  | .done asid vpn => Sys2Proof.Machine.execDone asid vpn s
  | .repoint asid vpn dest => Sys2Proof.Machine.execRepoint asid vpn dest s
  | .abort asid vpn => Sys2Proof.Machine.execAbort asid vpn s
  | .reclaim asid vpn => Sys2Proof.Machine.execReclaim asid vpn s
  | .reclaimOk asid vpn => Sys2Proof.Machine.execReclaimOk asid vpn s
  | .remoteAccess p => Sys2Proof.Machine.execRemoteAccess p s
  | .nackRetry acc => Sys2Proof.Machine.execNackRetry acc s
  | .transportReceive p => Sys2Proof.Machine.execTransportReceive p s
  | .transportAck peer cls seq => Sys2Proof.Machine.execTransportAck peer cls seq s
  | .retransmit peer cls seq => Sys2Proof.Machine.execRetransmit peer cls seq s
  | .slothdr fibre h => Sys2Proof.Machine.execSlothdr fibre h s
  | .flitReceive fibre f => Sys2Proof.Machine.execFlitReceive fibre f s
  | .linkctl fibre seq => Sys2Proof.Machine.execLinkctl fibre seq s
  | .relayForward p => Sys2Proof.Machine.execRelayForward p s
  | .poison fibre => Sys2Proof.Machine.execPoison fibre s
  | .parkWake fibre wake => Sys2Proof.Machine.execParkWake fibre wake s
  | .ringTune port w up => Sys2Proof.Machine.execRingTune port w up s
  | .rekey key ok => Sys2Proof.Machine.execRekey key ok s
  | .keystop peer fibre => Sys2Proof.Machine.execKeystop peer fibre s
  | .linkTraining n slotNs epoch phases ends => Sys2Proof.Machine.execLinkTraining n slotNs epoch phases ends s
  | .healthWrite port w => Sys2Proof.Machine.execHealthWrite port w s
  | .flowBlockSend flow block slot => Sys2Proof.Machine.execFlowBlockSend flow block slot s
  | .flowBlockReceive p => Sys2Proof.Machine.execFlowBlockReceive p s
  | .flowAck flow block slot gen => Sys2Proof.Machine.execFlowAck flow block slot gen s
  | .resyncRequest flow block slot => Sys2Proof.Machine.execResyncRequest flow block slot s
  | .flowTimeout flow block => Sys2Proof.Machine.execFlowTimeout flow block s
  | .multicastAck flow block slot gen => Sys2Proof.Machine.execMulticastAck flow block slot gen s
  | .kick q w => Sys2Proof.Machine.execKick q w s
  | .abortQueue q => Sys2Proof.Machine.execAbortQueue q s
  | .suspend q on => Sys2Proof.Machine.execSuspend q on s
  | .packetClaim core q => Sys2Proof.Machine.execPacketClaim core q s
  | .launch q seq body => Sys2Proof.Machine.execLaunch q seq body s
  | .wait q seq body => Sys2Proof.Machine.execWait q seq body s
  | .set q seq body => Sys2Proof.Machine.execSet q seq body s
  | .migrate q seq body => Sys2Proof.Machine.execMigrate q seq body s
  | .flow q seq body => Sys2Proof.Machine.execFlow q seq body s
  | .packetComplete q seq status errSeq => Sys2Proof.Machine.execPacketComplete q seq status errSeq s
  | .teamTicket core grid => Sys2Proof.Machine.execTeamTicket core grid s
  | .clusterReserve core grid => Sys2Proof.Machine.execClusterReserve core grid s
  | .clusterRetry core grid => Sys2Proof.Machine.execClusterRetry core grid s
  | .spillMove grid => Sys2Proof.Machine.execSpillMove grid s
  | .teamRetire team => Sys2Proof.Machine.execTeamRetire team s
  | .preemptionRequest core => Sys2Proof.Machine.execPreemptionRequest core s
  | .contextSwitch team => Sys2Proof.Machine.execContextSwitch team s
  | .recordComplete rec => Sys2Proof.Machine.execRecordComplete rec s
  | .resume core rec => Sys2Proof.Machine.execResume core rec s
  | .kilnEligible req => Sys2Proof.Machine.execKilnEligible req s
  | .kilnFire chamber => Sys2Proof.Machine.execKilnFire chamber s
  | .kilnOutput req lane => Sys2Proof.Machine.execKilnOutput req lane s
  | .boot magicOk secVersion sigOk image => Sys2Proof.Machine.execBoot magicOk secVersion sigOk image s
  | .warmStart spared => Sys2Proof.Machine.execWarmStart spared s
  | .backgroundZero pa => Sys2Proof.Machine.execBackgroundZero pa s
  | .powerClamp die watts junction => Sys2Proof.Machine.execPowerClamp die watts junction s
  | .cxlMemAccess pa data => Sys2Proof.Machine.execCxlMemAccess pa data s
  | .kernelBoundary grid => Sys2Proof.Machine.execKernelBoundary grid s
  | .geyserEnable v => Sys2Proof.Machine.execGeyserEnable v s
  | .trialEnable v => Sys2Proof.Machine.execTrialEnable v s
  | .replayEnable v => Sys2Proof.Machine.execReplayEnable v s
  | .checkpoint grid => Sys2Proof.Machine.execCheckpoint grid s
  | .journalEntry asid va pa => Sys2Proof.Machine.execJournalEntry asid va pa s
  | .registerWrite blk off v agent => Sys2Proof.Machine.execRegisterWrite blk off v agent s
  | .queueCreate q desc => Sys2Proof.Machine.execQueueCreate q desc s
  | .spdmRequest r arg => Sys2Proof.Machine.execSpdmRequest r arg s
  | .ffenceFlagStore op => Sys2Proof.Machine.execFfenceFlagStore op s
  | .pageRetire pa => Sys2Proof.Machine.execPageRetire pa s
  | .groupSelect => Sys2Proof.Machine.execGroupSelect s
  | .yieldExpiry => Sys2Proof.Machine.execYieldExpiry s
  | .spinSwap => Sys2Proof.Machine.execSpinSwap s
  | .sweeperStep => Sys2Proof.Machine.execSweeperStep s
  | .ownerCacheExpiry => Sys2Proof.Machine.execOwnerCacheExpiry s
  | .keepWaiting => Sys2Proof.Machine.execKeepWaiting s
  | .responseTimeout => Sys2Proof.Machine.execResponseTimeout s
  | .slotBoundary => Sys2Proof.Machine.execSlotBoundary s
  | .slotEnd => Sys2Proof.Machine.execSlotEnd s
  | .reassemblyTimeout => Sys2Proof.Machine.execReassemblyTimeout s
  | .waitRecheck => Sys2Proof.Machine.execWaitRecheck s
  | .coreHalted => Sys2Proof.Machine.execCoreHalted s
  | .watchdog => Sys2Proof.Machine.execWatchdog s
  | .coldStart => Sys2Proof.Machine.execColdStart s
  | .geyserSample => Sys2Proof.Machine.execGeyserSample s
  | .trialQuantum => Sys2Proof.Machine.execTrialQuantum s
  | .stop => Sys2Proof.Machine.execStop s

end Sys2Proof.Machine
end

