-- ==== Sys2Proof/Machine/Run.lean ====
section
/-! DEFINITION. How a path issues its next slot or pair: fetch, the checks of orders 1 to 5 of R69, decoding, the pair's one event, and what the event leaves of the cycle's candidates (R23 to R26, R44 to R49, R52, R62, R63, R66, R69, R276, R280). -/

namespace Sys2Proof.Machine

/-- What a path finds at its PC: a slot to decode, or a trap or wait that has been dealt with. -/
inductive Found where
  | slot (l : Line) (k : Nat) (s : State)
  | out (s : State)

namespace State
variable (s : State)

/-- A trap at the current slot, which is no chain member, so that the path's chain has ended (R64). -/
def slotTrap (cause detail : Nat) (sub : Nat := 0) (addr : DWord := 0) : State :=
  s.endChain.takeTrap { cause, sub, detail, mask := s.cur.mask, addr }

/-- A recoverable fault of the fetch discards the chain in progress (R66); the path waits (R47). -/
def waitFetch (c asid : Nat) (pc : DWord) : State :=
  match s.peek c asid pc.toNat with
  | .absent .. => (s.rollPath s.cur.gk s.cur.mask).stall
  | _ => s.stall

/-- Is this the first issue of a team that a launch started at an entry (R46)? -/
def atLaunch : Bool := !isAgent s.cur.gk && s.cur.pc = s.gr.kernel.entry && s.g.retiredOf (lowLane s.cur.mask) = 0

/-- The target of a direct transfer, whose checks come before those of the slot itself (R69 orders 1 to 3). -/
def directTarget (l : Line) (k : Nat) : Option DWord :=
  let r := unpack (slotOf l k)
  let x : BraArgs := { guard := guardOf r.g, d := 0, slot := r.m.extractLsb' 8 3, off := (slotOf l k).extractLsb' 41 32, depth := 0 }
  if (r.op = 0x001 || r.op = 0x003 || r.op = 0x008) && x.slot.toNat < 5 then some (braTarget s.cur.pc x) else none

/-- The register pair that names the targets of a slot that is BRX or RET, when it can be read: the targets' checks come before those of the slot itself (R69 orders 1 to 3). -/
def targetPair (l : Line) (k : Nat) : Option Nat :=
  let r := unpack (slotOf l k)
  let n := r.a.toNat % 2048
  if (r.op = 0x002 || r.op = 0x004) && n + 2 ≤ s.regLimit then some n else none

/-- Fetch the line of the path's PC and make the checks of orders 1 to 4 (R46 to R49, R69). -/
def findSlot : Found :=
  let c := s.curCore
  let asid := s.tm.asid
  let pc := s.cur.pc
  match pcSlot pc with
  | none => .out (s.slotTrap Cause.badtgt 0 0 pc)
  | some k =>
    match s.fetchLine c asid pc with
    | .miss t => .out (t.waitFetch c asid pc)
    | .trap cause sub detail t => .out (t.slotTrap cause detail sub pc)
    | .line l bad t =>
      if bad then .out (t.slotTrap Cause.linepar (parityMask l))
      else if t.atLaunch && !markedAt l k then .out (t.slotTrap Cause.badtgt 0 0 pc)
      else
        let rest : Found := if lineIllegal l then .out (t.slotTrap Cause.illegal ((unpack (slotOf l k)).op.toNat)) else .slot l k t
        match t.directTarget l k with
        | some a => (match t.checkTarget a with
          | .ok _ => rest
          | .wait u => .out u.stall
          | .trap _ cause detail u => .out (u.slotTrap cause detail 0 a))
        | none => match t.targetPair l k with
          | none => rest
          | some n =>
            if t.hitsPending [(n, 2)] [] then .out t.stall else
            match t.aim (t.trueLanes (guardOf (unpack (slotOf l k)).g)) fun i => t.g.rdPair n i with
            | .ok _ => rest
            | .wait u => .out u.stall
            | .bad c u => .out (u.endChain.takeTrap c)

/-- ILLEGAL at slot k (R68): a slot that would be a chain member rolls its chain back (R66). -/
def illegalAt (l : Line) (k : Nat) : State :=
  let t : Trap := { cause := Cause.illegal, detail := (unpack (slotOf l k)).op.toNat, mask := s.cur.mask }
  if goesOn l k then s.takeTrap t else s.endChain.takeTrap t

/-- Cause of the last trap. -/
def lastCause : Nat := (s.errors.getLast?.map fun e => e.cause).getD 0

/-- The same state with no lane's guard true: what a slot still raises there are the checks of orders 1 to 8 (R53, R69). -/
def guardless : State := { s with cur := { s.cur with pair := some ⟨0, s.g.sr, s.g.p, s.nextLog, []⟩ } }

/-- An instruction whose only fault is a latch select bit on a field without latches: LATCH, after PRIV and REGRANGE; its targets have been checked before (R52, R69). -/
def runLatched (i : Instr) : Out :=
  let latch : Out := .next (s.slotTrap Cause.latch s.loneLatch)
  let early : Out := match exec i s.guardless with
    | .next t => if t.cur.verdict = .trapped then .next { t with cur := { t.cur with pair := s.cur.pair } } else latch
    | r => r
  early

/-- The state in which slot k of a line executes. -/
def atSlot (l : Line) (k : Nat) : State := { s with cur := { s.cur with word := slotOf l k } }

def runDec (l : Line) (k : Nat) : Dec → Out
  | .ok i => exec i (s.atSlot l k)
  | .latched i => (s.atSlot l k).runLatched i
  | .illegal => .next (s.illegalAt l k)

end State

/-- The predicate that an instruction writes, if it does (R62). -/
def predWritten : Instr → Option Nat
  | .ssetp x => some x.d.toNat
  | .isetp x | .fsetp x | .pset x | .plop x => match x.d with | .reg n => some n.toNat | .nw => none
  | .isetpI x | .fsetpI x => match x.d with | .reg n => some n.toNat | .nw => none
  | .vote x => if x.op8.toNat < 3 then (match x.d with | .reg n => some n.toNat | .nw => none) else none
  | _ => none

def decPred : Dec → Option Nat
  | .ok i => predWritten i
  | .latched i => predWritten i
  | .illegal => none

/-- Order of a cause in R69. -/
def causeRank (c : Nat) : Nat :=
  if c = Cause.illegal then 5 else if c = Cause.priv then 6 else if c = Cause.regrange then 7 else if c = Cause.latch then 8 else 9

namespace State
variable (s : State)

def unpair : State := { s with cur := { s.cur with pair := none } }

/-- The pair has issued: its lanes go to the slot after it, and it retires once (R45, R62, R88). -/
def closePair : State :=
  let next := nextPc (nextPc s.cur.pc)
  (s.unpair.modG fun g => g.each s.cur.mask fun h i => h.setPc i next).countRetired

/-- What a pair's SGET reads (R62): the special register by lane, before either slot writes. -/
def sgetBefore (d : Dec) : Tab DWord :=
  match d with
  | .ok (.sget x) => match x.a with | .reg n => (lanesOf s.cur.mask).map fun i => (i, s.sprRead n.toNat i) | .latch _ => []
  | _ => []

/-- Keep with the operand-log entry of a pair's SLD or SST what undoes the vector slot (R62): `t` is the state between the two slots. -/
def keepUndo (q : PairSt) (t : State) : State :=
  let mark (e : Nat × Log) : Nat × Log :=
    if e.2.gk = s.cur.gk && q.nextLog ≤ e.1 then
      (e.1, { e.2 with undoV := (tabDiff 0 t.g.v s.g.v).map (fun x => (x.1, x.2, tabGet 0 s.g.v x.1)), undoP := (tabDiff 0 t.g.p s.g.p).map (fun x => (x.1, x.2, tabGet 0 s.g.p x.1)),
                       undoF := s.g.status &&& ~~~t.g.status, undoL := ((t.g.ringOf s.cur.mask).vals, (s.g.ringOf s.cur.mask).vals) })
    else e
  { s with logs := s.logs.map mark }

/-- A PAIR (R62): one event under the first slot's guard. Both slots are tried on the state before the pair; if one waits the pair waits, and if one traps neither has an effect. DESIGN CHOICE (log 123): when both trap the cause that comes first in R69's order is raised, and of two equal ones the first slot's. -/
def runPair (l : Line) (k : Nat) : Out :=
  let r := unpack (slotOf l k)
  let x := decodeSlot (slotOf l k)
  let y := decodeSlot (slotOf l (k + 1))
  let clash : Bool := match decPred x, decPred y with | some p, some q => p = q && p < 15 | _, _ => false
  if x = .illegal then .next (s.slotTrap Cause.illegal r.op.toNat)
  else if y = .illegal then .next (s.slotTrap Cause.illegal (unpack (slotOf l (k + 1))).op.toNat)
  else if clash then .next (s.slotTrap Cause.illegal r.op.toNat)
  else
    let m := s.trueLanes (guardOf r.g)
    let g := s.endChain.g
    let first := scalarOp r.op
    let q : PairSt := ⟨m, g.sr, g.p, s.nextLog, s.endChain.sgetBefore (if first then y else x)⟩
    let pre := { s.endChain with cur := { s.cur with pair := some q } }
    let scl (u : State) : Out := if first then u.runDec l k x else u.runDec l (k + 1) y
    let vec (u : State) : Out := if first then u.runDec l (k + 1) y else u.runDec l k x
    match scl pre, vec pre with
    | .next t, .next u =>
      if t.cur.verdict = .stalled then .next t.unpair
      else if u.cur.verdict = .stalled then .next u.unpair
      else if t.cur.verdict = .trapped then
        if u.cur.verdict = .trapped && (causeRank u.lastCause < causeRank t.lastCause || (causeRank u.lastCause = causeRank t.lastCause && !first)) then .next u.unpair
        else .next t.unpair
      else if u.cur.verdict = .trapped then .next u.unpair
      else match vec t with
        | .next v => .next (v.keepUndo q t).closePair
        | o => o
    | .next _, o => o
    | o, _ => o

/-- The slot or pair at the path's PC. -/
def runSlot (l : Line) (k : Nat) : Out := if pairAt l k then s.runPair l k else s.runDec l k (decodeSlot (slotOf l k))

/-- ONE PATH ISSUES (R21, R23). -/
def runPath (q : Issue) : Out :=
  match State.findSlot { s with cur := { q with verdict := .stalled, pair := none } } with
  | .out t => .next t
  | .slot l k t => t.runSlot l k

/-- May the slots of two paths issue together (R24)? -/
def joins (a b : Issue) : Bool :=
  let row (q : Issue) : Option Nat :=
    match pcSlot q.pc, s.cachedLine (coreOf q.gk) (s.asidOf q.gk) q.pc with
    | some k, some l => if inPair l k then none else joinRow (unpack (slotOf l k))
    | _, _ => none
  match row a, row b with
  | some x, some y => x = y
  | _, _ => false

/-- Would the path issue rather than wait? -/
def ready (q : Issue) : Bool := match s.runPath q with | .next t => t.cur.verdict ≠ .stalled | _ => true

/-- The candidates that stay when path q of this quadrant has issued: those of other quadrants, and q's partner in a combined event, which is marked as such (R22, R23). -/
def keepIssues (q : Issue) (partner : Option Issue) (l : List Issue) : List Issue :=
  l.filterMap fun e =>
    if partner = some e then some { e with pc2 := q.pc, mask2 := q.mask }
    else if coreOf e.gk = coreOf q.gk && s.quadOf e.gk = s.quadOf q.gk then none else some e

/-- A trial notes a slot outside its range (R276); replay notes the path (R280); the agent has shown life (R268). -/
def noteIssue (q : Issue) : State :=
  if isAgent q.gk then s.modCore (coreOf q.gk) fun k => { k with beat := s.cycle }
  else
    let away (pc : DWord) : Bool := pc.toNat < s.obs.trlo.toNat || s.obs.trhi.toNat ≤ pc.toNat
    let pair : Bool := match pcSlot q.pc, s.cachedLine (coreOf q.gk) (s.asidOf q.gk) q.pc with | some k, some l => pairAt l k | _, _ => false
    let out : Bool := s.trialOn q.gk && (away q.pc || (pair && away (nextPc q.pc)))
    if (tabFind s.groups q.gk).isNone then s else s.modGrp q.gk fun g => { g with rot := lowLane q.mask + 1, trialOut := g.trialOut || out }

/-- What an issue event leaves (R22, R23, R273). -/
def afterIssue (q : Issue) (second : Bool) (partner : Option Issue) : State :=
  if s.cur.verdict = .stalled then s else
  let s1 := if second then s else (s.tally 2).tally 4 (if partner.isSome then 1 else 0)
  let s2 := { s1 with issue := s1.keepIssues q partner s1.issue }
  if s2.cur.verdict = .done then (s2.closeChain q).noteIssue q else s2

/-- THE NEXT CANDIDATE of the cycle is tried (R22 to R24, R26): rings are settled (R63) but between the two paths of one event. -/
def tryPath (q : Issue) (rest : List Issue) : Out :=
  let s0 := { s with issue := rest }
  let m := q.mask &&& (s.grp q.gk).pathAt q.pc
  let second : Bool := q.mask2 ≠ 0
  -- a trap of this cycle has stopped the other groups of its grid (R92); the other path of a combined event completes (R26)
  if m = 0 || (!second && !s.selectable q.gk (s.grp q.gk)) then .next s0 else
  let s1 := if second then s0 else s0.modGrp q.gk Group.settle
  -- in replay mode a group issues one path per event (R280)
  let partner := if second || (!isAgent q.gk && (s1.grid (s1.team (teamOf q.gk)).grid).replay) then none else
    match rest with
    | b :: _ => if b.gk = q.gk && s1.joins q b && s1.ready b then some b else none
    | [] => none
  let q1 := { q with mask := m, pc2 := if second then q.pc2 else (partner.map Issue.pc).getD 0, mask2 := if second then q.mask2 else (partner.map Issue.mask).getD 0 }
  match s1.runPath q1 with
  | .next t => .next (t.afterIssue q1 second partner)
  | o => o

/-- Of the writes to registers that are pending, the one that came first is taken first. -/
def inOrder (i : Nat) : Nat :=
  match s.agenda[i]? with
  | some (.registerWrite ..) => s.agenda.findIdx fun e => match e with | .registerWrite .. => true | _ => false
  | _ => i

/-- WHAT COMES NEXT when no candidate is left: a pending happening or the next cycle, by a free choice. -/
def nextEvent : Instr × State :=
  let c := s.choose (s.agenda.length + 1)
  let i := s.inOrder c.1
  match s.agenda[i]? with
  | some e => (e, { c.2 with agenda := s.agenda.eraseIdx i })
  | none => (.groupSelect, c.2)

end State

/-- ONE STEP of the module. -/
def stepOf (s : State) : Out :=
  match s.issue with
  | q :: rest => s.tryPath q rest
  | [] => exec s.nextEvent.1 s.nextEvent.2

/-- Where `placed` puts the line: the virtual and the physical address; the leaf 0x2003B maps one to the other for reading, writing and execution (R116). -/
def placeVa : Nat := 65536
def placePa : Nat := 131072

/-- A line whose first slot is marked and holds the word, with its parity. -/
def placeLine (w : Nat) : Line := withParity (BitVec.ofNat 512 (1 + 2 ^ 32 * (w % 2 ^ 96)))

/-- A RUN FROM A GIVEN WORD: one group of one team stands on core 0 before a line that holds the word, its page is mapped and its line cached, and it has been selected. It stands for a launch from outside (log 13). -/
def placed (s : State) (nbits w : Nat) : State :=
  let l := placeLine (w % 2 ^ nbits)
  let pc := BitVec.ofNat 64 (placeVa + 4)
  let g : Group := { Group.empty with pc := (List.range 32).map fun i => (i, pc) }
  let k : Kernel := { Kernel.empty with entry := pc, regs := 2048, depth := 16 }
  let x : Grid := { Grid.empty with kernel := k, nx := 1, ny := 1, nz := 1, count := 1, next := 1, groups := 1, bartmo := Config.barTimeout, spinth := Config.spinThreshold }
  let t : Team := { Team.empty with grid := 1, groups := 1, regs := 2048, depth := 16, bartmo := Config.barTimeout }
  let leaf : TlbEntry := { asid := 0, base := placeVa, size := 65536, entry := 0x2003B }
  let s1 := { s with groups := tabPut s.groups 0 g, teams := tabPut s.teams 0 t, grids := tabPut s.grids 1 x, nextGrid := max s.nextGrid 2,
                     issue := [{ Issue.none with gk := 0, mask := BitVec.allOnes 32, pc }], mem := { s.mem with dram := memPut s.mem.dram placePa l.toNat 64 } }
  s1.modCore 0 fun c => { c with tlb := leaf :: c.tlb, icache := tabPut c.icache (placePa / 64) (l, false) }

end Sys2Proof.Machine
end

