-- ==== Sys2Proof/Machine/Step.lean ====
section
/-! DEFINITION. One step of the module, and the placing of one word before it. -/

namespace Sys2Proof.Machine

/-- One step: the next candidate of the cycle, or a pending happening, or the next cycle. -/
def step : State → Host.Outcome State Fault Refusal := stepOf

/-- A state in which a group has been selected before a line whose first slot is the word. -/
def State.withFetchWord (s : State) (nbits w : Nat) : State := placed s nbits w

end Sys2Proof.Machine
end

