-- ==== Sys2Proof/Safety.lean ====
section
/-! DEFINITION. The terms in which claims about the module are made: what a slot needs to issue, what an issued slot leaves alone, and the invariants of a run. -/

namespace Sys2Proof.Machine

/-- The four memories are in their canonical form. -/
def MemOk (s : State) : Prop := Memory.wf s.mem.dram ∧ Memory.wf s.mem.vault ∧ Memory.wf s.mem.scratch ∧ Memory.wf s.mem.host

/-- States that steps lead to. -/
inductive Reaches : State → State → Prop where
  | refl (s : State) : Reaches s s
  | step {s t u : State} : step s = .next t → Reaches t u → Reaches s u

/-- A safe run stops for no fault and no refusal. -/
def Safe (s : State) : Prop := ∀ t, Reaches s t → ∃ u, step t = .next u

/-- A slot may issue: none of the registers it names is pending (R96) or beyond the allocation (R28, R51). -/
def State.Ready (s : State) (vr sr : List Run) : Prop := s.hitsPending vr sr = false ∧ s.rangeTrap vr = none

/-- What the issue of a slot changes beside its own effect: RETIRED, the core's idle count, the team's last issue, Geyser's counts, and the instructions counted after each logged one (R39, R40, R88, R93, R273). All else outside the issuing group stays. -/
structure State.Beside (s t : State) : Prop where
  rest : t = { s with cur := t.cur, groups := t.groups, teams := t.teams, cores := t.cores, obs := t.obs, logs := t.logs }
  cur : t.cur = { s.cur with verdict := .done }
  groups : ∀ k, k ≠ s.cur.gk → t.grp k = s.grp k
  teams : ∀ k, { t.team k with lastWork := 0 } = { s.team k with lastWork := 0 }
  cores : ∀ c, { t.core c with idle := 0 } = { s.core c with idle := 0 }
  obs : { t.obs with counts := [] } = { s.obs with counts := [] }
  logs : t.logs.map (fun e => (e.1, { e.2 with after := 0 })) = s.logs.map (fun e => (e.1, { e.2 with after := 0 }))

/-- The path's lanes stand at the next slot and have retired it, unless it is a slot of a pair, which retires as one; other lanes stay (R45, R62, R88). -/
def State.Advanced (s t : State) : Prop :=
  (∀ i, t.g.pcOf i = if s.cur.mask.getLsbD i then nextPc s.cur.pc else s.g.pcOf i) ∧
  ∀ i, t.g.retiredOf i = s.g.retiredOf i + (if s.cur.mask.getLsbD i && s.cur.pair.isNone then 1 else 0)

/-- STATUS with the flags of the path's chain in progress (R66, R89). -/
def State.flags (s : State) : DWord := (s.g.commitChain s.cur.mask).status

/-- What a vector-class instruction names: its guard, its destination, its registers, its latches, and whether it may be a chain member. -/
structure VForm where
  guard : Guard
  kind : DKind
  dst : Dst
  vr : List Run
  sr : List Run
  latches : List Nat
  member : Bool
  deriving DecidableEq, Repr

/-- The slot issues: besides `Ready`, its latches hold a value of the chain (R64, R65). -/
def State.VReady (s : State) (x : VForm) : Prop := s.Ready x.vr x.sr ∧ s.latchTrap x.member x.latches = none

/-- The lanes of the issuing path that a slot acts on: those whose guard is true (R53). -/
def State.active (s : State) (x : Guard) : LaneMask := s.cur.mask &&& s.trueLanes x

/-- The state with what the results of a vector-class slot make beyond undoing: with a late trap of an older pair, neither a value nor a flag that a younger slot wrote is undone (R62). -/
def State.outdone (s : State) (x : VForm) (out : Nat → LaneOut) : State :=
  s.outdoes x.kind x.dst (s.trueLanes x.guard) ((lanesOf (s.active x.guard)).foldl (fun a i => a ||| (out i).2) 0)

/-- A lane's destination holds a value (R51, R52, R57). -/
def Group.holds (g : Group) (k : DKind) (d : Dst) (i : Nat) (x : DWord) : Prop :=
  match d with
  | .nw => True
  | .reg n => match k with
    | .word => g.rdV n.toNat i = x.setWidth 32
    | .pair => g.rdPair n.toNat i = x
    | .pred => n.toNat < 15 → g.rdP n.toNat i = x.getLsbD 0

/-- Is vector register r one that the destination names? -/
def VForm.namesV (x : VForm) (r : Nat) : Prop :=
  match x.dst with
  | .nw => False
  | .reg n => match x.kind with
    | .word => r = n.toNat
    | .pair => r = n.toNat ∨ r = n.toNat + 1
    | .pred => False
/-- Is predicate r one that the destination names? pt is not written (R51). -/
def VForm.namesP (x : VForm) (r : Nat) : Prop :=
  match x.dst with
  | .nw => False
  | .reg n => x.kind = .pred ∧ r = n.toNat ∧ r ≠ 15

/-- A VECTOR-CLASS SLOT HAS ISSUED with these results by lane: each lane whose guard is true holds its result; the results enter l0 and the older latches move on; the results' flags join STATUS when the chain commits; every other register, predicate and piece of state stays (R53, R62 to R66). -/
structure State.VDone (s t : State) (x : VForm) (out : Nat → LaneOut) : Prop where
  beside : (s.outdone x out).Beside t
  advanced : s.Advanced t
  result : ∀ i, (s.active x.guard).getLsbD i → t.g.holds x.kind x.dst i (out i).1
  vectors : ∀ r i, i < 32 → ¬ (x.namesV r ∧ (s.active x.guard).getLsbD i) → t.g.rdV r i = s.g.rdV r i
  preds : ∀ r i, ¬ (x.namesP r ∧ (s.active x.guard).getLsbD i) → t.g.rdP r i = s.g.rdP r i
  group : t.g = { s.g with v := t.g.v, p := t.g.p, pc := t.g.pc, rings := t.g.rings, status := t.g.status, retired := t.g.retired }
  latch : ∀ i, s.cur.mask.getLsbD i → t.g.rdLatch s.cur.mask 0 i = if (s.active x.guard).getLsbD i then State.latched x.kind (out i).1 else 0
  older : ∀ k i, k < 3 → i < 32 → t.g.rdLatch s.cur.mask (k + 1) i = s.g.rdLatch s.cur.mask k i
  status : t.flags = (lanesOf (s.active x.guard)).foldl (fun f i => f ||| (out i).2) s.flags

end Sys2Proof.Machine

namespace Sys2Proof
open Sys2Proof.Machine

/-- What a register form of the layout names. -/
def VSpec.form (p : VSpec) (x : VArgs) (k : DKind) (member : Bool) : VForm :=
  ⟨x.guard, k, x.d, p.runs x, [], latchNo x.a ++ latchNo x.b ++ latchNo x.c, member⟩
/-- The same of an I-form. -/
def VSpec.formI (p : VSpec) (x : VImm) (k : DKind) : VForm := ⟨x.guard, k, x.d, p.runsI x, [], latchNo x.a, true⟩

end Sys2Proof

namespace Sys2Proof.Machine

/-- From this state the instruction completes with these results, whenever its slot may issue. -/
def State.Results (s : State) (i : Instr) (x : VForm) (out : Nat → LaneOut) : Prop := s.VReady x → ∃ t, exec i s = .next t ∧ s.VDone t x out

/-- A SLOT WITHOUT A DESTINATION IN THE VECTOR FILE HAS ISSUED: of its group only what `change` says has changed (R45, R64, R88). -/
structure State.Done (s t : State) (change : Group → Group) : Prop where
  beside : s.Beside t
  advanced : s.Advanced t
  group : t.g = { change (s.g.commitChain s.cur.mask) with pc := t.g.pc, retired := t.g.retired, yieldMark := t.g.yieldMark }

/-- The slot is no part of a pair, and the issuing lanes are runnable and stand at the path's PC (R21). -/
def State.OnPath (s : State) : Prop := s.cur.pair = none ∧ ∀ i, s.cur.mask.getLsbD i → s.g.waitOf i = .run ∧ s.g.pcOf i = s.cur.pc

/-- A TRANSFER HAS ISSUED: lane i of the path stands at `target i`, and of the group only what `change` says has changed beside (R45, R299, R300). -/
structure State.Went (s t : State) (target : Nat → DWord) (change : Group → Group) : Prop where
  beside : s.Beside t
  pcs : ∀ i, t.g.pcOf i = if s.cur.mask.getLsbD i then target i else s.g.pcOf i
  retired : ∀ i, t.g.retiredOf i = s.g.retiredOf i + (if s.cur.mask.getLsbD i && s.cur.pair.isNone then 1 else 0)
  group : t.g = { change (s.g.commitChain s.cur.mask) with pc := t.g.pc, retired := t.g.retired, yieldMark := t.g.yieldMark }

/-- A MEMORY INSTRUCTION HAS ISSUED INTO THE OPERAND LOG: its entry stands there under the next number, the events that will perform it are due, and the path goes on at the next slot, or parks; no register, byte of memory or older entry has changed (R94, R107). -/
structure State.Logged (s t : State) (e : Log) (events : List Instr) : Prop where
  rest : t = { s with cur := t.cur, groups := t.groups, teams := t.teams, cores := t.cores, obs := t.obs, logs := t.logs, nextLog := t.nextLog, agenda := t.agenda }
  cur : t.cur = { s.cur with verdict := .done }
  others : ∀ k, k ≠ s.cur.gk → t.grp k = s.grp k
  entry : tabFind t.logs s.nextLog = some e
  older : ∀ k, k ≠ s.nextLog → (tabFind t.logs k).map (fun x => { x with after := 0 }) = (tabFind s.logs k).map fun x => { x with after := 0 }
  next : t.nextLog = s.nextLog + 1
  due : t.agenda = s.agenda ++ events
  advanced : s.Advanced t
  waits : ∀ i, t.g.waitOf i = if e.parked && s.cur.mask.getLsbD i then .parked s.nextLog else s.g.waitOf i
  group : t.g = { s.g.commitChain s.cur.mask with pc := t.g.pc, retired := t.g.retired, yieldMark := t.g.yieldMark, wait := t.g.wait }

/-- Lane i of the path waits at the RJOIN that issues: its guard is true, and the slot is its innermost entry's reconvergence PC (R29). -/
def State.waitsHere (s : State) (x : Guard) (i : Nat) : Prop :=
  (s.trueLanes x).getLsbD i = true ∧ s.g.innerOf i ≠ 0 ∧ (s.g.rdEntry s.tm.regs s.tm.depth (s.g.innerOf i - 1)).pc = rcvBits s.codeBase s.cur.pc
/-- Every expected lane of entry e is there once this RJOIN has issued (R29). -/
def State.completes (s : State) (x : Guard) (e : Nat) : Prop :=
  e < s.tm.depth ∧ (s.g.rdEntry s.tm.regs s.tm.depth e).expected ≠ 0 ∧
  ∀ i, (s.g.rdEntry s.tm.regs s.tm.depth e).expected.getLsbD i → (s.waitsHere x i ∧ s.g.innerOf i = e + 1) ∨ (¬ s.waitsHere x i ∧ s.g.waitOf i = .rjoin e)
/-- The innermost entry, plus one, that release of entry e leaves to its lanes. -/
def State.parentOf (s : State) (e : Nat) : Nat :=
  let p := (s.g.rdEntry s.tm.regs s.tm.depth e).parent
  if p = 127 then 0 else p + 1

/-- A memory instruction passes the checks of its issue and finds room in its quadrant's operand log (R94, R280, R342): `acc` are the lanes that make an access, at `a`, of w bytes. -/
def State.MayLog (s : State) (t acc : LaneMask) (a : Nat → Nat) (w : Nat) (write : Bool) : Prop :=
  t ≠ 0 ∧ s.issueChecks s.cur.gk acc a w write = none ∧ s.replayBad acc a = 0 ∧ s.logFull s.cur.gk = false

/-- What its entry holds beside its kind, data and destination (R94). -/
def State.logOf (s : State) (t acc : LaneMask) (a : Nat → Nat) (w : Nat) (e : Log) : Log :=
  { e with gk := s.cur.gk, pc := s.cur.pc, slot := s.cur.word, mask := s.cur.mask, lanes := t, width := w, addr := (lanesOf acc).map fun i => (i, a i), parked := s.parks acc a w, cycle := s.cycle }

/-- The lowest true-guard lane alone, which makes the one access of a scalar or line instruction (R346, R349). -/
def State.oneLane (s : State) (x : Guard) : LaneMask := maskOf fun i => (s.trueLanes x).getLsbD i && i = lowLane (s.trueLanes x)

/-- AN INSTRUCTION HAS STARTED n ENGINE OPERATIONS as one issue event of counter c (R90, R91): they stand under the next tags, older operations, registers and all bytes of memory are as before, and the path has gone on. -/
structure State.Started (s t : State) (n c : Nat) : Prop where
  advanced : s.Advanced t
  cur : t.cur = { s.cur with verdict := .done }
  next : t.nextOp = s.nextOp + n
  older : ∀ k, k < s.nextOp → t.op k = s.op k
  counter : t.g.ctrOf c = ((s.g.ctrOf c).dropWhile fun m => s.markDone m) ++ [s.nextOp]
  group : t.g = { s.g.commitChain s.cur.mask with pc := t.g.pc, retired := t.g.retired, yieldMark := t.g.yieldMark, h := t.g.h, told := t.g.told, ctr := t.g.ctr, storeP := t.g.storeP, farP := t.g.farP }
  others : ∀ k, k ≠ s.cur.gk → t.grp k = s.grp k
  bytes : t.mem.dram = s.mem.dram ∧ t.mem.scratch = s.mem.scratch ∧ t.mem.vault = s.mem.vault ∧ t.mem.host = s.mem.host

/-- A LINE OF A COPY IS DONE: memory is as its write left it (v), the line is present, and the copy has one line less and the write's performed time; with the last line its completion is due (R107, R113). -/
structure State.LineWritten (s v t : State) (op line p : Nat) : Prop where
  bytes : t.mem.dram = v.mem.dram ∧ t.mem.scratch = v.mem.scratch ∧ t.mem.vault = v.mem.vault ∧ t.mem.host = v.mem.host
  present : ∀ q, s.placeOf (s.op op).gk (s.op op).lane (128 * line) 1 = some (.scratch q) → s.superseded op (s.op op) line = false → tabGet false t.mem.absent (q / 128) = false
  left : (t.op op).todo = (s.op op).todo.filter (· ≠ line)
  perf : (t.op op).perf = max (s.op op).perf p
  last : (t.op op).todo = [] → .copyComplete op ∈ t.agenda

/-- Reading handle n goes through in the lanes of a mask: no operation pends and no failure is unreported (R90). -/
def State.HandleFree (s : State) (m : LaneMask) (n : Nat) : Prop := s.pendingLanes m n = 0 ∧ s.failedLanes m n = 0

/-- A packet of this operation and body is on its way to a device in the ordered class; a packet to the module itself is due to arrive (R200, R203). -/
def State.Sends (t : State) (d op asid va : Nat) (body : List Nat) : Prop :=
  ∃ p : Pkt, p.src = t.devid ∧ p.dst = d ∧ p.cls = 0 ∧ p.op = op ∧ p.asid = asid ∧ p.va = va ∧ p.body = body ∧
    (if d = t.devid then .transportReceive p ∈ t.agenda else p ∈ (t.peer d).ordered)

/-- Of memory only a flow's mirror region and generation table have changed (R221). -/
def State.MirrorOnly (s t : State) (f : Flow) : Prop :=
  t.mem = { s.mem with dram := t.mem.dram } ∧ ∀ a, ¬ (f.mirror ≤ a ∧ a < f.mirror + mirrorSize f) → ¬ (f.table ≤ a ∧ a < f.table + tableSize f) →
    memNat t.mem.dram a 1 = memNat s.mem.dram a 1

/-- Of memory only the flows' mirror regions and generation tables have changed (R221). -/
def State.MirrorsOnly (s t : State) : Prop :=
  t.mem = { s.mem with dram := t.mem.dram } ∧ ∀ a, (∀ e ∈ s.flows, ¬ (e.2.mirror ≤ a ∧ a < e.2.mirror + mirrorSize e.2) ∧ ¬ (e.2.table ≤ a ∧ a < e.2.table + tableSize e.2)) →
    memNat t.mem.dram a 1 = memNat s.mem.dram a 1

/-- Nothing of this module waits for or moves to another device: no access, page, migration or engine operation is under way. -/
def State.Unshared (s : State) : Prop :=
  s.share.remote = [] ∧ s.share.owners = [] ∧ s.share.dir = [] ∧ s.share.migs = [] ∧ s.ops = [] ∧ s.mem.away = [] ∧ s.mem.evicting = []

/-- An error record has been written, and these are its fields (R93). -/
def State.Recorded (s t : State) (gk cause sub detail : Nat) (mask : LaneMask) (pc : DWord) : Prop :=
  ∃ e : ErrRec, t.errors = s.errors ++ [e] ∧ e.seq = s.errSeq + 1 ∧ e.gk = gk ∧ e.cause = cause ∧ e.sub = sub ∧ e.detail = detail ∧ e.causeMask = mask ∧ e.pc = pc

/-- An agent's slot has answered with a result code in scalar n, and its path has gone on (R351). -/
structure State.Answers (s t : State) (n : Nat) (code : DWord) (a : Action) : Prop where
  result : t.g.rdS n = code
  advanced : s.Advanced t
  scalars : ∀ k, k ≠ n → t.g.rdS k = s.g.rdS k
  logged : t.sys.actions = s.sys.actions ++ [(s.sys.actions.length + 1, a.code)]

end Sys2Proof.Machine
end

