-- ==== Sys2Proof/Certificates/Slice0/Obligations.lean ====
section
/-! DEFINITION. The statements about the module, each a proposition for the provers. -/

open Sys2Proof Sys2Proof.Machine

/-- Words of the spec's encodings, read bit by bit, decode to the instructions they stand for (R54, R60, R334, R350, R356). -/
def Obligations.DecodeWords : Prop :=
  decodeSlot (BitVec.ofNat 96 0x00200400000012002002F189) =
    .ok (.isetpI ⟨⟨false, 15⟩, .reg 1, .reg 1, 9, .s32, .rne, false, false, false, false, false, .lt, 0⟩) ∧
  decodeSlot (BitVec.ofNat 96 0x0300040000001400400CF10A) =
    .ok (.lea ⟨⟨false, 15⟩, .reg 6, .reg 2, .reg 10, .reg 0, .s32, .rne, false, false, false, false, false, .eq, 3⟩) ∧
  decodeSlot (BitVec.ofNat 96 0x00000000000000000000F000) = .ok (.nop ⟨⟨false, 15⟩⟩) ∧
  decodeSlot (BitVec.ofNat 96 0x00000000000000000000F005) = .ok (.exit ⟨⟨false, 15⟩⟩) ∧
  decodeSlot (BitVec.ofNat 96 0x00000000000000000000FD00) = .illegal

/-- Every well-formed instruction form has a slot, and the slot decodes to it with every operand (R50 to R61, R67). -/
def Obligations.RoundTrip : Prop :=
  ∀ i : Instr, i.wf = true → i.encoded = true → ∃ w, encode i = some w ∧ decodeSlot w = .ok i

/-- What the decoder accepts is well-formed, and no bit of the slot is ignored: the encoder gives the slot back, no two slots decode alike, and the events of the table have no slot; a slot whose class is not in the opcode map is ILLEGAL (R50, R52, R67, R68). -/
def Obligations.DecodeSound : Prop :=
  (∀ (w : SlotWord) (i : Instr), decodeSlot w = .ok i → i.wf = true ∧ encode i = some w) ∧
  (∀ w : SlotWord, 13 ≤ (w.extractLsb' 0 12).toNat / 256 → decodeSlot w = .illegal) ∧
  (∀ (u w : SlotWord) (i : Instr), decodeSlot u = .ok i → decodeSlot w = .ok i → u = w) ∧
  ∀ (w : SlotWord) (i : Instr), i.encoded = false → decodeSlot w ≠ .ok i

/-- The path that comes next in the cycle, unless the next candidate is a path of its group that issues with it, issues the instruction that the single slot at its PC decodes to, on the state that the fetch leaves with the slot's word before it, while the cycle's other candidates wait; what the issue leaves of them is `afterIssue`'s: those of other quadrants. A candidate whose lanes have all moved away, or whose group may no longer be selected, is passed over; with no candidate left a due happening or the next cycle comes (R22, R23, R44 to R49, R92). -/
def Obligations.StepRunsDecoded : Prop :=
  (∀ (s t : State) (q : Issue) (rest : List Issue) (l : Line) (k : Nat) (i : Instr),
    s.issue = q :: rest → q.mask2 = 0 →
    (∀ b, rest.head? = some b → b.gk ≠ q.gk ∨ (({ s with issue := rest } : State).modGrp q.gk Group.settle).joins q b = false) → q.mask &&& (s.grp q.gk).pathAt q.pc ≠ 0 → s.selectable q.gk (s.grp q.gk) = true →
    State.findSlot { (({ s with issue := rest } : State).modGrp q.gk Group.settle) with
      cur := { q with mask := q.mask &&& (s.grp q.gk).pathAt q.pc, pc2 := 0, mask2 := 0, verdict := .stalled, pair := none } } = .slot l k t →
    pairAt l k = false → decodeSlot (slotOf l k) = .ok i →
    step s = match exec i (t.atSlot l k) with
      | .next u => .next (u.afterIssue { q with mask := q.mask &&& (s.grp q.gk).pathAt q.pc, pc2 := 0, mask2 := 0 } false none)
      | o => o) ∧
  (∀ (s : State) (q : Issue) (rest : List Issue), s.issue = q :: rest → q.mask &&& (s.grp q.gk).pathAt q.pc = 0 ∨ q.mask2 = 0 ∧ s.selectable q.gk (s.grp q.gk) = false →
    step s = .next { s with issue := rest }) ∧
  ∀ s : State, s.issue = [] → step s = exec s.nextEvent.1 s.nextEvent.2

/-- Reset: memory lists nothing and is canonical, every DRAM byte reads zero, and no group or team is resident (R14, R101, R269). It rests on choices of the model: logs 1 and 2. -/
def Obligations.ResetMemory : Prop := MemOk State.reset ∧ State.reset.groups = [] ∧ State.reset.teams = [] ∧ ∀ a n, memNat State.reset.mem.dram a n = 0

/-- Every step keeps the four memories in their canonical form. It rests on choices of the model: log 2. -/
def Obligations.StepKeepsMemory : Prop := ∀ s t : State, MemOk s → step s = .next t → MemOk t

/-- The integer arithmetic of R332: each true-guard lane's D takes the exact result under the write-back of R333; an I-form's B is sx(imm, 32) (R54, R332, R333). -/
def Obligations.IntegerResults : Prop :=
  (∀ e ∈ ([(.iadd, .intArith, fun _ a b _ => a + b), (.isub, .intArith, fun _ a b _ => a - b), (.imul, .intArith, fun _ a b _ => a * b),
      (.imulh, .intNoSat, fun x a b _ => a * b / (2 ^ x.ty.bits : Nat)), (.imad, .intMad, fun _ a b c => a * b + c),
      (.imin, .intNoSat, fun _ a b _ => if a < b then a else b), (.imax, .intNoSat, fun _ a b _ => if a < b then b else a),
      (.iabs, .intUnary, fun _ a _ _ => if a < 0 then -a else a), (.ineg, .intUnary, fun _ a _ _ => -a)]
      : List ((VArgs → Instr) × VSpec × (VArgs → Int → Int → Int → Int))),
    ∀ (x : VArgs) (s : State), s.Results (e.1 x) (e.2.1.form x (.ofTy x.ty) true) fun i =>
      intOut x.ty x.sat (e.2.2 x (intArgs s x i).1 (intArgs s x i).2.1 (intArgs s x i).2.2)) ∧
  ∀ e ∈ ([(.iaddI, .intArith, fun a b => a + b), (.isubI, .intArith, fun a b => a - b), (.imulI, .intArith, fun a b => a * b),
      (.iminI, .intNoSat, fun a b => if a < b then a else b), (.imaxI, .intNoSat, fun a b => if a < b then b else a)]
      : List ((VImm → Instr) × VSpec × (Int → Int → Int))),
    ∀ (x : VImm) (s : State), s.Results (e.1 x) (e.2.1.formI x (.ofTy x.ty)) fun i =>
      intOut x.ty x.sat (e.2.2 (intArgsI s x i).1 (intArgsI s x i).2)

/-- The write-back of R333: with Saturate the result is clamped to the type's range and ISAT is set exactly when it changed; without, it is the number modulo 2^n. An 8- or 16-bit result is extended to 32 bits (R57). -/
def Obligations.IntegerWriteBack : Prop :=
  ∀ (ty : Ty) (z : Int), ty ∈ Ty.ints →
    (intOut ty false z).2 = 0 ∧ (intOut ty false z).1 = putInt ty z ∧
    ((intOut ty true z).2 = 0 ∨ (intOut ty true z).2 = Flag.isat) ∧
    ((intOut ty true z).2 = 0 ↔ intLo ty ≤ z ∧ z ≤ intHi ty) ∧
    (z < intLo ty → (intOut ty true z).1 = putInt ty (intLo ty)) ∧ (intHi ty < z → (intOut ty true z).1 = putInt ty (intHi ty)) ∧
    (putInt ty z).toNat % 2 ^ ty.bits = (z % (2 ^ ty.bits : Nat)).toNat ∧
    (ty.bits < 32 → (putInt ty z).setWidth 32 = if ty.signed then (BitVec.ofInt ty.bits z).signExtend 32 else (BitVec.ofInt ty.bits z).setWidth 32) ∧
    (intLo ty ≤ z → z ≤ intHi ty → intVal ty (putInt ty z) = z)

/-- The instructions that write a predicate: ISETP and FSETP compare the exact values, PSET takes a bit of A, PLOP the bit of its table that three predicates name (R311, R334, R362). -/
def Obligations.PredicateResults : Prop :=
  (∀ (x : VArgs) (s : State), s.Results (.isetp x) (VSpec.intSetp.form x .pred true) fun i => boolOut (cmpInt x.cmp (intArgs s x i).1 (intArgs s x i).2.1)) ∧
  (∀ (x : VImm) (s : State), s.Results (.isetpI x) (VSpec.intSetp.formI x .pred) fun i => boolOut (cmpInt x.cmp (intArgsI s x i).1 (intArgsI s x i).2)) ∧
  (∀ (x : VArgs) (s : State), s.Results (.fsetp x) (VSpec.floatSetp.form x .pred true) fun i => boolOut (cmpVal x.cmp (fltArgs s x i 0).1 (fltArgs s x i 0).2)) ∧
  (∀ (x : VImm) (s : State), s.Results (.fsetpI x) (VSpec.floatSetp.formI x .pred) fun i => boolOut (cmpVal x.cmp (fltArgsI s x i 0).1 (fltArgsI s x i 0).2)) ∧
  (∀ (x : VArgs) (s : State), s.Results (.pset x) (VSpec.setBit.form x .pred true) fun i => boolOut ((s.rdSrc false x.a i).getLsbD (x.op8.toNat % 32))) ∧
  ∀ (x : VArgs) (s : State) (a b c : BitVec 11), x.a = .reg a → x.b = .reg b → x.c = .reg c →
    s.Results (.plop x) ⟨x.guard, .pred, x.d, [], [], [], true⟩ fun i =>
      boolOut (x.op8.getLsbD ((s.rdPred (a.toNat % 16) i).toNat + 2 * (s.rdPred (b.toNat % 16) i).toNat + 4 * (s.rdPred (c.toNat % 16) i).toNat))

/-- The bitwise instructions at the type's width; the shifts, whose count of the width or more gives zero, or the sign in every bit for SAR (R290, R297, R357, R372). -/
def Obligations.LogicResults : Prop :=
  ((∀ e ∈ ([(.and, fun a b => a &&& b), (.or, fun a b => a ||| b), (.xor, fun a b => a ^^^ b)] : List ((VArgs → Instr) × (Nat → Nat → Nat))),
    ∀ (x : VArgs) (s : State), s.Results (e.1 x) (VSpec.logic.form x (.ofTy x.ty) true) fun i =>
      (putInt x.ty (e.2 (lowNat x.ty.bits (s.rdSrc x.ty.wide x.a i)) (lowNat x.ty.bits (s.rdSrc x.ty.wide x.b i))), 0)) ∧
  (∀ e ∈ ([(.andI, fun a b => a &&& b), (.orI, fun a b => a ||| b), (.xorI, fun a b => a ^^^ b)] : List ((VImm → Instr) × (Nat → Nat → Nat))),
    ∀ (x : VImm) (s : State), s.Results (e.1 x) (VSpec.logic.formI x (.ofTy x.ty)) fun i =>
      (putInt x.ty (e.2 (lowNat x.ty.bits (s.rdSrc x.ty.wide x.a i)) (lowNat x.ty.bits (x.imm.signExtend 64))), 0)) ∧
  (∀ (x : VArgs) (s : State), s.Results (.not x) (VSpec.logicNot.form x (.ofTy x.ty) true) fun i =>
    (putInt x.ty (2 ^ x.ty.bits - 1 - lowNat x.ty.bits (s.rdSrc x.ty.wide x.a i)), 0)) ∧
  ∀ (x : VArgs) (s : State), s.Results (.sel x) (VSpec.select.form x (.ofTy x.ty) true) fun i =>
    (putInt x.ty (lowNat x.ty.bits (if s.rdPred (x.op8.toNat % 16) i != x.op8.getLsbD 4 then s.rdSrc x.ty.wide x.a i else s.rdSrc x.ty.wide x.b i)), 0)) ∧
  (∀ e ∈ ([(.shl, fun n x c => if n ≤ c then 0 else x * 2 ^ c % 2 ^ n), (.shr, fun n x c => if n ≤ c then 0 else x / 2 ^ c), (.sar, sarVal)]
      : List ((VArgs → Instr) × (Nat → Nat → Nat → Nat))),
    ∀ (x : VArgs) (s : State), s.Results (e.1 x) (VSpec.shift.form x (.ofTy x.ty) true) fun i =>
      (putInt x.ty (e.2 x.ty.bits (lowNat x.ty.bits (s.rdSrc x.ty.wide x.a i)) (lowNat 32 (s.rdSrc false x.b i))), 0)) ∧
  (∀ e ∈ ([(.shlI, fun n x c => if n ≤ c then 0 else x * 2 ^ c % 2 ^ n), (.shrI, fun n x c => if n ≤ c then 0 else x / 2 ^ c), (.sarI, sarVal)]
      : List ((VImm → Instr) × (Nat → Nat → Nat → Nat))),
    ∀ (x : VImm) (s : State), s.Results (e.1 x) (VSpec.shift.formI x (.ofTy x.ty)) fun i =>
      (putInt x.ty (e.2 x.ty.bits (lowNat x.ty.bits (s.rdSrc x.ty.wide x.a i)) x.imm.toNat), 0)) ∧
  ∀ n x c : Nat, 0 < n → x < 2 ^ n → ∀ j < n, (sarVal n x c).testBit j = x.testBit (if j + c < n then j + c else n - 1)

/-- Counts, reversal, bit fields and byte permutation (R294, R297, R358). -/
def Obligations.BitResults : Prop :=
  (∀ (x : VArgs) (s : State), s.Results (.popc x) (VSpec.count.form x .word true) fun i =>
    (BitVec.ofNat 64 ((List.range x.ty.bits).filter fun j => (lowNat x.ty.bits (s.rdSrc x.ty.wide x.a i)).testBit j).length, 0)) ∧
  (∀ (x : VArgs) (s : State), s.Results (.clz x) (VSpec.count.form x .word true) fun i =>
    (BitVec.ofNat 64 (x.ty.bits - Nat.size (lowNat x.ty.bits (s.rdSrc x.ty.wide x.a i))), 0)) ∧
  (∀ (x : VArgs) (s : State), ∃ r : Nat → Nat, s.Results (.brev x) (VSpec.reverse.form x (.ofTy x.ty) true) (fun i => (BitVec.ofNat 64 (r i), 0)) ∧
    ∀ i, r i < 2 ^ x.ty.bits ∧ ∀ j < x.ty.bits, (r i).testBit j = (lowNat x.ty.bits (s.rdSrc x.ty.wide x.a i)).testBit (x.ty.bits - 1 - j)) ∧
  (∀ (x : VArgs) (s : State), s.Results (.bfx x) (VSpec.field.form x (.ofTy x.ty) true) fun i =>
    (putInt x.ty (bfxVal x.ty.signed x.ty.bits (lowNat x.ty.bits (s.rdSrc x.ty.wide x.a i)) (lowNat 32 (s.rdSrc false x.b i) % 256)
      (lowNat 32 (s.rdSrc false x.b i) / 256 % 256)), 0)) ∧
  (∀ (x : VArgs) (s : State), s.Results (.bfi x) (VSpec.insert.form x (.ofTy x.ty) true) fun i =>
    (putInt x.ty (bfiVal x.ty.bits (lowNat x.ty.bits (s.rdSrc x.ty.wide x.a i)) (lowNat x.ty.bits (s.rdSrc x.ty.wide x.c i))
      (lowNat 32 (s.rdSrc false x.b i) % 256) (lowNat 32 (s.rdSrc false x.b i) / 256 % 256)), 0)) ∧
  (∀ (x : VArgs) (s : State), s.Results (.prmt x) (VSpec.permute.form x .word true) fun i =>
    (BitVec.ofNat 64 (prmtVal (lowNat 32 (s.rdSrc false x.a i)) (lowNat 32 (s.rdSrc false x.b i)) (lowNat 32 (s.rdSrc false x.c i)) (x.op8.getLsbD 0)), 0)) ∧
  ∀ n x base pos len : Nat, base < 2 ^ n → x < 2 ^ n → ∀ j < n,
    (bfiVal n x base pos len).testBit j = if pos ≤ j ∧ j < pos + len then x.testBit (j - pos) else base.testBit j

/-- Floating arithmetic: each element's exact result is rounded once (R308 to R310, R312). -/
def Obligations.FloatResults : Prop :=
  (∀ e ∈ ([(.fadd, fun x a b => addVal x.rnd a b), (.fsub, fun x a b => addVal x.rnd a (b.modify false true)), (.fmul, fun _ a b => mulVal a b)]
      : List ((VArgs → Instr) × (VArgs → FVal → FVal → FVal × Bool))),
    ∀ (x : VArgs) (s : State), s.Results (e.1 x) (VSpec.float2.form x (.ofTy x.ty) true) fun i =>
      halves x.ty fun k => outOf x.ty.fmt x.rnd x.sat (e.2 x (fltArgs s x i k).1 (fltArgs s x i k).2)) ∧
  (∀ e ∈ ([(.faddI, fun x a b => addVal x.rnd a b), (.fmulI, fun _ a b => mulVal a b)] : List ((VImm → Instr) × (VImm → FVal → FVal → FVal × Bool))),
    ∀ (x : VImm) (s : State), s.Results (e.1 x) (VSpec.float2.formI x (.ofTy x.ty)) fun i =>
      halves x.ty fun k => outOf x.ty.fmt x.rnd x.sat (e.2 x (fltArgsI s x i k).1 (fltArgsI s x i k).2)) ∧
  (∀ (x : VArgs) (s : State), s.Results (.ffma x) (VSpec.float3.form x (.ofTy x.ty) true) fun i =>
    halves x.ty fun k => outOf x.ty.fmt x.rnd x.sat (fmaVal x.rnd (fltArgs s x i k).1 (fltArgs s x i k).2
      (floatOperand x.ty false (x.op8.getLsbD 0) (s.rdSrc x.ty.wide x.c i) k))) ∧
  (∀ (x : VImm) (s : State) (n : BitVec 11), x.d = .reg n → s.Results (.ffmaI x) (VSpec.float2.formI x (.ofTy x.ty)) fun i =>
    halves x.ty fun k => outOf x.ty.fmt x.rnd x.sat (fmaVal x.rnd (fltArgsI s x i k).1 (fltArgsI s x i k).2
      (floatOperand x.ty false false (s.rdSrc x.ty.wide (.reg n) i) k))) ∧
  (∀ e ∈ ([(.fmin, true), (.fmax, false)] : List ((VArgs → Instr) × Bool)), ∀ (x : VArgs) (s : State),
    s.Results (e.1 x) (VSpec.floatMin.form x (.ofTy x.ty) true) fun i => halves x.ty fun k =>
      (BitVec.ofNat 64 (minMax x.ty.fmt e.2 (modCode x.ty.fmt x.absA x.negA (elem x.ty (s.rdSrc x.ty.wide x.a i) k))
        (modCode x.ty.fmt x.absB x.negB (elem x.ty (s.rdSrc x.ty.wide x.b i) k))), 0)) ∧
  ∀ (x : VArgs) (s : State), s.Results (.fclass x) (VSpec.floatClass.form x .word true) fun i =>
    (BitVec.ofNat 64 (classOf x.ty.fmt (elem x.ty (s.rdSrc x.ty.wide x.a i) 0)), 0)

/-- Conversion, rounding, square root, and the table functions, which read the core's coefficient memory (R162, R313 to R317). -/
def Obligations.ConversionResults : Prop :=
  (∀ (x : VArgs) (s : State), s.Results (.fcvt x) ⟨x.guard, .ofTy (cvtDst x).regTy, x.d, cvtRuns x, [], latchNo x.a, true⟩ fun i =>
    cvtOut (cvtDst x) (cvtSrc x) x.rnd x.sat x.absA x.negA (s.rdSrc (cvtSrc x).regTy.wide x.a i)) ∧
  (∀ (x : VArgs) (s : State), s.Results (.frnd x) (VSpec.floatRound.form x (.ofTy x.ty) true) fun i =>
    halves x.ty fun k => rndOut x.ty.fmt x.rnd (floatOperand x.ty x.absA x.negA (s.rdSrc x.ty.wide x.a i) k)) ∧
  (∀ (x : VArgs) (s : State), s.Results (.fsqrt x) (VSpec.floatSqrt.form x (.ofTy x.ty) true) fun i =>
    sqrtOut x.ty.fmt x.rnd (floatOperand x.ty x.absA x.negA (s.rdSrc x.ty.wide x.a i) 0)) ∧
  ∀ e ∈ ([(.frcp, .rcp), (.frsq, .rsq), (.fexp2, .exp2), (.flog2, .log2), (.fsin, .sin), (.fcos, .cos)] : List ((VArgs → Instr) × Func)),
    ∀ (x : VArgs) (s : State), s.Results (e.1 x) (VSpec.function.form x .word true) fun i =>
      funcOut (s.core s.curCore).coef e.2 x.ty x.sat (floatOperand x.ty x.absA x.negA (s.rdSrc false x.a i) 0)

/-- Moves and special registers, which inside a pair read the values before it; LEA: D takes (A + b·2^sh) modulo 2^64 (R62, R88, R350, R355, R369). -/
def Obligations.MoveResults : Prop :=
  ((∀ (x : VArgs) (s : State), s.Results (.mov x) (VSpec.moveV.form x (.ofTy x.ty) true) fun i => (s.rdSrc x.ty.wide x.a i, 0)) ∧
  (∀ (x : VImm) (s : State), s.Results (.movi x) (VSpec.moveI.formI x (.ofTy x.ty)) fun _ => (if x.ty.wide then x.imm.signExtend 64 else x.imm.setWidth 64, 0)) ∧
  (∀ (x : VArgs) (s : State) (n : BitVec 11), x.a = .reg n → s.Results (.movs x) ⟨x.guard, .ofTy x.ty, x.d, VSpec.moveS.runs x, [(n.toNat, 1)], [], true⟩ fun _ =>
    (if x.ty.wide then s.rdScalar n.toNat else low32 (s.rdScalar n.toNat), 0)) ∧
  ∀ (x : VArgs) (s : State) (n : BitVec 11) (r : Nat → DWord), x.a = .reg n →
    (∀ i, r i = match s.cur.pair with | some q => tabGet 0 q.spr i | none => if n.toNat = 0x010 then s.flags else s.sprRead n.toNat i) →
    s.Results (.sget x) (VSpec.getSpr.form x (.ofTy x.ty) false) fun i => (if x.ty.wide then r i else low32 (r i), 0)) ∧
  (∀ (x : VArgs) (s : State), s.Results (.lea x) (VSpec.leaR.form x .pair true) fun i =>
    (s.rdSrc true x.a i + (if x.ty = .s32 then ((s.rdSrc false x.b i).setWidth 32).signExtend 64 else ((s.rdSrc false x.b i).setWidth 32).setWidth 64) *
      BitVec.ofNat 64 (2 ^ (x.op8.toNat % 8)), 0)) ∧
  ∀ (x : VImm) (s : State), s.Results (.leaI x) (VSpec.leaIm.formI x .pair) fun i =>
    (s.rdSrc true x.a i + x.imm.signExtend 64 * BitVec.ofNat 64 (2 ^ (x.op8.toNat % 8)), 0)

/-- The cross-lane instructions over the lanes whose guard is true: SHFL takes another lane's A, or its own when the source lane does not take part; VOTE and REDUX combine (R166, R368, R369). -/
def Obligations.CrossLaneResults : Prop :=
  (∀ (x : VArgs) (s : State), s.Results (.shfl x) (VSpec.shuffle.form x (.ofTy x.ty) false) fun i =>
    (s.rdSrc x.ty.wide x.a (if shflLane (x.op8.toNat % 8) i (lowNat 32 (s.rdSrc false x.b i)) < 32 &&
        (s.trueLanes x.guard).getLsbD (shflLane (x.op8.toNat % 8) i (lowNat 32 (s.rdSrc false x.b i)))
      then shflLane (x.op8.toNat % 8) i (lowNat 32 (s.rdSrc false x.b i)) else i), 0)) ∧
  (∀ (x : VArgs) (s : State) (n : BitVec 11), x.a = .reg n → x.op8.toNat < 3 → s.Results (.vote x) ⟨x.guard, .pred, x.d, [], [], [], false⟩ fun _ =>
    boolOut (match x.op8.toNat with
      | 0 => (lanesOf (s.trueLanes x.guard)).all fun i => s.rdPred (n.toNat % 16) i
      | 1 => (lanesOf (s.trueLanes x.guard)).any fun i => s.rdPred (n.toNat % 16) i
      | _ => ((lanesOf (s.trueLanes x.guard)).all fun i => s.rdPred (n.toNat % 16) i) || !((lanesOf (s.trueLanes x.guard)).any fun i => s.rdPred (n.toNat % 16) i))) ∧
  (∀ (x : VArgs) (s : State) (n : BitVec 11), x.a = .reg n → 3 ≤ x.op8.toNat → s.Results (.vote x) ⟨x.guard, .word, x.d, VSpec.voteM.runs x, [], [], false⟩ fun _ =>
    (if x.op8.toNat = 7 then BitVec.ofNat 64 ((lanesOf (s.trueLanes x.guard)).filter fun i => s.rdPred (n.toNat % 16) i).length
     else (maskOf fun i => (s.trueLanes x.guard).getLsbD i && s.rdPred (n.toNat % 16) i).setWidth 64, 0)) ∧
  ∀ (x : VArgs) (s : State), s.Results (.redux x) (VSpec.reduce.form x (.ofTy x.ty) false) fun _ =>
    redTree x.ty (redOpOf x.op8.toNat) ((List.range 32).map fun i =>
      (if (s.trueLanes x.guard).getLsbD i then s.rdSrc x.ty.wide x.a i else redNeutral x.ty (redOpOf x.op8.toNat), 0))

/-- MOV from a handle: with no operation of the lanes' handles pending or failed, D takes the status word, and the engines' performed times join the lanes' stores (R90, R154, R355). It rests on choices of the model: log 43. -/
def Obligations.HandleMove : Prop :=
  ∀ (x : VArgs) (s : State) (n : BitVec 11), x.a = .reg n → s.OnPath → s.Ready (VSpec.moveH.runs x) [] →
    s.HandleFree (s.trueLanes x.guard) (n.toNat % 16) →
    ∃ t, exec (.movH x) s = .next t ∧ (s.outdoes .word x.d (s.trueLanes x.guard) 0).Beside t ∧ s.Advanced t ∧
      (∀ i, (s.active x.guard).getLsbD i →
        t.g.holds .word x.d i ((s.handleWord (s.g.rdH (n.toNat % 16) i)).setWidth 64) ∧
        tabGet 0 t.g.storeP i = max (tabGet 0 s.g.storeP i) (if s.g.rdH (n.toNat % 16) i = 0 then 0 else (s.op (s.g.rdH (n.toNat % 16) i)).perf)) ∧
      (∀ i, ¬ (s.active x.guard).getLsbD i → tabGet 0 t.g.storeP i = tabGet 0 s.g.storeP i) ∧
      (∀ r i, i < 32 → ¬ ((s.active x.guard).getLsbD i ∧ x.d = .reg (BitVec.ofNat 11 r)) → t.g.rdV r i = s.g.rdV r i) ∧
      t.g = { s.g.commitChain s.cur.mask with v := t.g.v, pc := t.g.pc, rings := t.g.rings, storeP := t.g.storeP, farP := t.g.farP, retired := t.g.retired, yieldMark := t.g.yieldMark }

/-- Class 0x6: with a true-guard lane, sD takes the result at the type's width, extended to 64 bits by its signedness; else nothing is written. An I-form's B is sx(imm, 32), and a shift's count is imm (R53, R54, R371). -/
def Obligations.ScalarResults : Prop :=
  (∀ e ∈ ([(.sadd, fun _ a b _ => a + b), (.ssub, fun _ a b _ => (a : Int) - b), (.smul, fun _ a b _ => a * b), (.sand, fun _ a b _ => (a &&& b : Nat)),
      (.sor, fun _ a b _ => (a ||| b : Nat)), (.sxor, fun _ a b _ => (a ^^^ b : Nat)), (.smov, fun _ a _ _ => a),
      (.sshl, fun x a _ c => if x.ty.bits ≤ c then 0 else (a * 2 ^ c % 2 ^ x.ty.bits : Nat)),
      (.sshr, fun x a _ c => if x.ty.signed then (sarVal x.ty.bits a c : Nat) else if x.ty.bits ≤ c then 0 else (a / 2 ^ c : Nat))]
      : List ((SclArgs → Instr) × (SclArgs → Nat → Nat → Nat → Int))),
    ∀ (x : SclArgs) (s : State), s.Ready [] [(x.d.toNat, 1), (x.a.toNat, 1), (x.b.toNat, 1)] →
      ∃ t, exec (e.1 x) s = .next t ∧ s.Done t fun g => if s.trueLanes x.guard = 0 then g else
        g.wrS x.d.toNat (sclOut x.ty (e.2 x (lowNat x.ty.bits (s.g.rdS x.a.toNat)) (lowNat x.ty.bits (s.g.rdS x.b.toNat)) (s.g.rdS x.b.toNat).toNat))) ∧
  (∀ e ∈ ([(.saddI, fun _ a b _ => a + b), (.ssubI, fun _ a b _ => (a : Int) - b), (.smulI, fun _ a b _ => a * b), (.sandI, fun _ a b _ => (a &&& b : Nat)),
      (.sorI, fun _ a b _ => (a ||| b : Nat)), (.sxorI, fun _ a b _ => (a ^^^ b : Nat)), (.smovi, fun _ _ b _ => b),
      (.sshlI, fun x a _ c => if x.ty.bits ≤ c then 0 else (a * 2 ^ c % 2 ^ x.ty.bits : Nat)),
      (.sshrI, fun x a _ c => if x.ty.signed then (sarVal x.ty.bits a c : Nat) else if x.ty.bits ≤ c then 0 else (a / 2 ^ c : Nat))]
      : List ((SclImm → Instr) × (SclImm → Nat → Nat → Nat → Int))),
    ∀ (x : SclImm) (s : State), s.Ready [] [(x.d.toNat, 1), (x.a.toNat, 1)] →
      ∃ t, exec (e.1 x) s = .next t ∧ s.Done t fun g => if s.trueLanes x.guard = 0 then g else
        g.wrS x.d.toNat (sclOut x.ty (e.2 x (lowNat x.ty.bits (s.g.rdS x.a.toNat)) (lowNat x.ty.bits (x.imm.signExtend 64)) x.imm.toNat))) ∧
  ∀ (ty : Ty) (z : Int), ty ∈ Ty.ints →
    if ty.signed then (sclOut ty z).toInt = (BitVec.ofInt ty.bits z).toInt else (sclOut ty z).toNat = (BitVec.ofInt ty.bits z).toNat

/-- SSETP writes pD of every true-guard lane; SRD and CLK write sD once, a per-lane register from the lowest true-guard lane; SWR of STATUS writes the group's flags, and a group that is no agent's may write no other special register: PRIV, with nothing written (R88, R301, R371, R373). That an agent's SWR of BARTMO reaches the one team resident on its core is a choice of the model: log 15. -/
def Obligations.ScalarRegisters : Prop :=
  ((∀ (x : SclArgs) (s : State), s.Ready [] [(x.a.toNat, 1), (x.b.toNat, 1)] → ∃ t, exec (.ssetp x) s = .next t ∧ s.Done t fun g =>
    g.each (s.trueLanes x.guard) fun h i => h.wrP x.d.toNat i (cmpInt x.cmp (intVal x.ty (s.g.rdS x.a.toNat)) (intVal x.ty (s.g.rdS x.b.toNat)))) ∧
  (∀ (x : SprArgs) (s : State), s.Ready [] [(x.s.toNat, 1)] → s.trueLanes x.guard ≠ 0 →
    (∃ t, exec (.srd x) s = .next t ∧ s.Done t fun g =>
      g.wrS x.s.toNat (if x.num.toNat = 0x010 then s.flags else s.sprRead x.num.toNat (lowLane (s.trueLanes x.guard)))) ∧
    (∃ t, exec (.clk x) s = .next t ∧ s.Done t fun g => g.wrS x.s.toNat (BitVec.ofNat 64 (s.coreClk s.curCore))) ∧
    (x.num = 0x010 → ∃ t, exec (.swr x) s = .next t ∧ s.Done t fun g => { g with status := s.g.rdS x.s.toNat &&& Flag.all })) ∧
  ∀ (x : SprArgs) (s : State) (k : Nat), s.Ready [] [(x.s.toNat, 1)] → s.trueLanes x.guard ≠ 0 → isAgent s.cur.gk = true → s.teamsOn s.curCore = [k] →
    x.num = 0x020 → ∃ t, exec (.swr x) s = .next t ∧ (t.team k).bartmo = (s.g.rdS x.s.toNat).toNat ∧ t.mem = s.mem ∧ ∀ j, j ≠ k → t.team j = s.team j) ∧
  ∀ (x : SprArgs) (s : State), x.num ≠ 0x010 → isAgent s.cur.gk = false →
    exec (.swr x) s = .next (s.endChain.takeTrap { cause := 0x04, mask := s.cur.mask })

/-- NOP does nothing; YIELD marks the group and takes it out of selection; PROG adds one to its progress counter (R39, R277, R377). It rests on choices of the model: log 47. -/
def Obligations.HintResults : Prop :=
  (∀ (x : G0Args) (s : State), s.Ready [] [] → ∃ t, exec (.nop x) s = .next t ∧ s.Done t id ∧ t.g.yieldMark = s.g.yieldMark) ∧
  (∀ (x : G0Args) (s : State), s.Ready [] [] → s.trueLanes x.guard ≠ 0 →
    ∃ t, exec (.yield x) s = .next t ∧ s.Done t (fun g => { g with yieldUntil := s.cycle + 33 }) ∧ t.g.yieldMark = true) ∧
  ∀ (x : ProgArgs) (s : State), s.Ready [] [] → ∃ t, exec (.prog x) s = .next t ∧ s.Done t id ∧
    ∀ k < 16, tabGet 0 t.obs.counts (16 + k) = tabGet 0 s.obs.counts (16 + k) + (if k = x.k.toNat ∧ s.trueLanes x.guard ≠ 0 then 1 else 0)

/-- BRA, CALL, BRX and RET: true-guard lanes stand at the target, or at their own pair's address, the others at the next slot; CALL writes the next slot's PC to the pair d. The state u is what the check of the targets leaves; it changes no group (R60, R299, R300, R370). -/
def Obligations.Transfers : Prop :=
  ((∀ (x : BraArgs) (s u : State), s.OnPath → s.Ready [] [] → s.endChain.checkTarget (braTarget s.cur.pc x) = .ok u →
    ∃ t, exec (.bra x) s = .next t ∧ u.Went t (fun i => if (s.trueLanes x.guard).getLsbD i then braTarget s.cur.pc x else nextPc s.cur.pc) id ∧ u.grp = s.endChain.grp) ∧
  ∀ (x : BraArgs) (s u : State), s.OnPath → s.Ready [(x.d.toNat, 2)] [] → s.endChain.checkTarget (braTarget s.cur.pc x) = .ok u →
    ∃ t, exec (.call x) s = .next t ∧ u.Went t (fun i => if (s.trueLanes x.guard).getLsbD i then braTarget s.cur.pc x else nextPc s.cur.pc)
      (fun g => g.each (s.trueLanes x.guard) fun h i => h.wrPair x.d.toNat i (nextPc s.cur.pc)) ∧ u.grp = s.endChain.grp) ∧
  ∀ e ∈ ([.brx, .ret] : List (JmpArgs → Instr)), ∀ (x : JmpArgs) (s u : State), s.OnPath → s.Ready [(x.a.toNat, 2)] [] →
    State.checkLanes (fun i => s.g.rdPair x.a.toNat i) (lanesOf (s.trueLanes x.guard)) s.endChain = ([], false, u) →
    ∃ t, exec (e x) s = .next t ∧ u.Went t (fun i => if (s.trueLanes x.guard).getLsbD i then s.g.rdPair x.a.toNat i else nextPc s.cur.pc) id ∧ u.grp = s.endChain.grp

/-- RCV: each set of true-guard lanes with one innermost entry pushes one entry at a free index, with the target as reconvergence PC and itself as expected mask; it becomes their innermost (R27, R28). It rests on choices of the model: log 17. -/
def Obligations.ReconvergencePush : Prop :=
  ∀ (x : BraArgs) (s : State), s.OnPath → s.Ready [] [] → s.liveCount + (pushGroups s.g (s.trueLanes x.guard)).length ≤ s.tm.depth →
    ∃ t, exec (.rcv x) s = .next t ∧ s.Beside t ∧ s.Advanced t ∧
      (∀ i, (s.trueLanes x.guard).getLsbD i → ∃ e < s.tm.depth, t.g.innerOf i = e + 1 ∧ e ∉ s.g.liveEntries s.tm.regs s.tm.depth ∧
        t.g.rdEntry s.tm.regs s.tm.depth e = ⟨(if s.g.innerOf i = 0 then 127 else s.g.innerOf i - 1) % 128, rcvBits s.codeBase (braTarget s.cur.pc x),
          maskOf fun j => (s.trueLanes x.guard).getLsbD j && s.g.innerOf j = s.g.innerOf i⟩) ∧
      (∀ i, ¬ (s.trueLanes x.guard).getLsbD i → t.g.innerOf i = s.g.innerOf i) ∧
      (∀ e ∈ s.g.liveEntries s.tm.regs s.tm.depth, t.g.rdEntry s.tm.regs s.tm.depth e = s.g.rdEntry s.tm.regs s.tm.depth e) ∧
      (∀ r i, i < 32 → (∀ e < s.tm.depth, entryReg s.tm.regs s.tm.depth e ≠ r) → t.g.rdV r i = s.g.rdV r i) ∧
      t.g = { s.g.commitChain s.cur.mask with v := t.g.v, inner := t.g.inner, pc := t.g.pc, retired := t.g.retired, yieldMark := t.g.yieldMark }

/-- RJOIN: a lane at its innermost entry's reconvergence PC waits there; the entry whose expected lanes are all there is released, and its lanes go on at the slot after the RJOIN with the parent as innermost; every other lane of the path passes. BRK n leaves the n innermost entries and goes to the target, with the n-th entry's parent as innermost (R29, R30, R31, R298, R367). -/
def Obligations.ReconvergenceJoin : Prop :=
  (∀ (x : G0Args) (s : State), s.OnPath → s.Ready [] [] → ∃ t, exec (.rjoin x) s = .next t ∧ s.Beside t ∧
    (∀ i, s.waitsHere x.guard i → ¬ (s.completes x.guard (s.g.innerOf i - 1) ∧ (s.g.rdEntry s.tm.regs s.tm.depth (s.g.innerOf i - 1)).expected.getLsbD i) →
      t.g.waitOf i = .rjoin (s.g.innerOf i - 1) ∧ t.g.pcOf i = s.cur.pc ∧ t.g.innerOf i = s.g.innerOf i) ∧
    (∀ i, s.cur.mask.getLsbD i → ¬ s.waitsHere x.guard i → t.g.waitOf i = .run ∧ t.g.pcOf i = nextPc s.cur.pc ∧ t.g.innerOf i = s.g.innerOf i) ∧
    (∀ e, s.completes x.guard e → (t.g.rdEntry s.tm.regs s.tm.depth e).expected = 0 ∧
      ∀ i, (s.g.rdEntry s.tm.regs s.tm.depth e).expected.getLsbD i → t.g.waitOf i = .run ∧ t.g.pcOf i = nextPc (s.g.pcOf i) ∧ t.g.innerOf i = s.parentOf e) ∧
    (∀ i, ¬ s.cur.mask.getLsbD i → (∀ e, ¬ (s.completes x.guard e ∧ (s.g.rdEntry s.tm.regs s.tm.depth e).expected.getLsbD i)) →
      t.g.waitOf i = s.g.waitOf i ∧ t.g.pcOf i = s.g.pcOf i ∧ t.g.innerOf i = s.g.innerOf i) ∧
    ∀ e, ¬ s.completes x.guard e → t.g.rdEntry s.tm.regs s.tm.depth e = s.g.rdEntry s.tm.regs s.tm.depth e) ∧
  ∀ (x : BraArgs) (s u : State), s.OnPath → s.Ready [] [] → 0 < x.depth.toNat → s.endChain.checkTarget (braTarget s.cur.pc x) = .ok u →
    (∀ i, s.g.innerOf i ≤ 128) → (∀ i, (s.trueLanes x.guard).getLsbD i → x.depth.toNat ≤ (s.g.chainOf s.tm.regs s.tm.depth 64 (s.g.innerOf i)).length) →
    ∃ t, exec (.brk x) s = .next t ∧ u.Beside t ∧ u.grp = s.endChain.grp ∧
      (∀ i, (s.trueLanes x.guard).getLsbD i → t.g.waitOf i = .run ∧ t.g.pcOf i = braTarget s.cur.pc x ∧
        t.g.innerOf i = s.parentOf ((s.g.chainOf s.tm.regs s.tm.depth 64 (s.g.innerOf i)).getD (x.depth.toNat - 1) 0) ∧
        ∀ e ∈ (s.g.chainOf s.tm.regs s.tm.depth 64 (s.g.innerOf i)).take x.depth.toNat, ¬ (t.g.rdEntry s.tm.regs s.tm.depth e).expected.getLsbD i) ∧
      (∀ i, s.cur.mask.getLsbD i → ¬ (s.trueLanes x.guard).getLsbD i → t.g.waitOf i = .run ∧ t.g.pcOf i = nextPc s.cur.pc ∧ t.g.innerOf i = s.g.innerOf i) ∧
      (∀ r i, i < 32 → (∀ e < 128, entryReg s.tm.regs s.tm.depth e ≠ r) → t.g.rdV r i = s.g.rdV r i) ∧
      t.g = { s.g.commitChain s.cur.mask with v := t.g.v, wait := t.g.wait, inner := t.g.inner, pc := t.g.pc, retired := t.g.retired, yieldMark := t.g.yieldMark }

/-- EXIT: true-guard lanes are exited and in no expected mask of their entries; when the team's last thread has exited the team is due to retire; memory is untouched (R32, R264, R304). -/
def Obligations.ExitResults : Prop :=
  ∀ (x : G0Args) (s : State), s.OnPath → s.Ready [] [] → s.trueLanes x.guard ≠ 0 → ∃ t, exec (.exit x) s = .next t ∧
    t = { s with cur := t.cur, groups := t.groups, teams := t.teams, grids := t.grids, cbars := t.cbars, cores := t.cores, obs := t.obs, logs := t.logs, agenda := t.agenda } ∧
    (∀ i, (s.trueLanes x.guard).getLsbD i → t.g.waitOf i = .exited ∧
      ∀ e ∈ s.g.chainOf s.tm.regs s.tm.depth 64 (s.g.innerOf i), ¬ (t.g.rdEntry s.tm.regs s.tm.depth e).expected.getLsbD i) ∧
    (∀ i, s.cur.mask.getLsbD i → ¬ (s.trueLanes x.guard).getLsbD i → t.g.waitOf i = .run ∧ t.g.pcOf i = nextPc s.cur.pc) ∧
    (t.liveThreads (teamOf s.cur.gk) = 0 → .teamRetire (teamOf s.cur.gk) ∈ t.agenda) ∧
    (t.liveThreads (teamOf s.cur.gk) ≠ 0 → t.agenda = s.agenda)

/-- A TRAP IS TAKEN: one error record, whose 256 bytes go to the host's error ring, with the path's chain rolled back and its first member, or the trap's own restart PC, as restart PC. Under policy 1 the path's lanes, the team and the grid are held at it, what they had asked of other devices without a log entry counts for nothing, and nothing else changes; under the others the grid is aborted, with status 1 unless it was aborted before (R66, R92, R93). It rests on choices of the model: logs 12 and 85. -/
def Obligations.TrapEntry : Prop :=
  ∀ (s t : State) (x : Trap) (pc : DWord), t = s.takeTrap x → pc = x.restart.getD (match s.g.openChain s.cur.mask with | some c => c.first | none => s.cur.pc) →
    (∃ r, t.errors = s.errors ++ [r] ∧ r.seq = s.errSeq + 1 ∧ r.cause = x.cause ∧ r.sub = x.sub ∧ r.detail = x.detail ∧ r.pc = s.cur.pc ∧
      r.restart = pc ∧ r.mask = s.cur.mask ∧ r.causeMask = x.mask ∧ r.addr = x.addr ∧ r.gtime = s.third / 3 ∧ r.gid = gidOf s.cur.gk ∧ r.team = s.tm.index ∧
      r.packet = s.gr.seq ∧ r.retired = (s.g.rollback s.cur.mask).retiredOf (lowLane x.mask) ∧
      t.mem.host = memPut s.mem.host (s.errRing + 256 * (s.errSeq % State.errorEntries)) (State.errorBytes r) 256) ∧
    (isAgent s.cur.gk = false → s.gr.policy = 1 → x.moved = none →
      t = { s with cur := { s.cur with verdict := .trapped }, groups := t.groups, teams := t.teams, grids := t.grids, errors := t.errors, errSeq := s.errSeq + 1, obs := t.obs, mem := { s.mem with host := t.mem.host },
                   share := (s.forget fun gk i => gk = s.cur.gk && s.cur.mask.getLsbD i).share } ∧
      (∀ i, s.cur.mask.getLsbD i → s.g.waitOf i ≠ .exited → t.g.waitOf i = .held ∧ t.g.pcOf i = pc) ∧
      t.tm.held = true ∧ t.gr.held = true ∧ ∀ k, k ≠ s.cur.gk → t.grp k = s.grp k) ∧
    (isAgent s.cur.gk = false → s.gr.policy ≠ 1 → (t.grid s.tm.grid).aborted = s.gr.aborted.or (some (1, s.errSeq + 1)) ∧ t.errSeq = s.errSeq + 1)

/-- TRAP and BKPT take their trap with the true-guard lanes as cause mask, the code as detail, and the following slot as restart PC; without a true-guard lane they do nothing (R295, R374). -/
def Obligations.TrapInstructions : Prop :=
  ∀ e ∈ ([(.trap, 0x10), (.bkpt, 0x11)] : List ((CodeArgs → Instr) × Nat)), ∀ (x : CodeArgs) (s : State), s.Ready [] [] →
    (s.trueLanes x.guard ≠ 0 → exec (e.1 x) s =
      .next (s.endChain.takeTrap { cause := e.2, detail := x.code.toNat, mask := s.trueLanes x.guard, restart := some (nextPc s.cur.pc) })) ∧
    (s.trueLanes x.guard = 0 → ∃ t, exec (e.1 x) s = .next t ∧ s.Done t id)

/-- A chain that rolls back leaves no trace of its first member: registers, predicates, program counters and RETIRED are as before it (R66). -/
def Obligations.ChainRollback : Prop :=
  ∀ e ∈ ([(.iadd, .intArith, false), (.mov, .moveV, false), (.isetp, .intSetp, true), (.fadd, .float2, false)] : List ((VArgs → Instr) × VSpec × Bool)),
    ∀ (x : VArgs) (s : State), s.OnPath → s.VReady (e.2.1.form x (if e.2.2 then .pred else .ofTy x.ty) true) →
      latchNo x.a ++ latchNo x.b ++ latchNo x.c = [] → ∃ t, exec (e.1 x) s = .next t ∧
        (∀ r i, i < 32 → (t.g.rollback s.cur.mask).rdV r i = s.g.rdV r i) ∧ (∀ r i, (t.g.rollback s.cur.mask).rdP r i = s.g.rdP r i) ∧
        ∀ i, s.cur.mask.getLsbD i → (t.g.rollback s.cur.mask).pcOf i = s.cur.pc ∧ (t.g.rollback s.cur.mask).retiredOf i = s.g.retiredOf i

/-- A slot that names a pending register waits, with nothing changed; one that names a register beyond the allocation raises REGRANGE with the number of such a register (R28, R51, R69, R96). -/
def Obligations.RegisterChecks : Prop :=
  ∀ e ∈ ([(.iadd, .intArith), (.mov, .moveV), (.ffma, .float3), (.sel, .select)] : List ((VArgs → Instr) × VSpec)), ∀ (x : VArgs) (s : State),
    (s.hitsPending (e.2.runs x) [] = true → exec (e.1 x) s = .next { s with cur := { s.cur with verdict := .stalled } }) ∧
    (∀ n, s.hitsPending (e.2.runs x) [] = false → s.rangeTrap (e.2.runs x) = some n → latchNo x.a ++ latchNo x.b ++ latchNo x.c = [] →
      exec (e.1 x) s = .next (s.endChain.takeTrap { cause := 0x05, detail := n, mask := s.cur.mask }) ∧ s.regLimit ≤ n ∧
      ∃ r ∈ e.2.runs x, r.1 ≤ n ∧ n < r.1 + r.2)

/-- BAR, BARA and CBAR after the fence of their scope: a lane that has not arrived in the open phase arrives, and waits there except at BARA; one that has is held. When every expected thread has arrived, the phase flips, the set clears and the waiting lanes go on at the next slot. BARW takes a completed phase's mark and goes on, or waits; it does not arrive (R33, R34, R36, R292). -/
def Obligations.BarrierResults : Prop :=
  (∀ e ∈ ([(.bar, .team, false, true), (.bara, .team, false, false), (.cbar, .clus, true, true)] : List ((IdArgs → Instr) × Scope × Bool × Bool)),
    ∀ (x : IdArgs) (s : State) (clus : Bool) (tk b all : Nat), s.OnPath → s.Ready [] [] → s.trueLanes x.guard ≠ 0 → isAgent s.cur.gk = false →
      s.fencePassed s.cur.gk (s.trueLanes x.guard) e.2.1 = true → clus = e.2.2.1 → tk = teamOf s.cur.gk → b = x.id.toNat →
      all = (lanesOf (s.trueLanes x.guard)).foldl (fun m i => m ||| s.threadBit s.cur.gk i clus) (s.bar tk b clus).arrived →
      (s.expectedThreads tk clus = 0 ∨ State.within (s.expectedThreads tk clus) all = false → ∃ t, exec (e.1 x) s = .next t ∧
        t = { s with cur := t.cur, groups := t.groups, teams := t.teams, cores := t.cores, cbars := t.cbars, obs := t.obs, logs := t.logs } ∧
        (t.bar tk b clus).arrived = all ∧ (t.bar tk b clus).phase = (s.bar tk b clus).phase ∧
        (∀ i, (s.trueLanes x.guard).getLsbD i → (s.bar tk b clus).arrived &&& s.threadBit s.cur.gk i clus = 0 →
          if e.2.2.2 then t.g.waitOf i = (if clus then .cbar b else .bar b) ∧ t.g.pcOf i = s.cur.pc else t.g.waitOf i = .run ∧ t.g.pcOf i = nextPc s.cur.pc) ∧
        (∀ i, (s.trueLanes x.guard).getLsbD i → (s.bar tk b clus).arrived &&& s.threadBit s.cur.gk i clus ≠ 0 →
          t.g.waitOf i = (if clus then .cbarAgain b else .barAgain b e.2.2.2) ∧ t.g.pcOf i = s.cur.pc) ∧
        (∀ i, s.cur.mask.getLsbD i → ¬ (s.trueLanes x.guard).getLsbD i → t.g.waitOf i = .run ∧ t.g.pcOf i = nextPc s.cur.pc) ∧
        ∀ k, k ≠ s.cur.gk → t.grp k = s.grp k) ∧
      (s.expectedThreads tk clus ≠ 0 → State.within (s.expectedThreads tk clus) all = true → tk ∈ s.members tk → s.againList tk b clus = [] →
        (∀ i, (s.trueLanes x.guard).getLsbD i → (s.bar tk b clus).arrived &&& s.threadBit s.cur.gk i clus = 0) → ∃ t, exec (e.1 x) s = .next t ∧
        t = { s with cur := t.cur, groups := t.groups, teams := t.teams, cores := t.cores, cbars := t.cbars, obs := t.obs, logs := t.logs } ∧
        (t.bar tk b clus).arrived = 0 ∧ (t.bar tk b clus).phase = !(s.bar tk b clus).phase ∧ (t.bar tk b clus).timer = 0 ∧
        (∀ i, s.cur.mask.getLsbD i → t.g.waitOf i = .run ∧ t.g.pcOf i = nextPc s.cur.pc) ∧
        ∀ k i, i < 32 → k ≠ s.cur.gk → isAgent k = false → teamOf k ∈ (if clus then s.members tk else [tk]) → (s.grp k).waitOf i = (if clus then .cbar b else .bar b) →
          (t.grp k).waitOf i = .run ∧ (t.grp k).pcOf i = nextPc ((s.grp k).pcOf i))) ∧
  ∀ (x : IdArgs) (s : State) (b : Barrier), s.OnPath → s.Ready [] [] → b = s.bar (teamOf s.cur.gk) x.id.toNat false → ∃ t, exec (.barw x) s = .next t ∧
    t = { s with cur := t.cur, groups := t.groups, teams := t.teams, cores := t.cores, obs := t.obs, logs := t.logs } ∧
    (t.bar (teamOf s.cur.gk) x.id.toNat false).arrived = b.arrived ∧ (t.bar (teamOf s.cur.gk) x.id.toNat false).phase = b.phase ∧
    (∀ i bit, (s.trueLanes x.guard).getLsbD i → bit = s.threadBit s.cur.gk i false →
      if b.marks &&& bit ≠ 0 ∧ b.markOpen &&& bit = 0 then
        t.g.waitOf i = .run ∧ t.g.pcOf i = nextPc s.cur.pc ∧ (t.bar (teamOf s.cur.gk) x.id.toNat false).marks &&& bit = 0
      else t.g.waitOf i = .barw x.id.toNat ∧ t.g.pcOf i = s.cur.pc ∧ (t.bar (teamOf s.cur.gk) x.id.toNat false).marks &&& bit = b.marks &&& bit) ∧
    (∀ i, s.cur.mask.getLsbD i → ¬ (s.trueLanes x.guard).getLsbD i → t.g.waitOf i = .run ∧ t.g.pcOf i = nextPc s.cur.pc) ∧
    ∀ k, k ≠ s.cur.gk → t.grp k = s.grp k

/-- ORDW passes when the section's frontier has reached the team, and waits otherwise; ORDS counts its lanes for the section, and the team has signalled once every live thread has (R41, R361). It rests on choices of the model: log 48. -/
def Obligations.OrderedSections : Prop :=
  (∀ (x : IdArgs) (s : State), s.OnPath → s.Ready [] [] →
    (s.tm.index ≤ s.frontier s.curCore s.tm.grid x.id.toNat → ∃ t, exec (.ordw x) s = .next t ∧ s.Done t id) ∧
    (s.frontier s.curCore s.tm.grid x.id.toNat < s.tm.index → ∃ t, exec (.ordw x) s = .next t ∧ s.Beside t ∧
      (∀ i, (s.trueLanes x.guard).getLsbD i → t.g.waitOf i = .ordw x.id.toNat ∧ t.g.pcOf i = s.cur.pc) ∧
      ∀ i, s.cur.mask.getLsbD i → ¬ (s.trueLanes x.guard).getLsbD i → t.g.waitOf i = .run ∧ t.g.pcOf i = nextPc s.cur.pc)) ∧
  ∀ (x : IdArgs) (s : State) (k done : Nat), s.OnPath → s.Ready [] [] → s.fencePassed s.cur.gk (s.trueLanes x.guard) .dev = true →
    k = 16 * s.tm.index + x.id.toNat → done = tabGet 0 s.gr.ords k ||| ((s.trueLanes x.guard).toNat * 2 ^ (32 * gidOf s.cur.gk)) →
    ∃ t, exec (.ords x) s = .next t ∧
      t = { s with cur := t.cur, groups := t.groups, teams := t.teams, grids := t.grids, cores := t.cores, obs := t.obs, logs := t.logs } ∧
      (∀ i, s.cur.mask.getLsbD i → t.g.waitOf i = .run ∧ t.g.pcOf i = nextPc s.cur.pc) ∧
      tabGet 0 (t.grid s.tm.grid).ords k = done ∧
      (s.liveThreads (teamOf s.cur.gk) ≠ 0 → State.within (s.liveThreads (teamOf s.cur.gk)) done = true → tabFind s.gr.signalled k = none →
        tabFind (t.grid s.tm.grid).signalled k = some (s.gtime (teamOf s.cur.gk / 16))) ∧
      (State.within (s.liveThreads (teamOf s.cur.gk)) done = false → (t.grid s.tm.grid).signalled = s.gr.signalled)

/-- GROW: after FENCE.dev sD takes the team count, and a one-dimensional unclustered grid's count rises by sA; a growth that is not allowed changes nothing and answers all ones (R38, R327). -/
def Obligations.GrowResults : Prop :=
  ∀ (x : GrowArgs) (s : State) (n : Nat), s.Ready [] [(x.d.toNat, 1), (x.a.toNat, 1)] → s.trueLanes x.guard ≠ 0 →
    s.fencePassed s.cur.gk (s.trueLanes x.guard) .dev = true → n = (s.g.rdS x.a.toNat).toNat →
    (n = 0 → ∃ t, exec (.grow x) s = .next t ∧ (s.setGrid s.tm.grid s.gr).Done t fun g => g.wrS x.d.toNat (BitVec.ofNat 64 s.gr.count)) ∧
    (0 < n → s.gr.ny * s.gr.nz = 1 → s.gr.kernel.cn = 0 → s.gr.count + n ≤ 2 ^ 32 →
      ∃ t, exec (.grow x) s = .next t ∧ (s.setGrid s.tm.grid { s.gr with count := s.gr.count + n, nx := s.gr.count + n }).Done t fun g => g.wrS x.d.toNat (BitVec.ofNat 64 s.gr.count)) ∧
    (0 < n → s.gr.ny * s.gr.nz ≠ 1 ∨ s.gr.kernel.cn ≠ 0 ∨ 2 ^ 32 < s.gr.count + n →
      ∃ t, exec (.grow x) s = .next t ∧ (s.setGrid s.tm.grid s.gr).Done t fun g => g.wrS x.d.toNat (BitVec.allOnes 64))

/-- FENCE without a true-guard lane goes on. With one it goes on exactly when the group has no log entry but prefetches and no no-return atomic outstanding, and, at device or system scope, GTIME has reached the lanes' stores' performed times plus ε and their atomics'; until then the path stays, and nothing else has changed (R96, R136, R143, R319). -/
def Obligations.FenceResults : Prop :=
  ∀ (x : FenceArgs) (s : State) (late : Prop), s.Ready [] [] →
    (late ↔ (∃ e ∈ s.logs, e.2.gk = s.cur.gk ∧ e.2.kind ≠ .prefetch) ∨ s.ctrValue s.cur.gk 2 ≠ 0 ∨ ((x.scope = .dev ∨ x.scope = .sys) ∧ ∃ i p, (s.trueLanes x.guard).getLsbD i = true ∧
      ((tabFind s.g.storeP i = some p ∧ s.gtime s.curCore < p + (if x.scope = .dev then 2 else 20)) ∨ (tabFind s.g.atomP i = some p ∧ s.gtime s.curCore < p)))) →
    (s.trueLanes x.guard = 0 ∨ ¬ late → ∃ t, exec (.fence x) s = .next t ∧ s.Done t id) ∧
    (s.trueLanes x.guard ≠ 0 → late → ∃ t, exec (.fence x) s = .next t ∧ t.cur = { s.cur with verdict := .stalled } ∧ t.g = s.g.commitChain s.cur.mask ∧
      (∀ k, k ≠ s.cur.gk → t.grp k = s.grp k) ∧ t.mem = s.mem ∧ t.logs = s.logs)

/-- WAITC: the path goes on when the counter is at most n, and the lanes' stores then include the counter's ended operations but those of its n youngest issue events, which the wait does not pass; above n it stays (R91, R154, R375, R376). -/
def Obligations.CounterWaits : Prop :=
  ∀ (x : WaitArgs) (s : State), s.Ready [] [] → s.trueLanes x.guard ≠ 0 →
    (s.ctrValue s.cur.gk (Ctr.code x.ctr) ≤ x.n.toNat → (x.ctr = .atomnr → s.logBusy s.cur.gk = false) → (x.ctr = .fabric → s.failedEntry x.n.toNat = none) →
      ∃ t, exec (.waitc x) s = .next t ∧ (s.Done t fun g => { g with storeP := t.g.storeP, farP := t.g.farP }) ∧ ∀ i, tabGet 0 t.g.storeP i =
        if (s.trueLanes x.guard).getLsbD i then max (tabGet 0 s.g.storeP i) ((s.passedOps (Ctr.code x.ctr) x.n.toNat).foldl (fun m e => max m e.2.perf) 0) else tabGet 0 s.g.storeP i) ∧
    (x.n.toNat < s.ctrValue s.cur.gk (Ctr.code x.ctr) →
      ∃ t, exec (.waitc x) s = .next t ∧ t.cur = { s.cur with verdict := .stalled } ∧ t.mem = s.mem ∧ t.g = s.g.commitChain s.cur.mask)

/-- The checks of a memory instruction's addresses, in their order: non-canonical, NOMAP; misaligned or wider than 16 bytes in PRIVATE, MISALIGN; across apertures, APSPAN; in a hole of VAULT, NOMAP; beyond the allocation, PROT with the attempted access as detail. The first that a lane meets is the trap's cause, with every lane that meets it as cause mask and the lowest one's address; when no lane meets any, there is no trap. LD, ST and STRL take that trap with nothing recorded and nothing stored (R69, R102, R105, R108, R342). It rests on choices of the model: log 9. -/
def Obligations.AccessChecks : Prop :=
  (∀ (s : State) (gk : Nat) (m : LaneMask) (a : Nat → Nat) (w : Nat) (write : Bool) (chain : List (Nat × (Nat → Bool))),
    chain = [(0x0B, fun i => !canonical (a i)), (0x08, fun i => a i % w ≠ 0 || (apertureOf (a i) = .priv && 16 < w)),
      (0x09, fun i => apertureOf (a i + w - 1) ≠ apertureOf (a i)), (0x0B, fun i => apertureOf (a i) = .vault && vaultHole (a i - vaultBase)),
      (0x0A, fun i => (s.placeOf gk i (a i) w).isNone)] →
    (s.issueChecks gk m a w write = none ↔ ∀ e ∈ chain, ∀ i, m.getLsbD i → e.2 i = false) ∧
    ∀ k c bad, chain[k]? = some (c, bad) → (∀ e ∈ chain.take k, ∀ i, m.getLsbD i → e.2 i = false) → (∃ i, m.getLsbD i ∧ bad i = true) →
      ∃ p, s.issueChecks gk m a w write = some p ∧ p.cause = c ∧ p.sub = 0 ∧ p.detail = (if c = 0x0A then (if write then 2 else 1) else 0) ∧
        (∀ i, p.mask.getLsbD i ↔ m.getLsbD i ∧ bad i = true) ∧ p.addr = BitVec.ofNat 64 (a (lowLane p.mask))) ∧
  (∀ e ∈ ([(.ld, false), (.st, true)] : List ((MemArgs → Instr) × Bool)), ∀ (x : MemArgs) (s : State) (p : Trap), s.trueLanes x.guard ≠ 0 →
    s.Ready (((if e.2 then x.c else x.d).toNat, countOf x.count) :: (State.baseRuns x.sbase x.a x.b).1) (State.baseRuns x.sbase x.a x.b).2 →
    s.issueChecks s.cur.gk (s.trueLanes x.guard) (s.memAddr x.sbase x.a x.b (x.off.signExtend 64)) x.bytes e.2 = some p →
    exec (e.1 x) s = .next (s.endChain.takeTrap p)) ∧
  ∀ (x : AcqArgs) (s : State) (p : Trap), s.trueLanes x.guard ≠ 0 →
    s.Ready ((x.c.toNat, x.bytes / 4) :: (State.baseRuns x.sbase x.a x.b).1) (State.baseRuns x.sbase x.a x.b).2 →
    s.issueChecks s.cur.gk (s.trueLanes x.guard) (s.memAddr x.sbase x.a x.b (x.off.signExtend 64)) x.bytes true = some p →
    exec (.strl x) s = .next (s.endChain.takeTrap p)

/-- LD, LDAQ, SLD, LDLN and PREF enter the operand log: the base pair or scalar plus sB plus the offset gives each address, modulo 2^64; SLD and LDLN make one access, and LDLN's lanes must stand on one aligned line (R58, R94, R346, R348, R349). That the registers of one lane's LD are one event rests on a choice of the model: log 111. -/
def Obligations.LoadIssue : Prop :=
  (∀ (x : MemArgs) (s : State) (a : Nat → Nat), a = s.memAddr x.sbase x.a x.b (x.off.signExtend 64) →
    (s.Ready ((x.d.toNat, countOf x.count) :: (State.baseRuns x.sbase x.a x.b).1) (State.baseRuns x.sbase x.a x.b).2 →
      s.MayLog (s.trueLanes x.guard) (s.trueLanes x.guard) a x.bytes false →
      ∃ t, exec (.ld x) s = .next t ∧ s.Logged t (s.logOf (s.trueLanes x.guard) (s.trueLanes x.guard) a x.bytes
        { Log.empty with kind := .load, unit := x.bytes, dst := x.d.toNat, cnt := countOf x.count }) [.loadReturn s.nextLog]) ∧
    (s.Ready (State.baseRuns x.sbase x.a x.b).1 (State.baseRuns x.sbase x.a x.b).2 → s.trueLanes x.guard ≠ 0 → s.logFull s.cur.gk = false →
      ∃ t, exec (.pref x) s = .next t ∧ s.Logged t { (s.logOf (s.trueLanes x.guard) (s.trueLanes x.guard) a x.bytes
        { Log.empty with kind := .prefetch, unit := x.bytes }) with parked := false } [.loadReturn s.nextLog])) ∧
  (∀ (x : MemArgs) (s : State) (a : Nat → Nat), a = s.memAddr true x.a x.b (x.off.signExtend 64) →
    s.Ready [] ((x.d.toNat, 1) :: (State.baseRuns true x.a x.b).2) → s.MayLog (s.trueLanes x.guard) (s.oneLane x.guard) a x.bytes false →
    ∃ t, exec (.sld x) s = .next t ∧ s.Logged t (s.logOf (s.trueLanes x.guard) (s.oneLane x.guard) a x.bytes
      { Log.empty with kind := .load, unit := x.bytes, dst := x.d.toNat, cnt := 1, scalar := true }) [.loadReturn s.nextLog]) ∧
  (∀ (x : MemArgs) (s : State) (a : Nat → Nat) (l : Nat), a = s.memAddr false x.a x.b (x.off.signExtend 64) → l = a (lowLane (s.trueLanes x.guard)) / 128 * 128 →
    s.Ready ((x.d.toNat, 1) :: (State.baseRuns x.sbase x.a x.b).1) (State.baseRuns x.sbase x.a x.b).2 →
    (∀ i, (s.trueLanes x.guard).getLsbD i → a i = l + 4 * i) → s.MayLog (s.trueLanes x.guard) (s.oneLane x.guard) (fun _ => l) 128 false →
    ∃ t, exec (.ldln x) s = .next t ∧ s.Logged t (s.logOf (s.trueLanes x.guard) (s.oneLane x.guard) (fun _ => l) 128
      { Log.empty with kind := .lineLoad, unit := 128, dst := x.d.toNat, cnt := 1 }) [.loadReturn s.nextLog]) ∧
  ∀ (x : AcqArgs) (s : State) (a : Nat → Nat), a = s.memAddr x.sbase x.a x.b (x.off.signExtend 64) →
    s.Ready ((x.d.toNat, x.bytes / 4) :: (State.baseRuns x.sbase x.a x.b).1) (State.baseRuns x.sbase x.a x.b).2 → s.logBusy s.cur.gk = false →
    s.MayLog (s.trueLanes x.guard) (s.trueLanes x.guard) a x.bytes false →
    ∃ t, exec (.ldaq x) s = .next t ∧ s.Logged t (s.logOf (s.trueLanes x.guard) (s.trueLanes x.guard) a x.bytes
      { Log.empty with kind := .acquire, unit := x.bytes, dst := x.d.toNat, cnt := x.bytes / 4, scope := x.scope }) [.loadReturn s.nextLog]

/-- ST, STRL, SST and STLN enter the operand log with their data as it stands at issue, one part for each single-copy unit; STRL does so after the fence of its scope (R58, R94, R145, R147, R346, R349). That the units of one aligned 16-byte part are one event rests on a choice of the model: log 111. -/
def Obligations.StoreIssue : Prop :=
  (∀ (x : MemArgs) (s : State) (a : Nat → Nat), a = s.memAddr x.sbase x.a x.b (x.off.signExtend 64) →
    s.Ready ((x.c.toNat, countOf x.count) :: (State.baseRuns x.sbase x.a x.b).1) (State.baseRuns x.sbase x.a x.b).2 →
    s.MayLog (s.trueLanes x.guard) (s.trueLanes x.guard) a x.bytes true →
    ∃ t, exec (.st x) s = .next t ∧ s.Logged t (s.logOf (s.trueLanes x.guard) (s.trueLanes x.guard) a x.bytes
      { Log.empty with kind := .store, unit := x.unit, data := State.partsOf (s.trueLanes x.guard) x.bytes x.unit fun i => s.regBytes x.c.toNat (countOf x.count) i })
      ((lanesOf (s.trueLanes x.guard)).map fun i => .storePerformed s.nextLog i)) ∧
  (∀ (x : AcqArgs) (s : State) (a : Nat → Nat), a = s.memAddr x.sbase x.a x.b (x.off.signExtend 64) →
    s.Ready ((x.c.toNat, x.bytes / 4) :: (State.baseRuns x.sbase x.a x.b).1) (State.baseRuns x.sbase x.a x.b).2 →
    s.MayLog (s.trueLanes x.guard) (s.trueLanes x.guard) a x.bytes true → s.fencePassed s.cur.gk (s.trueLanes x.guard) x.scope = true →
    ∃ t, exec (.strl x) s = .next t ∧ s.Logged t (s.logOf (s.trueLanes x.guard) (s.trueLanes x.guard) a x.bytes
      { Log.empty with kind := .release, unit := x.bytes, scope := x.scope,
                       data := State.partsOf (s.trueLanes x.guard) x.bytes x.bytes fun i => s.regBytes x.c.toNat (x.bytes / 4) i })
      ((lanesOf (s.trueLanes x.guard)).map fun i => .storePerformed s.nextLog i)) ∧
  (∀ (x : MemArgs) (s : State) (a : Nat → Nat), a = s.memAddr true x.a x.b (x.off.signExtend 64) →
    s.Ready [] ((x.c.toNat, 1) :: (State.baseRuns true x.a x.b).2) → s.MayLog (s.trueLanes x.guard) (s.oneLane x.guard) a x.bytes true →
    ∃ t, exec (.sst x) s = .next t ∧ s.Logged t (s.logOf (s.trueLanes x.guard) (s.oneLane x.guard) a x.bytes
      { Log.empty with kind := .store, unit := x.bytes, scalar := true,
                       data := State.partsOf (s.oneLane x.guard) x.bytes x.bytes fun _ => (s.g.rdS x.c.toNat).toNat })
      [.storePerformed s.nextLog (lowLane (s.trueLanes x.guard))]) ∧
  ∀ (x : MemArgs) (s : State) (a : Nat → Nat) (l : Nat), a = s.memAddr false x.a x.b (x.off.signExtend 64) → l = a (lowLane (s.trueLanes x.guard)) / 128 * 128 →
    s.Ready ((x.c.toNat, 1) :: (State.baseRuns x.sbase x.a x.b).1) (State.baseRuns x.sbase x.a x.b).2 →
    (∀ i, (s.trueLanes x.guard).getLsbD i → a i = l + 4 * i) → s.MayLog (s.trueLanes x.guard) (s.oneLane x.guard) (fun _ => l) 128 true →
    ∃ t, exec (.stln x) s = .next t ∧ s.Logged t (s.logOf (s.trueLanes x.guard) (s.oneLane x.guard) (fun _ => l) 128
      { Log.empty with kind := .lineStore, unit := 128, data := State.partsOf (s.trueLanes x.guard) 4 4 fun i => (s.g.rdV x.c.toNat i).toNat })
      [.storePerformed s.nextLog (lowLane (s.trueLanes x.guard))]

/-- The atomics enter the operand log with operand B, and ACAS with its comparand C; the no-return form leaves no register pending and raises ATOMNR by one event. An AFADD that finds an exact-sum leaf without a descriptor raises NOMAP at issue, with subcode 1 and the lanes that find it (R59, R91, R150, R252, R283, R284). -/
def Obligations.AtomicIssue : Prop :=
  (∀ (x : AtomArgs) (s : State) (a : Nat → Nat) (m : LaneMask), a = s.memAddr false x.a 0 (x.off.signExtend 64) → m = s.badSum { Log.empty with atom := some (.afadd x) } (s.trueLanes x.guard) a →
    s.Ready ((if x.nr then [] else [(x.d.toNat, atomCnt x)]) ++ [(x.a.toNat, 2), (x.b.toNat, atomCnt x)]) [] → s.issueChecks s.cur.gk (s.trueLanes x.guard) a (atomBytes x) true = none →
    (x.nr = true → s.ctrFull 2 = false) → m ≠ 0 →
    exec (.afadd x) s = .next (s.endChain.takeTrap { cause := 0x0B, sub := 1, mask := m, addr := BitVec.ofNat 64 (a (lowLane m)) }) ∧
    ∀ i, m.getLsbD i ↔ (s.trueLanes x.guard).getLsbD i ∧ apertureOf (a i) = .glob ∧ s.peek s.curCore s.tm.asid (a i) = .malformed) ∧
  ∀ e ∈ ([(.aadd, false), (.amin, false), (.amax, false), (.aand, false), (.aor, false), (.axor, false), (.axch, false), (.acas, true), (.afadd, false), (.afmin, false),
      (.afmax, false)] : List ((AtomArgs → Instr) × Bool)),
    ∀ (x : AtomArgs) (s : State) (a : Nat → Nat) (g : Log), a = s.memAddr false x.a 0 (x.off.signExtend 64) →
      s.Ready ((if x.nr then [] else [(x.d.toNat, atomCnt x)]) ++ (x.a.toNat, 2) :: (x.b.toNat, atomCnt x) :: (if e.2 then [(x.c.toNat, atomCnt x)] else [])) [] →
      s.MayLog (s.trueLanes x.guard) (s.trueLanes x.guard) a (atomBytes x) true →
      g = s.logOf (s.trueLanes x.guard) (s.trueLanes x.guard) a (atomBytes x)
        { Log.empty with kind := .atomic, unit := atomBytes x, dst := x.d.toNat, cnt := if x.nr then 0 else atomCnt x, scope := x.scope, atom := some (e.1 x), nr := x.nr,
                         mark := if x.nr then s.nextOp else 0,
                         data := (lanesOf (s.trueLanes x.guard)).flatMap fun j =>
                           (64 * j, atomReg s x.b (atomBytes x) j) :: (if e.2 then [(64 * j + 32, atomReg s x.c (atomBytes x) j)] else []) } →
      s.badSum g (s.trueLanes x.guard) a = 0 →
      (x.nr = false → ∃ t, exec (e.1 x) s = .next t ∧ s.Logged t g ((lanesOf (s.trueLanes x.guard)).map fun j => .homeAtomic s.nextLog j)) ∧
      (x.nr = true → s.ctrFull 2 = false → ∃ t u, exec (e.1 x) s = .next t ∧ s.Logged u g ((lanesOf (s.trueLanes x.guard)).map fun j => .homeAtomic s.nextLog j) ∧
        t = { u with ops := t.ops, nextOp := s.nextOp + 1, groups := t.groups } ∧
        (t.op s.nextOp).st = .pending ∧ (t.op s.nextOp).kind = .atomNr ∧ (t.op s.nextOp).mark = s.nextOp ∧ (∀ k, k ≠ s.nextOp → t.op k = s.op k) ∧
        t.g = u.g.setCtr 2 (((s.g.ctrOf 2).dropWhile fun m => s.markDone m) ++ [s.nextOp]) ∧ ∀ k, k ≠ s.cur.gk → t.grp k = s.grp k)

/-- Memory is little-endian bytes: what was written is read back, every other byte stays, and the canonical form is kept. A store to a plain page of this module, whose home slice has a place for the line, writes exactly its bytes at P = max(slice time, horizon), an array's store at the array's time; a load reads the bytes that stand there. An atomic reads the old value and stores the new one in one event, at the type's width (R8, R118, R137, R138, R148, R149, R343). -/
def Obligations.MemoryBytes : Prop :=
  ((∀ (m : List Host.Cell) (a x n : Nat), memNat (memPut m a x n) a n = x % 256 ^ n ∧ (Memory.wf m → Memory.wf (memPut m a x n)) ∧
    ∀ b, tabGet 0 (memPut m a x n) b = if a ≤ b ∧ b < a + n then BitVec.ofNat 8 (x / 256 ^ (b - a)) else tabGet 0 m b) ∧
  (∀ (s u : State) (c asid ctx va n pa size : Nat) (e : DWord) (via : State.Via), s.translate c asid va = (.page pa e size, u) → Pte.xs e = false →
    (Pte.r e = false → s.readGlobal c asid ctx va n via = .bad ⟨0x0A, 0, 1, 0⟩) ∧
    (Pte.r e = true → via ≠ .l1 ∨ u.l1Copy c pa = none → (u.allocLine (pa / 128)).isSome = true → ∃ t, s.readGlobal c asid ctx va n via = .ok (memNat s.mem.dram pa n) (s.sliceTime (sliceOf pa)) t ∧
      t.mem.dram = s.mem.dram ∧ t.mem.vault = s.mem.vault ∧ t.mem.scratch = s.mem.scratch ∧ t.groups = s.groups ∧ t.teams = s.teams)) ∧
  (∀ (s u : State) (c asid va n x pa size : Nat) (e : DWord), s.translate c asid va = (.page pa e size, u) → Pte.xs e = false →
    (Pte.w e = false ∨ Pte.k e = true → s.writeGlobal c asid va n x = .bad ⟨0x0A, 0, 2, 0⟩) ∧
    (Pte.w e = true → Pte.k e = false → (u.allocLine (pa / 128)).isSome = true → ∃ t, s.writeGlobal c asid va n x = .ok 0 (max (s.sliceTime (sliceOf pa)) (tabGet 0 s.mem.horizon (pa / 128))) t ∧
      t.mem.dram = memPut s.mem.dram pa x n ∧ t.mem.vault = s.mem.vault ∧ t.mem.scratch = s.mem.scratch ∧ t.mem.host = s.mem.host ∧
      tabFind t.mem.lastWrite (pa / 128) = some (s.sliceTime (sliceOf pa)) ∧ t.groups = s.groups ∧ t.teams = s.teams)) ∧
  ∀ (s : State) (gk lane a n x p : Nat) (via : State.Via),
    (s.placeOf gk lane a n = some (.scratch p) → s.readAt gk lane a n via = .ok (memNat s.mem.scratch p n) (s.sliceTime (1000 + p / 262144)) s ∧
      s.writeAt gk lane a n x = .ok 0 (s.sliceTime (1000 + p / 262144)) { s with mem := { s.mem with scratch := memPut s.mem.scratch p x n } }) ∧
    (s.placeOf gk lane a n = some (.vault p) → ∃ q, s.readAt gk lane a n via = .ok (memNat s.mem.vault p n) q s ∧
      s.writeAt gk lane a n x = .ok 0 q { s with mem := { s.mem with vault := memPut s.mem.vault p x n } })) ∧
  (∀ (s u : State) (c asid va n pa size : Nat) (e : DWord) (f : State.AtomOp), s.translate c asid va = (.page pa e size, u) → Pte.xs e = false → Pte.w e = true → Pte.k e = false →
    (u.allocLine (pa / 128)).isSome = true → ∃ t, s.atomGlobal c asid va n f = .ok (memNat s.mem.dram pa n) (max (s.sliceTime (sliceOf pa)) (tabGet 0 s.mem.horizon (pa / 128))) t ∧
      t.mem.dram = memPut s.mem.dram pa (f.new (memNat s.mem.dram pa n)) n ∧ t.mem.vault = s.mem.vault ∧ t.mem.scratch = s.mem.scratch) ∧
  ∀ (x : AtomArgs) (b c o : Nat),
    (atomOp (.aadd x) b c).new o = (o + b) % 256 ^ atomBytes x ∧ (atomOp (.aand x) b c).new o = o &&& b ∧ (atomOp (.aor x) b c).new o = o ||| b ∧
    (atomOp (.axor x) b c).new o = o ^^^ b ∧ (atomOp (.axch x) b c).new o = b ∧ (atomOp (.acas x) b c).new o = (if o = c then b else o) ∧
    (x.ty.signed = false → (atomOp (.amin x) b c).new o = min o b ∧ (atomOp (.amax x) b c).new o = max o b) ∧
    (x.ty.signed = true → (atomOp (.amin x) b c).new o = (if toSigned x.ty.bits b < toSigned x.ty.bits o then b else o) ∧
      (atomOp (.amax x) b c).new o = if toSigned x.ty.bits o < toSigned x.ty.bits b then b else o) ∧
    (x.ty = .f32 → o < 2 ^ 32 → b < 2 ^ 32 → (atomOp (.afadd x) b c).new o = (outOf .fp32 .rne false (addVal .rne (decodeFloat .fp32 o) (decodeFloat .fp32 b))).1.toNat ∧
      (atomOp (.afmin x) b c).new o = minMax .fp32 true o b ∧ (atomOp (.afmax x) b c).new o = minMax .fp32 false o b)

/-- When every part of a load or returning atomic has been performed, its destinations are written all at once, but in exited lanes, and its entry is freed; a no-return atomic ends for its counter once GTIME has reached P + ε; a prefetch changes no register and no byte, and its entry is freed once every line has come or ended without effect, as one that is misaligned, unmapped or not plainly readable does (R91, R97, R146, R150, R287, R305, R345). It rests on choices of the model: log 73. -/
def Obligations.ReturnEvents : Prop :=
  (∀ (s : State) (id : Nat) (e : Log) (i : Instr), tabFind s.logs id = some e → State.logDone e = true →
    (i = .loadReturn id ∧ s.quiet e.gk = false ∧ e.kind ≠ .prefetch ∧ (e.kind = .acquire → s.reached (coreOf e.gk) e.tr = true) ∨ i = .atomicResponse id ∧ e.nr = false) →
    ∃ t, exec i s = .next t ∧ tabFind t.logs id = none ∧ t = { s with groups := t.groups, logs := t.logs } ∧ (∀ k, k ≠ id → tabFind t.logs k = tabFind s.logs k) ∧
      (∀ k, k ≠ e.gk → t.grp k = s.grp k) ∧
      (e.scalar = true → e.cnt ≠ 0 → (t.grp e.gk).rdS e.dst = BitVec.ofNat 64 (tabGet 0 e.got (lowLane e.lanes))) ∧
      (∀ n, e.scalar = false ∨ n ≠ e.dst → (t.grp e.gk).rdS n = (s.grp e.gk).rdS n) ∧
      (∀ l k, e.scalar = false → e.lanes.getLsbD l → (s.grp e.gk).waitOf l ≠ .exited → e.kind ≠ .lineLoad → k < e.cnt →
        (t.grp e.gk).rdV (e.dst + k) l = BitVec.ofNat 32 (tabGet 0 e.got l / 2 ^ (32 * k))) ∧
      (∀ l, e.scalar = false → e.lanes.getLsbD l → (s.grp e.gk).waitOf l ≠ .exited → e.kind = .lineLoad → e.cnt ≠ 0 →
        (t.grp e.gk).rdV e.dst l = BitVec.ofNat 32 (tabGet 0 e.got (lowLane e.lanes) / 2 ^ (32 * l))) ∧
      ∀ r l, l < 32 → ¬ (e.scalar = false ∧ e.lanes.getLsbD l ∧ (s.grp e.gk).waitOf l ≠ .exited ∧ e.dst ≤ r ∧ r < e.dst + e.cnt) → (t.grp e.gk).rdV r l = (s.grp e.gk).rdV r l) ∧
  (∀ (s : State) (id : Nat) (e : Log), tabFind s.logs id = some e → State.logDone e = true → e.nr = true → s.reached (coreOf e.gk) (e.tr + epsilon e.scope) = true →
    ∃ t, exec (.atomicResponse id) s = .next t ∧ tabFind t.logs id = none ∧ t = { s with groups := t.groups, logs := t.logs, ops := t.ops } ∧
      (∀ o, (t.op o).mark = e.mark → (t.op o).kind = .atomNr → (t.op o).st ≠ .pending) ∧
      ∀ r l k, (t.grp k).rdV r l = (s.grp k).rdV r l) ∧
  ∀ (s : State) (id : Nat) (e : Log), tabFind s.logs id = some e → s.quiet e.gk = false → e.kind = .prefetch →
    ∃ t, exec (.loadReturn id) s = .next t ∧ t.mem.dram = s.mem.dram ∧ t.mem.scratch = s.mem.scratch ∧ t.mem.vault = s.mem.vault ∧
      (∀ r l k, (t.grp k).rdV r l = (s.grp k).rdV r l) ∧ (∀ f, tabFind t.logs id = some f → f = { e with st := f.st } ∧ State.logDone f = false) ∧
      ((∀ k ∈ partKeys e, canonical (partAddr e k) = false ∨ partAddr e k % e.unit ≠ 0 ∨ apertureOf (partAddr e k) ≠ .glob ∨
        ∃ pa p size, s.peek (coreOf e.gk) (s.asidOf e.gk) (partAddr e k) = .page pa p size ∧ (Pte.r p = false ∨ Pte.xs p = true)) → tabFind t.logs id = none)

/-- One part of a logged access is performed: a store writes memory as `writeAt` does at the part's address and raises its lanes' performed times, an atomic reads and writes as `atomAt` does and keeps the old value, and each leaves its entry when it is the last; a replayed entry's faulted parts are due again (R95, R137, R139, R148, R284, R343). -/
def Obligations.PerformEvents : Prop :=
  (∀ (s u : State) (id lane k x p : Nat) (e : Log), tabFind s.logs id = some e → s.quiet e.gk = false → e.parked = false → e.kind = .store ∨ e.kind = .release →
    s.readyParts id e (some lane) = [k] → s.writeAt e.gk (k / 64) (partAddr e k) e.unit (tabGet 0 e.data k) = .ok x p u →
    ∃ t, exec (.storePerformed id lane) s = .next t ∧ t.mem = u.mem ∧
      (∀ i, (partLanes e k).getLsbD i → tabGet 0 (t.grp e.gk).storeP i = max (tabGet 0 (s.grp e.gk).storeP i) p) ∧
      (∀ i, ¬ (partLanes e k).getLsbD i → tabGet 0 (t.grp e.gk).storeP i = tabGet 0 (s.grp e.gk).storeP i) ∧
      (t.grp e.gk) = { s.grp e.gk with storeP := (t.grp e.gk).storeP, farP := (t.grp e.gk).farP, wait := (t.grp e.gk).wait } ∧ (∀ j, j ≠ e.gk → t.grp j = s.grp j) ∧
      (State.logDone { e with st := tabPut e.st k .done } = true → tabFind t.logs id = none) ∧
      (State.logDone { e with st := tabPut e.st k .done } = false → tabFind t.logs id = some { e with st := tabPut e.st k .done })) ∧
  (∀ (s u : State) (id lane k old p : Nat) (e : Log) (i : Instr), tabFind s.logs id = some e → s.quiet e.gk = false → e.parked = false → e.atom = some i →
    s.readyParts id e (some lane) = [k] → s.atomAt e.gk (k / 64) (partAddr e k) e.unit (atomOp i (tabGet 0 e.data k) (tabGet 0 e.data (k + 32))) = .ok old p u →
    ∃ t, exec (.homeAtomic id lane) s = .next t ∧ t.mem = u.mem ∧
      tabFind t.logs id = some { e with got := tabPut e.got (k / 64) old, st := tabPut e.st k .done, tr := max e.tr p } ∧
      (State.logDone { e with st := tabPut e.st k .done } = true → .atomicResponse id ∈ t.agenda)) ∧
  (∀ (s u : State) (id k x p : Nat) (e : Log), tabFind s.logs id = some e → s.quiet e.gk = false → e.kind = .load →
    ((partKeys e).filter fun j => partSt e j = .todo && (s.loadSet id e j).all s.canLoad) = [k] → s.loadSet id e k = [(id, k)] → s.readAt e.gk (k / 64) (partAddr e k) e.unit .l1 = .ok x p u → State.logDone { e with st := tabPut e.st k .done } = false →
    ∃ t, exec (.loadReturn id) s = .next t ∧ t.mem = u.mem ∧ tabFind t.logs id = some { e with got := tabPut e.got (k / 64) x, st := tabPut e.st k .done, tr := max e.tr p }) ∧
  ∀ (s : State) (id : Nat) (e : Log), tabFind s.logs id = some e → s.quiet e.gk = false →
    ∃ t, exec (.operandLogReplay id) s = .next t ∧ t = { s with logs := t.logs, agenda := s.agenda ++ State.entryEvents id e } ∧
      ∃ f, tabFind t.logs id = some f ∧ f = { e with st := f.st } ∧ ∀ k, tabGet LaneSt.todo f.st k = match tabGet LaneSt.todo e.st k with | .faulted _ => .todo | x => x

/-- The home slices: a read, once its line has a place, fills the core's L1 with a lease of 256 ns, or 32 ns when the line was stored to within 4,000 ns, and raises the horizon; a full slice lets a line go whose horizon has passed, and the access waits while none has; INVALIDATE drops every matching TLB entry, and waits for the accesses that a dropped entry sent to another device; a walk whose request is still queued fills both TLBs, sets A and completes the requests that joined it (R111, R120 to R122, R124, R138). It rests on choices of the model: logs 7, 55 and 88. -/
def Obligations.HomeEvents : Prop :=
  (∀ (s u : State) (c pa : Nat) (row1 : Bool), s.allocLine (pa / 128) = some u → (s.core c).l1.length < 1024 →
    ∃ t l, exec (.homeRead c pa row1) s = .next t ∧ tabFind (t.core c).l1 (pa / 128) = some l ∧ l.data = bytesOf (memNat s.mem.dram (pa / 128 * 128) 128) 128 ∧ l.row1 = row1 ∧
      l.remote = false ∧ l.expiry = s.sliceTime (sliceOf (pa / 128 * 128)) +
        (if (tabFind s.mem.lastWrite (pa / 128)).any fun w => s.sliceTime (sliceOf (pa / 128 * 128)) ≤ w + 4000 then 32 else 256) ∧
      (row1 = false → l.expiry ≤ tabGet 0 t.mem.horizon (pa / 128)) ∧ t.mem.dram = s.mem.dram) ∧
  (∀ (s : State) (slice line : Nat) (held : Tab Bool), slice = sliceOf (line * 128) → held = s.mem.resident.filter (fun e => sliceOf (e.1 * 128) = slice) → tabGet false s.mem.resident line = false →
    (held.length < 65536 → ∃ t, exec (.sliceEvictWait slice line) s = .next t ∧ t.mem = { s.mem with resident := t.mem.resident } ∧
      ∀ l, tabGet false t.mem.resident l = if l = line then true else tabGet false s.mem.resident l) ∧
    (65536 ≤ held.length → (∀ e ∈ held, s.sliceTime slice < tabGet 0 s.mem.horizon e.1) → exec (.sliceEvictWait slice line) s = .next (s.post [.sliceEvictWait slice line])) ∧
    (65536 ≤ held.length → (∃ e ∈ held, tabGet 0 s.mem.horizon e.1 ≤ s.sliceTime slice) →
      ∃ t e, exec (.sliceEvictWait slice line) s = .next t ∧ e ∈ held ∧ tabGet 0 s.mem.horizon e.1 ≤ s.sliceTime slice ∧ t.mem = { s.mem with resident := t.mem.resident } ∧
        ∀ l, tabGet false t.mem.resident l = if l = line then true else if l = e.1 then false else tabGet false s.mem.resident l)) ∧
  (∀ (s : State) (asid lo hi : Nat) (mine : Nat × Nat × Nat × List Nat → Bool), mine = (fun e => e.1 = asid && e.2.1 = lo && e.2.2.1 = hi) →
    (s.invals.find? mine = none → ∃ t, exec (.invalidate asid lo hi) s = .next t ∧
      t = { s with cores := t.cores, dieTlb := t.dieTlb, walks := t.walks, invals := t.invals, agenda := t.agenda, mem := { s.mem with frames := t.mem.frames, pinned := t.mem.pinned } } ∧
      (∀ c, (t.core c) = { s.core c with tlb := (t.core c).tlb }) ∧
      (∀ c x, x ∈ (t.core c).tlb ↔ x ∈ (s.core c).tlb ∧ ¬ (x.asid = asid ∧ lo < x.base + x.size ∧ x.base < hi)) ∧
      (∀ d x, x ∈ tabGet [] t.dieTlb d ↔ x ∈ tabGet [] s.dieTlb d ∧ ¬ (x.asid = asid ∧ lo < x.base + x.size ∧ x.base < hi)) ∧
      ((∀ e ∈ s.share.remote, ¬ (e.2.pkt.asid = asid ∧ lo ≤ e.2.pkt.va ∧ e.2.pkt.va < hi)) → t.agenda = s.agenda ∧ t.invals = s.invals) ∧
      ((∃ e ∈ s.share.remote, e.2.pkt.asid = asid ∧ lo ≤ e.2.pkt.va ∧ e.2.pkt.va < hi) → t.agenda = s.agenda ++ [.invalidate asid lo hi])) ∧
    ∀ e, s.invals.find? mine = some e →
      ((∃ a ∈ e.2.2.2, (tabFind s.share.remote a).isSome = true) → exec (.invalidate asid lo hi) s = .next (s.post [.invalidate asid lo hi])) ∧
      ((∀ a ∈ e.2.2.2, tabFind s.share.remote a = none) → exec (.invalidate asid lo hi) s = .next { s with invals := s.invals.filter fun e => !mine e })) ∧
  ∀ (s u : State) (c asid va pa size : Nat) (e : DWord), s.walk asid va = .page pa e size → (s.walkReads asid va).foldl State.readLevel (some s) = some u →
    (∃ w ∈ s.walksOf (State.dieOf c), w.asid = asid ∧ w.vpn = va / 65536 ∧ w.back = false) →
    (((s.walksOf (State.dieOf c)).filter fun w => !w.back).takeWhile fun w => !(w.asid = asid && w.vpn = va / 65536)).length < 64 →
    ∃ t, exec (.tableWalk c asid va) s = .next t ∧ t.peek c asid va = .page pa e size ∧
      ⟨asid, va / size * size, size, e⟩ ∈ (t.core c).tlb ∧ ⟨asid, va / size * size, size, e⟩ ∈ tabGet [] t.dieTlb (State.dieSet (State.dieOf c) size va) ∧
      (t.frameOf (pa / 65536)).a = true ∧ t.mem.dram = s.mem.dram ∧
      ∀ w ∈ t.walksOf (State.dieOf c), ¬ (w.asid = asid ∧ va / size * size ≤ w.vpn * 65536 ∧ w.vpn * 65536 < va / size * size + size)

/-- Service of a zero-filled page takes a free frame, zeroes it and writes the leaf; an eviction first writes the leaf as kind 4, then moves the page's bytes to host memory and leaves a kind-2 entry and a free frame that reads zero, or gives the page back when it was touched meanwhile, and of a frame that is not queued it is the model's one fault; the sweeper clears A, or queues a frame that has stayed clear while the ring has room; retiring; and background zeroing, which leaves a frame that has been touched (R2, R101, R119, R123 to R126, R270). It rests on choices of the model: logs 21, 23 and 77. -/
def Obligations.FrameEvents : Prop :=
  (∀ (s : State) (c asid va at_ f : Nat) (e : DWord), s.walk asid va = .absent 1 e at_ → s.freeFrame = some f →
    ∃ t, exec (.faultService c asid va) s = .next t ∧ memNat t.mem.dram at_ 8 = (Pte.serviced e (f * 65536)).toNat ∧
      (∀ a, a < at_ ∨ at_ + 8 ≤ a → tabGet 0 t.mem.dram a = if a / 65536 = f then 0 else tabGet 0 s.mem.dram a) ∧
      tabGet Frame.free t.mem.frames f = ⟨s.ctxOf asid, false, false, false, false, false⟩ ∧ t.groups = s.groups ∧
      ∀ i w, (i, w) ∈ s.logs → s.asidOf w.gk = asid → s.quiet w.gk = false → State.faultedOn w (va / 65536) ≠ [] → .operandLogReplay i ∈ t.agenda) ∧
  (∀ (s : State) (asid va pa payload f : Nat) (peer : Option Nat), f = pa / 65536 →
    (tabFind s.mem.evicting f = none → f ∉ s.mem.coldQueue → exec (.frameEvict asid va pa peer payload) s = .fault .noSuchObject) ∧
    (∀ q e, tabFind s.mem.evicting f = none → f ∈ s.mem.coldQueue → s.walk asid va = .page q e 65536 → q / 65536 = f → Pte.s e = false →
      ∃ t, exec (.frameEvict asid va pa peer payload) s = .next t ∧ f ∉ t.mem.coldQueue ∧ tabFind t.mem.evicting f = some ⟨s.leafPlace asid va, e, false, 0⟩ ∧
        t.mem.dram = memPut s.mem.dram (s.leafPlace asid va) (Pte.evicted e 4 0 0).toNat 8 ∧ .frameEvict asid va pa peer payload ∈ t.agenda) ∧
    (∀ v, tabFind s.mem.evicting f = some v → v.sent = false → (s.frameOf f).a = true →
      ∃ t, exec (.frameEvict asid va pa peer payload) s = .next t ∧ (t.frameOf f).q = false ∧ tabFind t.mem.evicting f = none ∧ t.mem.dram = memPut s.mem.dram v.at_ v.leaf.toNat 8) ∧
    ∀ v, MemOk s → tabFind s.mem.evicting f = some v → v.sent = false → (s.frameOf f).a = false → peer = none →
      ∃ t, exec (.frameEvict asid va pa peer payload) s = .next t ∧ tabFind t.mem.evicting f = none ∧ tabGet Frame.free t.mem.frames f = Frame.free ∧
        t.mem.dram = memPut (s.mem.dram.filter fun b => b.1 / 65536 ≠ f) v.at_ (Pte.evicted v.leaf 2 payload 0 &&& 0xBFFFFFFFFFFFFFFF).toNat 8 ∧ payload ∈ t.mem.hostPages ∧
        (∀ o < 65536, tabGet 0 t.mem.host (payload * 65536 + o) = tabGet 0 s.mem.dram (f * 65536 + o)) ∧
        ∀ a, a / 65536 ≠ payload → tabGet 0 t.mem.host a = tabGet 0 s.mem.host a) ∧
  (∀ s : State, (∀ i < 8, tabGet i s.mem.hands i % 8 = i) → (s.freeFrames + s.mem.coldQueue.length) * 1000 < s.mem.watermark * Config.frames →
    ∃ t, exec .sweeperStep s = .next t ∧ ∀ i h x, i < 8 → h = tabGet i s.mem.hands i → x = s.frameOf h →
      (x.f = true ∨ x.p = true ∨ x.q = true → t.frameOf h = x ∧ tabGet i t.mem.hands i = if h + 8 < Config.frames then h + 8 else i) ∧
      (x.f = false → x.p = false → x.q = false → x.a = true → t.frameOf h = { x with a := false } ∧ tabGet i t.mem.hands i = if h + 8 < Config.frames then h + 8 else i) ∧
      (x.f = false → x.p = false → x.q = false → x.a = false → s.mem.coldQueue.length + 8 ≤ 262144 →
        t.frameOf h = { x with q := true } ∧ h ∈ t.mem.coldQueue ∧ tabGet i t.mem.hands i = if h + 8 < Config.frames then h + 8 else i) ∧
      (x.f = false → x.p = false → x.q = false → x.a = false → 262144 ≤ s.mem.coldQueue.length → t.frameOf h = x ∧ t.mem.coldQueue = s.mem.coldQueue ∧ tabGet i t.mem.hands i = h)) ∧
  (∀ (s : State) (pa : Nat), pa / 65536 ∉ s.mem.retired → pa / 65536 < Config.frames →
    exec (.pageRetire pa) s = .next { s with mem := { s.mem with retired := s.mem.retired ++ [pa / 65536] } }) ∧
  ∀ (s : State) (pa : Nat), ∃ t, exec (.backgroundZero pa) s = .next t ∧
    (tabFind s.mem.frames (pa / 65536) = none → (s.frameOf (pa / 65536)).f = true → s.sys.spared = [] → s.sys.zeroing = true →
      ∀ a, tabGet 0 t.mem.dram a = if a / 65536 = pa / 65536 then 0 else tabGet 0 s.mem.dram a) ∧
    ((tabFind s.mem.frames (pa / 65536)).isSome = true ∨ s.sys.zeroing = false → t.mem = s.mem)

/-- CPY and CPYH start one operation for each true-guard lane, under its handle, with operands as captured and every destination line to be written; a scratchpad line is absent until then; with no true-guard lane nothing starts. A line waits for the thread's older stores and for older accesses to it. It is written with the source's bytes, of an overlapping copy with those that the source had before the first write, or each overlapped byte with either where the destination lies above the source; it becomes present, and a line that a later copy has written already is left to that. With the last line the copy is complete and the lanes that wait for it run (R90, R107, R112 to R114, R302, R303). It rests on choices of the model: logs 50, 51 and 87. -/
def Obligations.CopyResults : Prop :=
  (∀ e ∈ ([(.cpy, false), (.cpyh, true)] : List ((CpyArgs → Instr) × Bool)), ∀ (x : CpyArgs) (s : State),
    s.Ready ((x.a.toNat, 2) :: (x.b.toNat, 2) :: [(x.c.toNat, if e.2 then 4 else 1)]) [] → (s.trueLanes x.guard = 0 → ∃ t, exec (e.1 x) s = .next t ∧ s.Done t id) ∧
    (s.trueLanes x.guard ≠ 0 → s.HandleFree (s.trueLanes x.guard) x.h.toNat →
    s.copyChecks x e.2 (s.trueLanes x.guard) = none → s.ctrFull 0 = false → s.copiesOn s.curCore + popMask (s.trueLanes x.guard) ≤ 64 →
    ∃ t, exec (e.1 x) s = .next t ∧ s.Started t (popMask (s.trueLanes x.guard)) 0 ∧ ∀ i, (s.trueLanes x.guard).getLsbD i →
      ∃ id o, t.g.rdH x.h.toNat i = id ∧ s.nextOp ≤ id ∧ id < s.nextOp + popMask (s.trueLanes x.guard) ∧ t.op id = o ∧ o.kind = (if e.2 then .tile else .copy) ∧
        o.gk = s.cur.gk ∧ o.lane = i ∧ o.args = copyArgs s x e.2 i ∧ o.todo = State.copyLines o ∧ o.st = (if o.todo = [] then .complete else .pending) ∧
        ∀ l ∈ o.todo, .copyLineWrite id l ∈ t.agenda ∧
          ∀ p, s.placeOf s.cur.gk i (128 * l) 1 = some (.scratch p) → tabGet false t.mem.absent (p / 128) = true)) ∧
  (∀ (s : State) (id line : Nat) (o : Op), o = s.op id → o.st = .pending → line ∈ o.todo → switchedOut o.gk = false →
    (s.priorStores o (opSnap o) = true ∨ (∃ q, s.placeOf o.gk o.lane (128 * line) 1 = some (.scratch q) ∧ s.priorLine (opSnap o) (q / 128) = true) →
      ∃ t, exec (.copyLineWrite id line) s = .next t ∧ t = s.post [.copyLineWrite id line]) ∧
    (s.priorStores o (opSnap o) = false → (∀ q, s.placeOf o.gk o.lane (128 * line) 1 = some (.scratch q) → s.priorLine (opSnap o) (q / 128) = false) →
    s.remoteBusy (opWaiter id) (2 ^ 64 + line) = false →
      (s.superseded id o line = true ∨ State.lineSegment o line = none → ∃ t, exec (.copyLineWrite id line) s = .next t ∧ s.LineWritten s t id line 0) ∧
      ∀ d a n r pos, s.superseded id o line = false → State.lineSegment o line = some (d, a, n, r, pos) →
        (∀ x p u v, s.copyOverlaps o = false → State.engRange id o r.2.1 r.2.2 4 a n s = .ok x u → u.engWrite id o d n x (2 ^ 64 + line) = .ok p v →
          ∃ t, exec (.copyLineWrite id line) s = .next t ∧ s.LineWritten v t id line p) ∧
        (∀ x u, s.copyOverlaps o = true → o.src = [] → State.copySnapshot id o (copyRows o) s = .ok x u → ∃ t, exec (.copyLineWrite id line) s = .next t ∧
          t = (u.modOp id fun o => { o with src := bytesOf x ((copyRows o).foldl (fun m r => m + r.2.2) 0) }).post [.copyLineWrite id line]) ∧
        ∀ old p v, s.copyOverlaps o = true → o.src ≠ [] → old = natOf ((o.src.drop pos).take n) →
          (o.args.getD 0 0 ≤ o.args.getD 1 0 → s.engWrite id o d n old (2 ^ 64 + line) = .ok p v → ∃ t, exec (.copyLineWrite id line) s = .next t ∧ s.LineWritten v t id line p) ∧
          ∀ x u, o.args.getD 1 0 < o.args.getD 0 0 → State.engRange id o r.2.1 r.2.2 4 a n s = .ok x u →
            State.engWrite { u with ticks := u.ticks + n } id o d n (State.mixBytes x old s.ticks n) (2 ^ 64 + line) = .ok p v →
            ∃ t, exec (.copyLineWrite id line) s = .next t ∧ s.LineWritten v t id line p)) ∧
  (∀ (fresh now salt n j : Nat), j < n → State.mixBytes fresh now salt n / 256 ^ j % 256 = fresh / 256 ^ j % 256 ∨ State.mixBytes fresh now salt n / 256 ^ j % 256 = now / 256 ^ j % 256) ∧
  ∀ (s : State) (id : Nat), (s.op id).st = .pending → (s.op id).todo = [] → ∃ t, exec (.copyComplete id) s = .next t ∧ (t.op id).st = .complete ∧ (t.op id).result = 0 ∧
    t.mem = s.mem ∧ (∀ k, k ≠ id → t.op k = s.op k) ∧ ∀ k i, i < 32 → (s.grp k).waitOf i = .handle id → (t.grp k).waitOf i = .run

/-- HTST answers 0 for a pending handle and 1 for any other, without blocking; HCAN ends a pending copy with code 0x80; HMOV makes both handles follow one operation, with the report of its failure as the source has it (R329 to R331). It rests on choices of the model: logs 52 and 71. -/
def Obligations.HandleInstructions : Prop :=
  (∀ (x : HandArgs) (s : State), s.Ready [] [] → ∃ t, exec (.htst x) s = .next t ∧ s.Done t fun g => g.each (s.trueLanes x.guard) fun h i =>
    h.wrP x.d.toNat i (decide (s.g.rdH x.h.toNat i = 0 ∨ (s.op (s.g.rdH x.h.toNat i)).st ≠ .pending))) ∧
  (∀ (x : HandArgs) (s : State), s.Ready [] [] → ∃ t, exec (.hcan x) s = .next t ∧ s.Advanced t ∧ t.mem.dram = s.mem.dram ∧ t.mem.scratch = s.mem.scratch ∧
    t.mem.vault = s.mem.vault ∧ (∀ k r i, (t.grp k).rdV r i = (s.grp k).rdV r i) ∧ ∀ i id, (s.trueLanes x.guard).getLsbD i → id = s.g.rdH x.h.toNat i → id ≠ 0 →
      (s.op id).st = .pending → (s.op id).kind = .copy ∨ (s.op id).kind = .tile → (t.op id).st = .complete ∧ (t.op id).result = 0x80 ∧ (t.op id).todo = []) ∧
  ∀ (x : HandArgs) (s : State), s.Ready [] [] → s.HandleFree (s.trueLanes x.guard) x.d.toNat → ∃ t, exec (.hmov x) s = .next t ∧ s.Beside t ∧ s.Advanced t ∧
    (∀ i, (s.trueLanes x.guard).getLsbD i → t.g.rdH x.d.toNat i = s.g.rdH x.h.toNat i ∧ t.g.toldOf x.d.toNat i = s.g.toldOf x.h.toNat i) ∧
    (∀ n i, n < 16 → ¬ ((s.trueLanes x.guard).getLsbD i ∧ n = x.d.toNat) → t.g.rdH n i = s.g.rdH n i ∧ t.g.toldOf n i = s.g.toldOf n i) ∧
    t.g = { s.g.commitChain s.cur.mask with pc := t.g.pc, retired := t.g.retired, yieldMark := t.g.yieldMark, h := t.g.h, told := t.g.told, storeP := t.g.storeP, farP := t.g.farP }

/-- KPACK.a writes each lane's packed elements from D and joins the flags; KPACK.b writes 128 bits of the path's plate to each lane; KEXT writes the exact slots of the image; their register runs follow from the format word (R174, R177, R185, R336, R338, R339). -/
def Obligations.KilnRegisters : Prop :=
  (∀ (x : KpackArgs) (s : State) (w : Word) (k : KWord) (n : Nat) (l : Nat → List Word) (f : Nat → DWord), s.Ready [(x.d.toNat, 1), (x.a.toNat, 1), (x.c.toNat, 1)] [] →
    s.trueLanes x.guard ≠ 0 → (∀ i, (s.trueLanes x.guard).getLsbD i → s.g.rdV x.c.toNat i = w) → k = kWord w → kBadWord k = false → k.t * kDigits k.a k.w ≤ 128 →
    (k.a = 13 → x.a.toNat % 2 = 0) → n = (if k.a = 0 then (k.t + 15) / 16 else (k.t * kDigits k.a k.w + 3) / 4) + (if kScaled k.a then 1 else 0) →
    s.Ready [(x.d.toNat, n), (x.a.toNat, if k.a = 13 then 2 * k.t else k.t)] [] →
    (∀ i, (s.trueLanes x.guard).getLsbD i → kPackA k (fun j => if k.a = 13 then (s.g.rdPair (x.a.toNat + 2 * j) i).toNat else (s.g.rdV (x.a.toNat + j) i).toNat) = .ok (l i, f i)) →
    ∃ t, exec (.kpackA x) s = .next t ∧ s.Beside t ∧ s.Advanced t ∧
      (∀ i j v, (s.trueLanes x.guard).getLsbD i → (l i)[j]? = some v → t.g.rdV (x.d.toNat + j) i = v) ∧
      (∀ r i, i < 32 → ¬ ((s.trueLanes x.guard).getLsbD i ∧ x.d.toNat ≤ r ∧ r < x.d.toNat + (l i).length) → t.g.rdV r i = s.g.rdV r i) ∧
      t.g.status = (lanesOf (s.trueLanes x.guard)).foldl (fun a i => a ||| f i) s.flags ∧
      t.g = { s.g.commitChain s.cur.mask with v := t.g.v, status := t.g.status, pc := t.g.pc, retired := t.g.retired, yieldMark := t.g.yieldMark }) ∧
  (∀ (x : KpackArgs) (s : State) (w : Word) (k : KWord) (z : Nat → Int), s.Ready [(x.d.toNat, 4), (x.a.toNat, 1), (x.c.toNat, 1)] [] → s.trueLanes x.guard ≠ 0 →
    (∀ i, (s.trueLanes x.guard).getLsbD i → s.g.rdV x.c.toNat i = w) → k = kWord w → kBadWord k = false → s.Ready [(x.a.toNat, (kSlots k + 31) / 32)] [] →
    (∀ j < kSlots k, if (s.trueLanes x.guard).getLsbD (j % 32) then kElemB k.b k.w (s.g.rdV (x.a.toNat + j / 32) (j % 32)).toNat = some (z j) else z j = 0) →
    ∃ t, exec (.kpackB x) s = .next t ∧ s.Beside t ∧ s.Advanced t ∧
      (∀ i j, (s.trueLanes x.guard).getLsbD i → j < 4 → t.g.rdV (x.d.toNat + j) i =
        BitVec.ofNat 32 (wrapNat 4096 ((List.range (kSlots k)).foldr (fun j a => z j + a * (2 ^ kSlot k : Nat)) 0) / 2 ^ (128 * i + 32 * j))) ∧
      (∀ r i, i < 32 → ¬ ((s.trueLanes x.guard).getLsbD i ∧ x.d.toNat ≤ r ∧ r < x.d.toNat + 4) → t.g.rdV r i = s.g.rdV r i) ∧
      t.g = { s.g.commitChain s.cur.mask with v := t.g.v, pc := t.g.pc, retired := t.g.retired, yieldMark := t.g.yieldMark }) ∧
  (∀ (x : KextArgs) (s : State) (w : Word) (k : KWord) (a : Nat → Nat), s.Ready [(x.d.toNat, 1), (x.a.toNat, 2), (x.c.toNat, 1)] [] → s.trueLanes x.guard ≠ 0 →
    (∀ i, (s.trueLanes x.guard).getLsbD i → s.g.rdV x.c.toNat i = w) → k = kWord w → kBadWord k = false → x.first.toNat + x.count.toNat < 4608 / kSlot k → k.out ≠ 3 →
    s.Ready [(x.d.toNat, x.count.toNat + 1)] [] → (∀ i, a i = (s.g.rdPair x.a.toNat i).toNat) →
    (∀ i, (s.trueLanes x.guard).getLsbD i → canonical (a i) = true ∧ a i % 64 = 0 ∧ touchesHole (a i) 576 = false ∧ apertureOf (a i) ≠ .glob ∧ apertureOf (a i) ≠ .priv ∧
      s.rangeHeld s.cur.gk i (a i) 576 = true ∧ s.rangeAbsent s.cur.gk i (a i) 576 = false ∧ s.blocked s.nextLog (probeLog s.cur.gk (s.trueLanes x.guard) 576 i (a i)) (64 * i) = false) →
    ∃ t, exec (.kext x) s = .next t ∧ s.Beside t ∧ s.Advanced t ∧
      (∀ i j c, (s.trueLanes x.guard).getLsbD i → j ≤ x.count.toNat →
        (kExtract (kSlot k) (x.first.toNat + x.count.toNat + 1) (toSigned 4608 (s.arrayBytes s.cur.gk i (a i) 576)))[x.first.toNat + j]? = some c →
        t.g.rdV (x.d.toNat + j) i = (kOutWord k.out c).1.setWidth 32) ∧
      (∀ r i, i < 32 → ¬ ((s.trueLanes x.guard).getLsbD i ∧ x.d.toNat ≤ r ∧ r ≤ x.d.toNat + x.count.toNat) → t.g.rdV r i = s.g.rdV r i) ∧
      t.g = { s.g.commitChain s.cur.mask with v := t.g.v, status := t.g.status, pc := t.g.pc, retired := t.g.retired, yieldMark := t.g.yieldMark }) ∧
  ∀ (s n : Nat) (v : Int), 0 < s → (∀ c ∈ kExtract s n v, -(2 ^ (s - 1) : Nat) ≤ c ∧ c < (2 ^ (s - 1) : Nat)) ∧
    ((kExtract s n v).foldr (fun (c z : Int) => c + z * (2 ^ s : Nat)) 0 - v) % (2 ^ (s * n) : Nat) = 0

/-- KPASS and KWIN start one operation for each true-guard lane and one request for each quarter of the path that has one; with no true-guard lane nothing starts. A request whose plates, and of a scaled format scales, are fetched is eligible. Of the sets of requests that are full or whose oldest has waited 64 cycles, the one of highest priority, then the oldest, fires once the chamber is free, and none fires while a line of scales is on its way to a request of the chamber. Its outputs, one element at a time from 80 cycles after the last step, complete the lanes' operations. KSTAB writes its descriptor to the context's table as a store of its true-guard lanes, and the tensor's lines leave the scale caches (R171, R178 to R183, R186 to R189, R337, R340). It rests on choices of the model: logs 53, 54 and 91. -/
def Obligations.KilnPasses : Prop :=
  (∀ e ∈ ([(.kpass, false), (.kwin, true)] : List ((KpassArgs → Instr) × Bool)), ∀ (x : KpassArgs) (s : State) (w : Word) (k : KWord) (mode steps base ss sel n z : Nat),
    mode = (if e.2 then 2 else if x.conv then 1 else 0) → s.Ready [(x.a.toNat, 1), (x.b.toNat, 2), (x.c.toNat, 1), (x.dst.toNat, 2)] [(x.ss.toNat, 1)] →
    (s.trueLanes x.guard = 0 → ∃ t, exec (e.1 x) s = .next t ∧ s.Done t id) ∧
    (s.trueLanes x.guard ≠ 0 → s.HandleFree (s.trueLanes x.guard) x.h.toNat → steps = x.steps.toNat + 1 → ss = (s.g.rdS x.ss.toNat).toNat → sel = (s.g.rdS (x.ss.toNat + 1)).toNat →
    (∀ i, (s.trueLanes x.guard).getLsbD i → (s.g.rdPair x.b.toNat i).toNat = base ∧ s.g.rdV x.c.toNat i = w) → k = kWord w → kBadPass k mode steps = false →
    (kScaled k.a = true → x.ss.toNat ≠ 255 ∧ s.hitsPending [] [(x.ss.toNat + 1, 1)] = false ∧ sel < 2 ^ 40) → (mode = 2 → ss < 2 ^ 36) →
    s.Ready [(x.a.toNat, (if k.a = 0 then (steps + 15) / 16 else (steps + 3) / 4) + (if kScaled k.a then 1 else 0))] [] → kMin k ≤ kSlot k →
    n = steps / kDigits k.a k.w → n ≤ k.t → (∀ i, (s.trueLanes x.guard).getLsbD i → k.a = 0 → 2 ∉ s.kStream k x.a.toNat steps i) →
    s.passChecks k mode n (s.trueLanes x.guard) base ss (fun i => (s.g.rdPair x.dst.toNat i).toNat) = none → s.ctrFull 1 = false →
    z = ((List.range 4).filter fun q => (lanesOf (s.trueLanes x.guard)).any fun i => i / 8 = q).length → s.reserved (chamberOf s.curCore) + z ≤ 64 →
    ∃ t, ∃ f : Nat → Nat, exec (e.1 x) s = .next t ∧ s.Started t (popMask (s.trueLanes x.guard)) 1 ∧ t.nextKreq = s.nextKreq + z ∧ (∀ i j, (s.trueLanes x.guard).getLsbD i → (s.trueLanes x.guard).getLsbD j → (f i = f j ↔ i / 8 = j / 8)) ∧
      ∀ i, (s.trueLanes x.guard).getLsbD i → ∃ id q, t.g.rdH x.h.toNat i = id ∧ s.nextKreq ≤ f i ∧ f i < s.nextKreq + z ∧
        s.nextOp ≤ id ∧ id < s.nextOp + popMask (s.trueLanes x.guard) ∧ (t.op id).st = .pending ∧ (t.op id).kind = (if e.2 then .kwin else .kpass) ∧ (t.op id).lane = i ∧
        tabFind t.kreqs (f i) = some q ∧ (i, id) ∈ q.ops ∧ q.chamber = chamberOf s.curCore ∧ q.mode = mode ∧ q.fmt = w ∧ q.steps = steps ∧ q.base.toNat = base ∧ q.ss.toNat = ss ∧
        q.sel.toNat = (if kScaled k.a then sel else 0) ∧ q.eligible = false ∧ q.fired = none ∧ q.issued = s.cycle ∧ q.prio = s.tm.prio ∧ (i, s.kStream k x.a.toNat steps i) ∈ q.digits ∧
        (i, s.g.rdV x.a.toNat i) ∈ q.ascale ∧ (i, s.g.rdPair x.dst.toNat i) ∈ q.dst ∧ .kilnEligible (f i) ∈ t.agenda)) ∧
  (∀ (s u : State) (req z : Nat) (r : Kreq) (o : Op) (plates : List Int), tabFind s.kreqs req = some r → r.eligible = false → o = s.op (r.ops.headD (0, 0)).2 →
    ((r.ops.any fun e => s.priorStores (s.op e.2) (opSnap o)) = true ∨ s.platesAbsent o = true ∨ s.plateRoom r (srcRanges o).length = false →
      ∃ t, exec (.kilnEligible req) s = .next t ∧ t = s.post [.kilnEligible req]) ∧
    ((∀ e ∈ r.ops, s.priorStores (s.op e.2) (opSnap o) = false) → s.platesAbsent o = false → s.plateRoom r (srcRanges o).length = true →
    State.fetchPlates (r.ops.headD (0, 0)).2 o (kWord r.fmt) r.mode (srcRanges o) s [] = (.ok z u, plates) →
      (kScaled (kWord r.fmt).a = false → ∃ t, exec (.kilnEligible req) s = .next t ∧
        tabFind t.kreqs req = some { r with plates := plates, scales := [], eligible := true, miss := false } ∧ .kilnFire r.chamber ∈ t.agenda ∧ t.mem = u.mem) ∧
      ∀ m b x v y, kScaled (kWord r.fmt).a = true → m = kCount (kWord r.fmt) r.mode (r.steps / kDigits (kWord r.fmt).a (kWord r.fmt).w) → b = (if kIsWin (kWord r.fmt).a then 2 else 1) →
        (State.fetchScales (r.ops.headD (0, 0)).2 o (r.chamber / 2) (s.grid (s.team (teamOf r.gk)).grid).scales r.sel.toNat m b u = (.ok x v, y) → ∃ t, exec (.kilnEligible req) s = .next t ∧
          tabFind t.kreqs req = some { r with plates := plates, scales := (List.range m).map fun j => x / 256 ^ (b * j) % 256 ^ b, eligible := true, miss := false } ∧ .kilnFire r.chamber ∈ t.agenda ∧ t.mem = v.mem) ∧
        (State.fetchScales (r.ops.headD (0, 0)).2 o (r.chamber / 2) (s.grid (s.team (teamOf r.gk)).grid).scales r.sel.toNat m b u = (.wait v, true) → r.fired = none → ∃ t, exec (.kilnEligible req) s = .next t ∧
          t = State.post { v with kreqs := tabPut v.kreqs req { r with miss := true } } [.kilnEligible req] ∧ t.chamberStalled r.chamber = true))) ∧
  (∀ (s : State) (ch : Nat) (e : Nat × Kreq) (l : List (Nat × Kreq)) (ready : List (Nat × Kreq) → Bool), ready = (fun l => l.length = 32 || (match l with | e :: _ => e.2.issued + 64 ≤ s.cycle | [] => false)) →
    s.chamberStalled ch = false → s.chamberFree ch ≤ s.cycle → e :: l ∈ s.fusionSets ch → ready (e :: l) = true → ((e :: l).map (·.1)).Nodup →
    (∀ f m, f :: m ∈ s.fusionSets ch → ready (f :: m) = true → f :: m = e :: l ∨ f.2.prio < e.2.prio ∨ (f.2.prio = e.2.prio ∧ (e.2.issued < f.2.issued ∨ (e.2.issued = f.2.issued ∧ e.1 < f.1)))) →
    ∃ t, exec (.kilnFire ch) s = .next t ∧ t.mem = s.mem ∧
      (∀ q ∈ e :: l, tabFind t.kreqs q.1 = some { q.2 with fired := some s.cycle, acc := q.2.digits.map fun d => (d.1, kAcc (kWord q.2.fmt) q.2.mode d.2 q.2.plates) } ∧
        ∀ o ∈ q.2.ops, .kilnOutput q.1 o.1 ∈ t.agenda) ∧ ∀ i, (∀ q ∈ e :: l, q.1 ≠ i) → tabFind t.kreqs i = tabFind s.kreqs i) ∧
  (∀ (s : State) (ch : Nat), s.unfired ch ≠ [] → s.chamberStalled ch = true → ∃ t, exec (.kilnFire ch) s = .next t ∧ t = s.post [.kilnFire ch]) ∧
  (∀ (s : State) (req lane id f : Nat) (r : Kreq), tabFind s.kreqs req = some r → id = tabGet 0 r.ops lane → id ≠ 0 → (s.op id).st = .pending → r.fired = some f →
    (s.cycle < f + r.steps + 80 ∨ s.olderPass id (s.op id) = true → ∃ t, exec (.kilnOutput req lane) s = .next t ∧ t = s.post [.kilnOutput req lane]) ∧
    (f + r.steps + 80 ≤ s.cycle → s.olderPass id (s.op id) = false →
      ((s.op id).todo = [] → ∃ t, exec (.kilnOutput req lane) s = .next t ∧ t.mem = s.mem ∧ (t.op id).st = .complete ∧ (t.op id).result = 0) ∧
      ∀ j rest, (s.op id).todo = j :: rest → (∀ b u, s.kilnElem id r j = .ok (b, u) → ∃ t, exec (.kilnOutput req lane) s = .next t ∧ t.mem = u.mem ∧
      ((u.op id).todo = [] → (u.op id).st = .pending → (t.op id).st = .complete ∧ (t.op id).result = 0) ∧ ((u.op id).todo ≠ [] → t.op id = u.op id)) ∧
      ((kWord r.fmt).out ≠ 0 → apertureOf ((tabGet 0 r.dst (s.op id).lane).toNat + kOutBytes (kWord r.fmt).out * j) ≠ .glob → ∃ u, s.kilnElem id r j = .ok (true, u) ∧ (u.op id).todo = (s.op id).todo.filter (· ≠ j)))) ∧
  (∀ (x : KstabArgs) (s u v : State) (l a d p : Nat), s.Ready [(x.a.toNat, 2)] [] → s.trueLanes x.guard ≠ 0 → l = lowLane (s.trueLanes x.guard) → a = (s.g.rdPair x.a.toNat l).toNat →
    s.issueChecks s.cur.gk (maskOf fun i => i = l) (fun _ => a) 16 false = none → s.gr.scales ≠ 0 → apertureOf a = .glob →
    s.blocked s.nextLog (kstabProbe s.cur.gk (s.trueLanes x.guard) l a false) (64 * l) = false →
    s.blocked s.nextLog (kstabProbe s.cur.gk (s.trueLanes x.guard) l (s.gr.scales + 16 * x.id.toNat) true) (64 * l) = false →
    s.endChain.plainRead s.curCore s.tm.asid s.tm.ctx a 16 (kstabWaiter s.cur.gk l) = .ok d u → d % 2 ^ 64 % 64 = 0 → d / 2 ^ 64 % 2 ^ 32 % 64 = 0 →
    u.plainWrite u.curCore u.tm.asid u.tm.ctx (s.gr.scales + 16 * x.id.toNat) 16 d (kstabWaiter s.cur.gk l) = .ok p v →
    ∃ t, exec (.kstab x) s = .next t ∧ t.mem = v.mem ∧ s.Advanced t ∧ (∀ i, (s.trueLanes x.guard).getLsbD i → tabGet 0 t.g.storeP i = max (tabGet 0 s.g.storeP i) p) ∧ ∀ q y, y ∈ tabGet [] t.scaleCache q → ¬ (y.ctx = s.tm.ctx ∧ y.id = x.id.toNat)) ∧
  ∀ (k : KWord) (digits : List Nat) (plates : List Int), k.a = 3 → digits.length = plates.length →
    kAcc k 0 digits plates = toSigned 4608 (wrapNat 4608 (List.zipWith (fun x p => toSigned 8 x * p) digits plates).sum)

/-- FSEND starts one operation that every true-guard lane's handle follows, with the blocks of the source range to be sent; FSYNC one for every block; FFENCE one flag store for each true-guard lane; each names the next transfer or its device and is due at the engine. FSYNC ends at once where every destination is DOWN, and an FFENCE of a device that is DOWN, or not in the pod, fails. The flag is stored once the lane's prior stores are performed, GTIME has passed those of the device by 20 ns, and nothing older of the lane meets its bytes; to a device that is DOWN it fails with 0x12. In replay mode the three raise PROT with detail 2 (R91, R141, R155, R204, R233, R234, R280, R321 to R325). It rests on choices of the model: logs 105, 121 and 122. -/
def Obligations.FlowInstructions : Prop :=
  (∀ (x : FsendArgs) (s : State) (f : Flow) (l a n off : Nat), s.Ready [(x.a.toNat, 2)] [(x.b.toNat, 1), (x.b.toNat + 1, 1)] → s.trueLanes x.guard ≠ 0 →
    s.HandleFree (s.trueLanes x.guard) x.h.toNat → l = lowLane (s.trueLanes x.guard) → a = (s.g.rdPair x.a.toNat l).toNat → n = (s.g.rdS x.b.toNat).toNat →
    off = (s.g.rdS (x.b.toNat + 1)).toNat → tabFind s.flows x.flow.toNat = some f → f.sender = true → f.ctx = s.tm.ctx → canonical a = true → a % f.esize = 0 →
    off % 4096 = 0 → n % (16 * f.esize) = 0 → off + n ≤ f.frame → oneAperture a n = true → touchesHole a n = false → touchesPriv a n = false →
    s.gr.replay = false → s.rangeHeld s.cur.gk l a n = true → s.ctrFull 3 = false → (∃ d ∈ f.dests, s.peerDown d = false) → n ≠ 0 →
    ∃ t o, exec (.fsend x) s = .next t ∧ s.Started t 1 3 ∧ (∀ i, (s.trueLanes x.guard).getLsbD i → t.g.rdH x.h.toNat i = s.nextOp) ∧ t.op s.nextOp = o ∧ o.kind = .fsend ∧
      o.st = .pending ∧ o.lane = l ∧ o.args = [x.flow.toNat, f.nextTransfer, off, n, a, s.nextLog] ∧ (∀ b, b ∈ o.todo ↔ off / 4096 ≤ b ∧ b ≤ (off + n - 1) / 4096) ∧
      tabFind t.flows x.flow.toNat = some { f with nextTransfer := f.nextTransfer + 1 } ∧ ∀ b ∈ o.todo, .flowBlockSend x.flow.toNat b (if f.multi then 16 else 0) ∈ t.agenda) ∧
  (∀ (x : FsyncArgs) (s : State) (f : Flow), s.Ready [] [] → s.trueLanes x.guard ≠ 0 → tabFind s.flows x.flow.toNat = some f → f.sender = true → f.ctx = s.tm.ctx →
    s.gr.replay = false → s.ctrFull 3 = false →
    ∃ t o g, exec (.fsync x) s = .next t ∧ s.Started { t with mem := s.mem } 1 3 ∧ s.MirrorOnly t f ∧ t.op s.nextOp = o ∧ o.kind = .fsync ∧ o.st = (if f.dests.all s.peerDown then .complete else .pending) ∧ o.todo = List.range (blockCount f.frame) ∧
      tabFind t.flows x.flow.toNat = some g ∧ g.nextTransfer = f.nextTransfer + 1 ∧ (f.multi = false → ∀ b < blockCount f.frame, tabGet false g.owed b = true) ∧
      (f.multi = true → ∀ b < blockCount f.frame, ∀ i < f.dests.length, tabGet false g.slotBehind (16 * b + i) = true) ∧
      ∀ b < blockCount f.frame, .flowBlockSend x.flow.toNat b (if f.multi then 16 else 0) ∈ t.agenda) ∧
  (∀ (x : FfenceArgs) (s : State) (a : Nat → Nat), s.Ready [(x.a.toNat, 2), (x.c.toNat, 1)] [] → s.trueLanes x.guard ≠ 0 → (∀ i, a i = (s.g.rdPair x.a.toNat i).toNat) →
    (∀ i, (s.trueLanes x.guard).getLsbD i → canonical (a i) = true ∧ a i % 4 = 0 ∧ apertureOf (a i) = .glob) → s.gr.replay = false → s.ctrFull 3 = false →
    (s.fab.n ≤ x.dev.toNat ∨ s.peerDown x.dev.toNat = true → ∃ t, exec (.ffence x) s = .next t ∧ s.Advanced t ∧ ∀ id, s.nextOp ≤ id → id < s.nextOp + popMask (s.trueLanes x.guard) →
      (t.op id).kind = .ffence ∧ (t.op id).st = .failed ∧ (t.op id).result = 0x12 ∧ (t.op id).detail = x.dev.toNat) ∧
    (x.dev.toNat < s.fab.n → s.peerDown x.dev.toNat = false → ∃ t, exec (.ffence x) s = .next t ∧ s.Started t (popMask (s.trueLanes x.guard)) 3 ∧ ∀ i, (s.trueLanes x.guard).getLsbD i → ∃ id o, s.nextOp ≤ id ∧
      id < s.nextOp + popMask (s.trueLanes x.guard) ∧ t.op id = o ∧ o.kind = .ffence ∧ o.st = .pending ∧ o.lane = i ∧ o.perf = tabGet 0 s.g.farP (1024 * i + x.dev.toNat) ∧
      o.args = [x.dev.toNat, a i, (s.g.rdV x.c.toNat i).toNat, s.nextLog] ∧ .ffenceFlagStore id ∈ t.agenda)) ∧
  (∀ (x : FsendArgs) (s : State), s.Ready [(x.a.toNat, 2)] [(x.b.toNat, 1), (x.b.toNat + 1, 1)] → s.trueLanes x.guard ≠ 0 → s.gr.replay = true →
    exec (.fsend x) s = s.endChain.raise Cause.prot 2 (maskOf fun i => i = lowLane (s.trueLanes x.guard))) ∧
  (∀ (x : FsyncArgs) (s : State), s.Ready [] [] → s.trueLanes x.guard ≠ 0 → s.gr.replay = true →
    exec (.fsync x) s = s.endChain.raise Cause.prot 2 (maskOf fun i => i = lowLane (s.trueLanes x.guard))) ∧
  (∀ (x : FfenceArgs) (s : State), s.Ready [(x.a.toNat, 2), (x.c.toNat, 1)] [] → s.trueLanes x.guard ≠ 0 → s.gr.replay = true →
    exec (.ffence x) s = s.endChain.raise Cause.prot 2 (s.trueLanes x.guard)) ∧
  ∀ (s : State) (id d : Nat) (o : Op), o = s.op id → o.st = .pending → o.kind = .ffence → d = o.args.getD 0 0 →
    (d < s.fab.n → s.peerDown d = false → s.storesTo o d = false → s.flagHeld id = false → ∀ (u : State) (q : Nat),
      o.perf = 0 ∨ s.reached (coreOf o.gk) (o.perf + 20) = true →
      s.remoteBusy (opWaiter id) (2 ^ 64) = false → s.engWrite id o (o.args.getD 1 0) 4 (o.args.getD 2 0) (2 ^ 64) = .ok q u →
      ∃ t, exec (.ffenceFlagStore id) s = .next t ∧ t.mem = u.mem ∧ (t.op id).st = .complete ∧ (t.op id).result = 0 ∧ (t.op id).perf = q) ∧
    (s.fab.n ≤ d ∨ s.peerDown d = true → ∃ t, exec (.ffenceFlagStore id) s = .next t ∧ (t.op id).st = .failed ∧ (t.op id).result = 0x12 ∧ (t.op id).detail = d ∧
      t.mem.dram = s.mem.dram)

/-- The flow engines: a unicast block that is not in flight takes the operation's bytes into the mirror under the next generation, and is in flight until the acknowledgement that names it; a multicast acknowledgement advances the base when every destination has the latest generation; a resync request owes a raw block; a time-out sends the mirror raw under the next generation; a receiver applies a raw block whole; old buffers go. Memory holds the mirror and the generation table as the engine has them. What the encoder codes, the decoder reads back (R221 to R223, R225 to R232). It rests on choices of the model: logs 24, 56, 57, 58 and 121. -/
def Obligations.FlowEvents : Prop :=
  (∀ (s u : State) (id b i x : Nat) (f : Flow) (o : Op) (new : List Byte), tabFind s.flows id = some f → f.sender = true → f.multi = false → tabGet false f.inflight b = false → tabGet [] f.rest (16 * b) = [] →
    s.hasCredit (f.dests.headD 0) = true → s.flowOp id b = some (i, o) → o.kind = .fsend → s.flowSource i o b (blockOf f.frame f.plane0 b) = .ok x u →
    new = bytesOf x (State.coverOf o b) ++ (blockOf f.frame f.plane0 b).drop (State.coverOf o b) → ∃ t g, exec (.flowBlockSend id b 0) s = .next t ∧
      tabFind t.flows id = some g ∧ blockOf f.frame g.plane0 b = new ∧ tabGet 0 g.gen0 b = (tabGet 0 f.gen0 b + 1) % 256 ∧ tabGet false g.inflight b = true ∧
      tabGet false g.owed b = false ∧ tabFind g.queuedAt b = some s.now ∧ b ∉ (t.op i).todo ∧ ∀ c, c ≠ b → tabGet 0 g.gen0 c = tabGet 0 f.gen0 c ∧
        blockOf f.frame g.plane0 c = blockOf f.frame f.plane0 c) ∧
  (∀ (s : State) (id b k gen : Nat) (f : Flow), tabFind s.flows id = some f → f.sender = true → f.multi = false → tabGet 0 f.gen0 b = gen →
    ∃ t g, exec (.flowAck id b k gen) s = .next t ∧ tabFind t.flows id = some g ∧ g = { f with inflight := g.inflight } ∧ tabGet false g.inflight b = false ∧
      (∀ c, c ≠ b → tabGet false g.inflight c = tabGet false f.inflight c) ∧ .flowBlockSend id b 0 ∈ t.agenda ∧ s.MirrorOnly t f) ∧
  (∀ (s : State) (id b k gen : Nat) (f : Flow), tabFind s.flows id = some f → f.sender = true → f.multi = true → k < f.dests.length → gen = tabGet 0 f.gen1 b →
    (∀ i < f.dests.length, i ≠ k → tabGet 0 f.ackGen (16 * b + i) = gen) → (blockOf f.frame f.plane0 b).length ≤ (blockOf f.frame f.plane1 b).length → ∃ t g, exec (.multicastAck id b k gen) s = .next t ∧ tabFind t.flows id = some g ∧
      tabGet 0 g.ackGen (16 * b + k) = gen ∧ tabGet false g.slotFlight (16 * b + k) = false ∧ tabGet 0 g.gen0 b = gen ∧
      blockOf f.frame g.plane0 b = blockOf f.frame f.plane1 b ∧ s.MirrorOnly t f) ∧
  (∀ (s : State) (id b k : Nat) (f : Flow), tabFind s.flows id = some f → f.sender = true → ∃ t g, exec (.resyncRequest id b k) s = .next t ∧ tabFind t.flows id = some g ∧
    (f.multi = false → g = { f with owed := g.owed } ∧ tabGet false g.owed b = true ∧ .flowBlockSend id b 0 ∈ t.agenda) ∧
    (f.multi = true → tabGet false g.slotBehind (16 * b + k) = true ∧ tabGet false g.slotFlight (16 * b + k) = false ∧ .flowBlockSend id b k ∈ t.agenda)) ∧
  (∀ (s : State) (id b : Nat) (f : Flow), tabFind s.flows id = some f → f.sender = true → f.multi = false → tabGet 0 f.queuedAt b + 16 * s.fab.slotNs < s.now →
    tabGet false f.inflight b = true → ∃ t g, exec (.flowTimeout id b) s = .next t ∧ tabFind t.flows id = some g ∧ tabGet 0 g.gen0 b = (tabGet 0 f.gen0 b + 1) % 256 ∧
      blockOf f.frame g.plane0 b = blockOf f.frame f.plane0 b ∧ tabGet false g.inflight b = true ∧ tabFind g.queuedAt b = some s.now) ∧
  (∀ s : State, ∃ t, exec .reassemblyTimeout s = .next t ∧ t = { s with reasm := t.reasm } ∧ ∀ e, e ∈ t.reasm ↔ e ∈ s.reasm ∧ s.now ≤ e.2.stamp + 16 * s.fab.slotNs) ∧
  (∀ (s u : State) (p : Pkt) (f : Flow) (b k n q : Nat) (data body : List Byte), k = recvKey p.src (segFlow p) → b = segBlock p → tabFind s.flows k = some f →
    p.op ≠ lateAck → p.op ≠ lateRecord → s.behindBlock p = false → data = bytesOf (p.arg 1) (p.arg 2) → natOf ((data.drop 3).take 1) = 1 → body = data.drop 6 →
    body.length = blockBytes f.frame b → (blockOf f.frame f.plane0 b).length ≤ blockBytes f.frame b →
    State.deliver f (f.deliver + 4096 * b) body (body.length / 64 + 3) (p.arg 6) (p.arg 7) s = (n, q, true, u) → ∃ t g, exec (.flowBlockReceive p) s = .next t ∧ tabFind t.flows k = some g ∧
      blockOf f.frame g.plane0 b = body ∧ tabGet 0 g.gen0 b = natOf ((data.drop 2).take 1) ∧ g.raws = f.raws + 1 ∧ u.MirrorOnly t f) ∧
  (∀ (s : State) (id b n : Nat) (f : Flow), tabFind s.flows id = some f → b < blockCount f.frame → n = blockBytes f.frame b →
    f.mirror + mirrorSize f ≤ 65536 * Config.frames → f.table + tableSize f ≤ 65536 * Config.frames → f.mirror + mirrorSize f ≤ f.table ∨ f.table + tableSize f ≤ f.mirror →
    s.MirrorOnly (s.syncFlow id [b]) f ∧ memNat (s.syncFlow id [b]).mem.dram (f.mirror + 4096 * b) n = natOf (blockOf f.frame f.plane0 b) % 256 ^ n ∧
      memNat (s.syncFlow id [b]).mem.dram (f.table + entrySize f * b) (entrySize f) = natOf (tableEntry f b) % 256 ^ entrySize f) ∧
  ∀ (e n fuel : Nat) (new pred : List Byte), e ∈ [1, 2, 4] → new.length = 16 * e * n → pred.length = 16 * e * n → (encodeGroups e n 0 new pred).length ≤ fuel →
    decodeGroups e fuel (encodeGroups e n 0 new pred) pred = some new

/-- The owner cache: the origin's answer fills an entry for 500 µs and the accesses that waited go out, a full cache losing a VALID entry for it, while a device that owns the page keeps none; a redirect to a newer generation makes the entry PENDING until the accesses through the old owner are answered; STALE drops it and asks again; other entries end when they expire. Requesters of parked accesses are told every 2 µs, and a refused access goes out again after 2 µs (R127, R128, R133, R135, R205). It rests on choices of the model: logs 93 and 94. -/
def Obligations.OwnerCacheEvents : Prop :=
  (∀ (s : State) (asid vpn o g k : Nat) (ans : Option (Nat × Nat)) (held : List Pkt), k = 2 ^ 41 * asid + vpn % 2 ^ 41 →
    (if s.originOf asid (65536 * vpn) = s.devid then (s.dir? k).map fun d => (d.owner, d.gen) else ans) = some (o, g) →
    s.ownsPage k = false → held = ((s.owner? k).map fun e => e.held).getD [] → s.peerDown (ownerDevice (s.originOf asid (65536 * vpn)) o) = false →
    ∃ t, exec (.ownerCacheQuery asid vpn ans) s = .next t ∧ t.mem = s.mem ∧ t.groups = s.groups ∧
      t.owner? k = (if o = s.devid then none else some ⟨o, g, false, s.now + 500000, t.throughOf k, []⟩) ∧
      (∀ j e, j ≠ k → s.owner? j = some e → t.owner? j = some e ∨ (t.owner? j = none ∧ e.pending = false ∧ Config.ownerCache ≤ s.share.owners.length ∧ s.owner? k = none)) ∧
      ∀ p ∈ held, ∀ r, tabFind s.share.remote (p.arg 0) = some r → ∃ x, tabFind t.share.remote (p.arg 0) = some x ∧ x.entry = r.entry ∧ x.lane = r.lane ∧
        x.peer = ownerDevice (s.originOf (keyAsid k) (keyVa k)) o) ∧
  (∀ (s : State) (asid vpn k : Nat) (ans : Option (Nat × Nat)) (held : List Pkt), k = 2 ^ 41 * asid + vpn % 2 ^ 41 → s.ownsPage k = true →
    held = ((s.owner? k).map fun e => e.held).getD [] → ∃ t, exec (.ownerCacheQuery asid vpn ans) s = .next t ∧ t.mem = s.mem ∧ t.groups = s.groups ∧ t.owner? k = none ∧
      ∀ p ∈ held, ∀ r, tabFind s.share.remote (p.arg 0) = some r → ∃ x, tabFind t.share.remote (p.arg 0) = some x ∧ x.entry = r.entry ∧ x.lane = r.lane ∧ x.peer = s.devid) ∧
  (∀ (s : State) (asid vpn k : Nat) (ans : Option (Nat × Nat)), k = 2 ^ 41 * asid + vpn % 2 ^ 41 →
    (if s.originOf asid (65536 * vpn) = s.devid then (s.dir? k).map fun d => (d.owner, d.gen) else ans) = none → (∀ e, s.owner? k = some e → e.held = []) →
    ∃ t, exec (.ownerCacheQuery asid vpn ans) s = .next t ∧ t = { s with share := { s.share with owners := t.share.owners } } ∧ t.owner? k = none) ∧
  (∀ (s : State) (asid vpn o g k : Nat) (e : OwnerEntry), k = 2 ^ 41 * asid + vpn % 2 ^ 41 → s.owner? k = some e → e.owner ≠ unknownOwner → o ≠ unknownOwner →
    (e.gen < g → ∃ t, exec (.redirect asid vpn o g) s = .next t ∧ t.mem = s.mem ∧ t.owner? k =
      if o = s.devid then some { e with owner := o, gen := g, pending := true }
      else if s.throughOf k ≠ 0 then some { e with owner := o, gen := g, pending := true, through := s.throughOf k }
      else if e.expiry ≤ s.now then none
      else some { e with owner := o, gen := g, pending := false, held := [], through := t.throughOf k }) ∧ (g ≤ e.gen → exec (.redirect asid vpn o g) s = .next s)) ∧
  (∀ (s : State) (asid vpn k : Nat) (e : OwnerEntry), k = 2 ^ 41 * asid + vpn % 2 ^ 41 → s.owner? k = some e → e.pending = true → e.owner ≠ unknownOwner →
    (s.throughOf k = 0 → ∃ t, exec (.pendingDrain asid vpn) s = .next t ∧ t.mem = s.mem ∧
      t.owner? k = if e.expiry ≤ s.now then none else some { e with pending := false, held := [], through := t.throughOf k }) ∧
    (s.throughOf k ≠ 0 → exec (.pendingDrain asid vpn) s = .next s)) ∧
  (∀ (s : State) (asid vpn k : Nat) (held : List Pkt), k = 2 ^ 41 * asid + vpn % 2 ^ 41 → held = ((s.owner? k).map fun e => e.held).getD [] →
    ∃ t, exec (.stale asid vpn) s = .next t ∧ t.mem = s.mem ∧ t.owner? k = (if held = [] then none else some ⟨unknownOwner, 0, true, s.now, 0, held⟩) ∧
      (held ≠ [] → if s.originOf asid (65536 * vpn) = s.devid then .ownerCacheQuery asid vpn none ∈ t.agenda
        else t.Sends (s.originOf asid (65536 * vpn)) Pk.query asid (65536 * vpn) [])) ∧
  (∀ s : State, ∃ t, exec .ownerCacheExpiry s = .next t ∧ t = { s with share := { s.share with owners := t.share.owners } } ∧
    ∀ e, e ∈ t.share.owners ↔ e ∈ s.share.owners ∧ (e.2.pending = true ∨ s.now < e.2.expiry)) ∧
  (∀ s : State, s.share.notice + 2000 ≤ s.now → (∃ e ∈ s.fab.peers, e.2.parked ≠ []) → ∃ t, exec .keepWaiting s = .next t ∧ t.share.notice = s.now ∧ .keepWaiting ∈ t.agenda ∧
    t.mem = s.mem ∧ ∀ d r i, (d, r) ∈ s.fab.peers → 400 * i < r.parked.length → t.Sends d Pk.waiting 0 0 (s.now :: ((r.parked.drop (400 * i)).take 400).map fun p => p.arg 0)) ∧
  ∀ (s : State) (acc : Nat) (r : Remote), tabFind s.share.remote acc = some r →
    (s.now < r.stamp + 2000 → ∃ t, exec (.nackRetry acc) s = .next t ∧ t = s.post [.nackRetry acc]) ∧
    (r.stamp + 2000 ≤ s.now → ∃ t x, exec (.nackRetry acc) s = .next t ∧ t.Sends r.peer r.pkt.op r.pkt.asid r.pkt.va r.pkt.body ∧ tabFind t.share.remote acc = some x ∧
      x.resent = r.resent ∧ x.stamp = 0 ∧ t.mem = s.mem)

/-- An access at its target: one that a same requester's earlier access to the page, or an earlier access of its source in sequence, precedes waits behind it; a stub relays it to its pointer and does not perform it; during a switchover it is held; at the owner, or in host memory at the origin of a page that HOST owns, it is performed and answered with its result; at a device that neither owns the page nor is a stub for it, it is answered STALE; where an exact-sum element's accumulator is unmapped, it fails. PMIG starts one request for each page that its lanes name, at once answered for a page that this module owns, and all lanes of a page follow the one operation (R129, R130, R133, R135, R137, R152, R203, R205, R363). It rests on choices of the model: logs 22, 59 and 96. -/
def Obligations.AccessEvents : Prop :=
  (∀ (s : State) (p : Pkt), s.behindAccess p = true → (∃ t, exec (.remoteAccess p) s = .next t ∧ t = s.post [.remoteAccess p]) ∧
    ((tabFind s.share.stubs (pageKey p.asid p.va)).isSome = true → ∃ t, exec (.stubRelay p) s = .next t ∧ t = s.post [.stubRelay p])) ∧
  (∀ (s : State) (p : Pkt), s.behindSequence p = true → ∃ t, exec (.remoteAccess p) s = .next t ∧ t = s.post [.remoteAccess p]) ∧
  (∀ (s : State) (p : Pkt) (st : Stub), s.behindAccess p = false → tabFind s.share.stubs (pageKey p.asid p.va) = some st →
    (s.behindSequence p = false → ∃ t, exec (.remoteAccess p) s = .next t ∧ t = s.post [.stubRelay p]) ∧
    ∃ t, exec (.stubRelay p) s = .next t ∧ t.mem = s.mem ∧
      t.Sends st.target (p.op % Pk.viaStub + Pk.viaStub) p.asid p.va ((if Pk.viaStub ≤ p.op then p.body.dropLast else p.body) ++ [st.gen])) ∧
  (∀ (s : State) (p : Pkt), tabFind s.share.stubs (pageKey p.asid p.va) = none → ∃ t, exec (.stubRelay p) s = .next t ∧ t = s.post [.remoteAccess p]) ∧
  (∀ (s : State) (p : Pkt) (m : Mig), s.behindAccess p = false → s.behindSequence p = false → tabFind s.share.stubs (pageKey p.asid p.va) = none → tabFind s.share.migs (pageKey p.asid p.va) = some m →
    m.old = true → m.switched = true → ∃ t, exec (.remoteAccess p) s = .next t ∧ t = { s with share := { s.share with migs := t.share.migs } } ∧
      tabFind t.share.migs (pageKey p.asid p.va) = some { m with held := m.held ++ [p] }) ∧
  (∀ (s : State) (p q : Pkt) (rd : Nat), s.behindAccess p = false → s.behindSequence p = false → tabFind s.share.stubs (pageKey p.asid p.va) = none →
    (∀ m, tabFind s.share.migs (pageKey p.asid p.va) = some m → (m.old && m.switched) = false) →
    q = (if Pk.viaStub ≤ p.op then { p with op := p.op - Pk.viaStub, body := p.body.dropLast } else p) → rd = (if Pk.viaStub ≤ p.op then p.body.getLastD 0 + 1 else 0) →
    (∀ u x tm, s.accessHere q p.asid (s.ctxOf p.asid) = .ok x tm u → ∃ t rest, exec (.remoteAccess p) s = .next t ∧
      t.Sends (q.arg 1) Pk.response p.asid p.va ([q.arg 0, 0, x, tm, rd, u.devid] ++ rest) ∧
      t.mem.dram = u.mem.dram ∧ t.mem.vault = u.mem.vault ∧ t.mem.scratch = u.mem.scratch ∧ t.groups = u.groups) ∧
    (∀ d, s.accessHere q p.asid (s.ctxOf p.asid) = .away s.devid → s.hostHas (pageKey p.asid p.va) = true → s.dir? (pageKey p.asid p.va) = some d → ∃ t rest, exec (.remoteAccess p) s = .next t ∧
      t.Sends (q.arg 1) Pk.response p.asid p.va ([q.arg 0, 0, (s.accessHost q).1, max (s.sliceTime 0) d.horizon, rd, (s.accessHost q).2.devid] ++ rest) ∧
      t.mem = (s.accessHost q).2.mem) ∧
    (∀ o, s.accessHere q p.asid (s.ctxOf p.asid) = .away o → o ≠ s.devid ∨ s.hostHas (pageKey p.asid p.va) = false ∨ s.dir? (pageKey p.asid p.va) = none → ∃ t, exec (.remoteAccess p) s = .next t ∧
      t.Sends (q.arg 1) Pk.stale p.asid p.va [q.arg 0] ∧ t.mem = s.mem ∧ t.groups = s.groups) ∧
    ∀ va a b, s.accessHere q p.asid (s.ctxOf p.asid) = .fault va → s.walk p.asid va = .absent 0 a b →
      (va = p.va → ∃ t, exec (.remoteAccess p) s = .next t ∧ t.Sends (q.arg 1) Pk.stale p.asid p.va [q.arg 0] ∧ t.mem = s.mem ∧ t.groups = s.groups) ∧
      (va ≠ p.va → ∃ t rest, exec (.remoteAccess p) s = .next t ∧ t.Sends (q.arg 1) Pk.response p.asid p.va ([q.arg 0, 1, 0, 0, rd, s.devid] ++ rest) ∧ t.mem = s.mem ∧ t.groups = s.groups)) ∧
  ∀ (x : PmigArgs) (s : State) (a : Nat → Nat), s.Ready [(x.a.toNat, 2)] [] → s.trueLanes x.guard ≠ 0 → s.HandleFree (s.trueLanes x.guard) x.h.toNat →
    (∀ i, a i = (s.g.rdPair x.a.toNat i).toNat) → (∀ i, (s.trueLanes x.guard).getLsbD i → canonical (a i) = true ∧ apertureOf (a i) = .glob) → s.gr.replay = false →
    s.ctrFull 3 = false → ∃ t n, exec (.pmig x) s = .next t ∧ s.Started t n 3 ∧
      (∀ i, (s.trueLanes x.guard).getLsbD i → s.nextOp ≤ t.g.rdH x.h.toNat i ∧ t.g.rdH x.h.toNat i < s.nextOp + n ∧ (t.op (t.g.rdH x.h.toNat i)).kind = .pmig ∧
        (t.op (t.g.rdH x.h.toNat i)).args.headD 0 = pageKey s.tm.asid (a i)) ∧
      (∀ i j, (s.trueLanes x.guard).getLsbD i → (s.trueLanes x.guard).getLsbD j →
        (t.g.rdH x.h.toNat i = t.g.rdH x.h.toNat j ↔ pageKey s.tm.asid (a i) = pageKey s.tm.asid (a j))) ∧
      (∀ i pa e z, (s.trueLanes x.guard).getLsbD i → (∀ j, (s.trueLanes x.guard).getLsbD j → pageKey s.tm.asid (a j) = pageKey s.tm.asid (a i) → i ≤ j) →
        s.walk s.tm.asid (a i) = .page pa e z → if Pte.s e && !Pte.k e then (t.op (t.g.rdH x.h.toNat i)).st = .complete ∧ (t.op (t.g.rdH x.h.toNat i)).result = 0
          else (t.op (t.g.rdH x.h.toNat i)).st = .failed ∧ (t.op (t.g.rdH x.h.toNat i)).result = 0x0A) ∧
      ∀ i o, (s.trueLanes x.guard).getLsbD i → (∀ j, (s.trueLanes x.guard).getLsbD j → pageKey s.tm.asid (a j) = pageKey s.tm.asid (a i) → i ≤ j) →
        s.walk s.tm.asid (a i) = .elsewhere o → s.peerDown o = false → (t.op (t.g.rdH x.h.toNat i)).st = .pending ∧
          t.Sends o Pk.migRequest s.tm.asid (a i / 65536 * 65536) [s.devid, t.g.rdH x.h.toNat i]

/-- A migration: the origin answers the next request of a page, asks the owner about K, or grants it to the old and the new owner; the new owner pulls the lines; the old owner switches over with the dirty lines and a horizon not below any line's lease; the new owner installs the page with that horizon, and reports once the old owner has answered that it has its acknowledgement; the origin's entry then names the new owner and generation, and the older stubs are repointed. A stub takes the newest pointer and asks to be reclaimed 900 µs after the directory update. An abort at the origin leaves the owner (R129, R130, R132, R134, R135, R380). It rests on choices of the model: logs 72, 74, 75, 95 and 119. -/
def Obligations.MigrationEvents : Prop :=
  (∀ (s : State) (asid vpn k n tag nd od : Nat) (d : DirEntry) (rest : List (Nat × Nat)), k = 2 ^ 41 * asid + vpn % 2 ^ 41 → d = s.dirOf k → d.queue = (n, tag) :: rest →
    d.migrating = none → d.asked ≠ 1 → nd = ownerDevice s.devid n → od = ownerDevice s.devid d.owner →
    (n = d.owner → ∃ t, exec (.migrateGrant asid vpn) s = .next t ∧ t.dirOf k = { d with queue := rest, asked := 0 } ∧ t.Sends nd Pk.result (keyAsid k) (keyVa k) [tag, 0, n] ∧ t.mem = s.mem) ∧
    (n ≠ d.owner → s.peerDown nd = true ∨ s.peerDown od = true → ∃ t, exec (.migrateGrant asid vpn) s = .next t ∧ t.dirOf k = { d with queue := rest, asked := 0 } ∧ t.mem = s.mem ∧
      t.Sends (if 2 ^ 64 ≤ tag then State.tagDevice tag else n) Pk.result (keyAsid k) (keyVa k) [tag, 0x12, d.owner]) ∧
    (n ≠ d.owner → s.peerDown nd = false → s.peerDown od = false →
      (s.kMapped k = true → ∃ t, exec (.migrateGrant asid vpn) s = .next t ∧ t = s.post [.migrateGrant asid vpn]) ∧
      (s.kMapped k = false → od ≠ s.devid → d.asked = 0 → ∃ t, exec (.migrateGrant asid vpn) s = .next t ∧ t.dirOf k = { d with asked := 1 } ∧ t.mem = s.mem ∧
        t.Sends od Pk.askK asid (65536 * vpn) [s.devid]) ∧
      (s.kMapped k = false → od = s.devid ∨ d.asked ≠ 0 →
        (4 < (d.stubs.filter fun e => e.1 ≠ nd).length + 1 → ∃ t, exec (.migrateGrant asid vpn) s = .next t ∧ t.dirOf k = { d with queue := rest, asked := 0 } ∧ t.mem = s.mem ∧
          t.Sends (if 2 ^ 64 ≤ tag then State.tagDevice tag else n) Pk.result (keyAsid k) (keyVa k) [tag, 0x81, d.owner]) ∧
        ((d.stubs.filter fun e => e.1 ≠ nd).length + 1 ≤ 4 → ∃ t, exec (.migrateGrant asid vpn) s = .next t ∧
          t.dirOf k = { d with queue := rest, asked := 0, migrating := some (d.owner, n) } ∧ t.mem = s.mem ∧
          ∀ z ∈ [od, nd], t.Sends z Pk.grant asid (65536 * vpn) [d.owner, n, (d.gen + 1) % 65536, s.devid, tag])))) ∧
  (∀ (s : State) (asid vpn line k : Nat) (m : Mig), k = 2 ^ 41 * asid + vpn % 2 ^ 41 → s.migNew k = some m →
    ∃ t, exec (.migrateCopy asid vpn line) s = .next t ∧ t.Sends m.peer Pk.pull asid (65536 * vpn) [line] ∧ t.mem = s.mem) ∧
  (∀ (s : State) (asid vpn k va : Nat) (m : Mig), k = 2 ^ 41 * asid + vpn % 2 ^ 41 → va = 65536 * (vpn % 2 ^ 41) → s.migOld k = some m → m.old = true → m.switched = false →
    (Config.stubs ≤ s.share.stubs.length + (s.share.migs.filter fun e => e.2.old && e.2.switched).length → ∃ t, exec (.switchover asid vpn) s = .next t ∧ t = s.post [.switchover asid vpn]) ∧
    (s.share.stubs.length + (s.share.migs.filter fun e => e.2.old && e.2.switched).length < Config.stubs → ∃ t h, exec (.switchover asid vpn) s = .next t ∧ t.migOld k = some { m with switched := true, horizon := h } ∧
      (if m.host then h = m.horizon else ∀ i < 512, tabGet 0 s.mem.horizon ((m.pa + 128 * i) / 128) ≤ h) ∧
      (∀ i ∈ m.dirty, t.Sends m.peer Pk.line asid va [i, s.migLine k i m]) ∧ t.Sends m.peer Pk.horizon asid va [h, m.leaf.toNat] ∧
      t.mem.dram = if m.host then s.mem.dram else (s.putPte (s.leafPlace asid va) (BitVec.ofNat 64 (m.origin * 256 + 0x50))).mem.dram)) ∧
  (∀ (s : State) (asid vpn k va : Nat) (m : Mig), k = 2 ^ 41 * asid + vpn % 2 ^ 41 → va = 65536 * (vpn % 2 ^ 41) → s.migNew k = some m → m.old = false → m.switched = true → m.stood = false →
    (m.installed = false → ∃ t, exec (.install asid vpn) s = .next t ∧ t.migNew k = some { m with installed := true } ∧ t.Sends m.peer Pk.installed asid va [] ∧
      tabFind t.share.stubs k = none ∧ (m.toHost = false → t.owner? k = none ∧ (∀ i < 512, m.horizon ≤ tabGet 0 t.mem.horizon ((m.pa + 128 * i) / 128)) ∧
        (tabGet Frame.free t.mem.frames (m.pa / 65536)).p = false ∧
        t.mem.dram = (s.putPte (s.leafPlace asid va) ((m.leaf &&& 0xF000000000000038) ||| 0x2000000000000003 ||| BitVec.ofNat 64 (m.pa + m.origin * 256))).mem.dram) ∧
      (m.toHost = true → t.dirOf k = { s.dirOf k with horizon := m.horizon } ∧ t.mem = s.mem)) ∧
    (m.installed = true → m.acked = false → exec (.install asid vpn) s = .next s) ∧
    (m.installed = true → m.acked = true → s.peerDown m.origin = false → ∃ t, exec (.install asid vpn) s = .next t ∧ t.migNew k = some { m with stood := true } ∧ t.mem = s.mem ∧
      t.Sends m.origin Pk.done asid va [if m.host then hostOwner else m.peer, if m.toHost then hostOwner else s.devid, m.gen, m.tag])) ∧
  (∀ (s : State) (asid vpn k o n nd od gen : Nat) (d : DirEntry), k = 2 ^ 41 * asid + vpn % 2 ^ 41 → d = s.dirOf k → d.migrating = some (o, n) → nd = ownerDevice s.devid n →
    od = ownerDevice s.devid o → gen = (d.gen + 1) % 65536 →
    (∃ t q, exec (.done asid vpn) s = .next t ∧ t.dirOf k = q ∧ q.owner = n ∧ q.gen = gen ∧ q.migrating = none ∧ q.queue = d.queue ∧ (od ≠ nd → (od, s.now) ∈ q.stubs) ∧ (∀ e ∈ q.stubs, e.1 = od → od ≠ nd) ∧
      (∀ e ∈ q.stubs, e.1 ≠ nd ∨ e = (od, s.now)) ∧ t.Sends od Pk.stubTime (keyAsid k) (keyVa k) [s.now] ∧ t.mem = s.mem ∧
      ∀ e ∈ d.stubs, e.1 ≠ nd → e.1 ≠ od → e ∈ q.stubs ∧ (e.1, gen) ∈ q.repoints ∧ t.Sends e.1 Pk.repoint (keyAsid k) (keyVa k) [nd, gen]) ∧
    (s.migOld k = none → s.migNew k = none → ∃ t, exec (.abort asid vpn) s = .next t ∧ t.dirOf k = { d with migrating := none } ∧ t.mem = s.mem ∧
      ∀ z ∈ [od, nd], t.Sends z Pk.abort (keyAsid k) (keyVa k) [])) ∧
  (∀ (s : State) (asid vpn owner gen k : Nat), k = 2 ^ 41 * asid + vpn % 2 ^ 41 → ∃ t, exec (.repoint asid vpn (owner, gen)) s = .next t ∧ t.mem = s.mem ∧
    t.Sends (s.originOf asid (65536 * vpn)) Pk.repointed asid (65536 * vpn) [gen] ∧
    tabFind t.share.stubs k = (tabFind s.share.stubs k).map fun st => if (gen + 65536 - st.gen) % 65536 < 32768 then { st with target := owner, gen } else st) ∧
  (∀ (s : State) (asid vpn k td : Nat) (st : Stub), k = 2 ^ 41 * asid + vpn % 2 ^ 41 → tabFind s.share.stubs k = some st →
    (st.td = none → exec (.reclaim asid vpn) s = .next s) ∧
    (st.td = some td → s.now < td + 900000 → ∃ t, exec (.reclaim asid vpn) s = .next t ∧ t = s.post [.reclaim asid vpn]) ∧
    (st.td = some td → td + 900000 ≤ s.now → ∃ t, exec (.reclaim asid vpn) s = .next t ∧ t.Sends (s.originOf asid (65536 * vpn)) Pk.reclaim asid (65536 * vpn) [s.devid, td] ∧ t.share = s.share)) ∧
  ∀ (s : State) (asid vpn k : Nat), k = 2 ^ 41 * asid + vpn % 2 ^ 41 → ∃ t, exec (.reclaimOk asid vpn) s = .next t ∧ t = { s with share := { s.share with stubs := t.share.stubs } } ∧
    tabFind t.share.stubs k = none ∧ ∀ j, j ≠ k → tabFind t.share.stubs j = tabFind s.share.stubs j

/-- Transport: an ordered packet that is next in sequence is delivered, any other waits and is not; a duplicate is acknowledged again and not delivered again; an acknowledgement frees what it covers and starts the response timers, at the target's GTIME, of the accesses that it is the first to cover; a packet of a peer that was DOWN clears it, unless its signature was refused, and what its flow slots have kept goes out; a packet that is not acknowledged in 5·T_s goes out again with its number, at most eight times before the peer is DOWN, while one that has not left its FIFO yet, one to a peer that is DOWN, and DONE count nothing; an access whose target shows no life for 10 µs + 5·T_s is sent again, which counts too; a relayed packet waits in the FIFO of its destination (R202 to R205, R216, R230, R232, R380). It rests on choices of the model: log 74. -/
def Obligations.TransportEvents : Prop :=
  (∀ (s : State) (p : Pkt) (d e n : Nat), d = p.src → d ≠ s.devid → s.peerDown d = false → p.ack = 0 → p.cls = 0 → e = tabGet 0 (s.peer d).expect 0 → n = State.fullSeq e p.seq →
    (n = e → (s.peer d).reorder = [] → p.op = Pk.load ∨ p.op = Pk.store ∨ p.op = Pk.atomic ∨ p.op = Pk.update → ∃ t, exec (.transportReceive p) s = .next t ∧
      .remoteAccess { p with seq := n } ∈ t.agenda ∧ tabGet 0 (t.peer d).expect 0 = e + 1 ∧ (t.peer d).reorder = [] ∧ ∃ q ∈ (t.peer d).link, q.op = Pk.ack ∧ q.body = [0, e + 1, s.now]) ∧
    (e < n → (s.peer d).reorder = [] → ∃ t, exec (.transportReceive p) s = .next t ∧ t.agenda = s.agenda ∧ tabGet 0 (t.peer d).expect 0 = e ∧ (t.peer d).reorder = [{ p with seq := n }] ∧
      t.mem = s.mem) ∧
    (n < e → ∃ t, exec (.transportReceive p) s = .next t ∧ (p.arg 1 ≠ s.devid → t.agenda = s.agenda) ∧ (∀ q, .remoteAccess q ∈ t.agenda → .remoteAccess q ∈ s.agenda) ∧ tabGet 0 (t.peer d).expect 0 = e ∧ t.mem = s.mem ∧ t.share = s.share ∧
      ∃ q ∈ (t.peer d).link, q.op = Pk.ack ∧ q.body = [0, e, s.now])) ∧
  (∀ e n : Nat, e < n + 2 ^ 31 → n < e + 2 ^ 31 → State.fullSeq e (n % 2 ^ 32) = n) ∧
  (∀ (s : State) (p : Pkt) (d : Nat), d = p.src → d ≠ s.devid → s.peerDown d = true → p.cls = 2 → p.ack = 0 → p.op = Pk.probe → ∃ t, exec (.transportReceive p) s = .next t ∧
    (∀ j, j ≠ d → t.peer j = s.peer j) ∧ t.mem = s.mem ∧ (s.fab.refused.contains d = true → t.peerDown d = true) ∧ (s.fab.refused.contains d = false → t.peerDown d = false ∧
      ∀ k f i b, (k, f) ∈ s.flows → f.sender = true → f.multi = true → f.dests.findIdx? (· = d) = some i → i < 16 →
        (16 * b + i, true) ∈ f.slotBehind ∨ (16 * b + i, true) ∈ f.slotQueued → .flowBlockSend k b i ∈ t.agenda)) ∧
  (∀ (s : State) (d cls n ta : Nat), ∃ t, exec (.transportAck d cls (n, ta)) s = .next t ∧ t.mem = s.mem ∧ (∀ x, x ∈ (t.peer d).sent ↔ x ∈ (s.peer d).sent ∧ ¬ (x.pkt.cls = cls ∧ x.pkt.seq < n)) ∧
    (∀ j, j ≠ d → t.peer j = s.peer j) ∧ t.agenda = s.agenda ∧
    ∀ a, tabFind t.share.remote a = (tabFind s.share.remote a).map fun r => if cls = 0 ∧ r.peer = d ∧ r.pkt.seq < n ∧
      (((s.peer d).sent.any fun x => x.pkt = r.pkt) = true ∨ (r.stamp = 0 ∧ (s.peer d).ordered.contains r.pkt = false)) then { r with stamp := max r.stamp ta } else r) ∧
  (∀ (s : State) (d cls n tries : Nat) (x : Sent), (s.peer d).sent.find? (fun y => y.pkt.cls = cls && y.pkt.seq = n) = some x → tries = max x.tries (s.triesOf x.pkt) →
    (s.now ≤ x.time + 5 * s.fab.slotNs ∨ s.isQueued d x.pkt = true → exec (.retransmit d cls n) s = .next s) ∧
    (x.time + 5 * s.fab.slotNs < s.now → s.isQueued d x.pkt = false →
      (x.pkt.op = Pk.done ∨ s.peerDown d = true → ∃ t, exec (.retransmit d cls n) s = .next t ∧ x.pkt ∈ (t.peer d).ordered ++ (t.peer d).bulk ++ (t.peer d).link ∧
        (t.peer d).sent = (s.peer d).sent ∧ t.share = s.share ∧ t.mem = s.mem) ∧
      (x.pkt.op ≠ Pk.done → s.peerDown d = false → tries < 8 → ∃ t, exec (.retransmit d cls n) s = .next t ∧ x.pkt ∈ (t.peer d).ordered ++ (t.peer d).bulk ++ (t.peer d).link ∧
        { x with tries := tries + 1 } ∈ (t.peer d).sent ∧ t.mem = s.mem ∧
        ∀ a r, tabFind s.share.remote a = some r → tabFind t.share.remote a = some (if r.pkt = x.pkt then { r with resent := r.resent + 1 } else r)) ∧
      (x.pkt.op ≠ Pk.done → s.peerDown d = false → 8 ≤ tries → s.Unshared → ∃ t, exec (.retransmit d cls n) s = .next t ∧ t.peerDown d = true ∧ s.MirrorsOnly t))) ∧
  (∀ (s : State), (s.share.remote.map (·.1)).Nodup → (s.share.remote.map (·.2.pkt)).Nodup → (∀ e ∈ s.share.remote, e.2.resent < 8) → ∃ t, exec .responseTimeout s = .next t ∧ t.mem = s.mem ∧
    ∀ a r, (a, r) ∈ s.share.remote →
      if r.peer = unknownOwner ∨ r.peer = s.devid ∨ r.stamp = 0 ∨ s.now ≤ r.stamp + 10000 + 5 * s.fab.slotNs ∨ s.isQueued r.peer r.pkt = true then tabFind t.share.remote a = some r
      else tabFind t.share.remote a = some { r with resent := r.resent + 1, stamp := 0 } ∧ (r.pkt.cls = 0 → r.pkt ∈ (t.peer r.peer).ordered)) ∧
  ∀ (s : State) (p : Pkt), p.dst ≠ s.devid → s.peerDown p.src = false →
    (s.fab.relayUsed + 128 * p.flits ≤ 268435456 → ∃ t, exec (.relayForward p) s = .next t ∧ (t.peer p.dst).relay = (s.peer p.dst).relay ++ [p] ∧
      t.fab.relayUsed = s.fab.relayUsed + 128 * p.flits ∧ ∀ j, j ≠ p.dst → t.peer j = s.peer j) ∧
    (268435456 < s.fab.relayUsed + 128 * p.flits → exec (.relayForward p) s = .next s)

/-- The link layer. A flit that a transmitter builds passes the FEC and CRC checks and carries its fields; a LINKCTL flit names the flit to be replayed, which goes out ahead of new ones inside the window; a DATA flit ahead of its turn is held and the next in link sequence is passed on; one whose CRC fails is counted and named to the sender; a replay sends the same flit again; POISON ends a cut-through. SLOTHDRs open the receivers, which are closed before, a boundary sets each port's peer, a slot's end empties the link buffers and lapses the credit. Keys are renewed with their counter at 0, from the peer's signed ephemeral key, and stop at 2^41; a pair whose signature fails is DOWN; parking, waking, heater codes, training and health scores follow their commands (R196, R197, R202, R206, R207, R209 to R211, R213 to R218). It rests on choices of the model: logs 25, 26, 27, 40, 41, 60, 65, 78, 98 and 99. -/
def Obligations.LinkEvents : Prop :=
  (∀ (typ pos seq ack payload : Nat) (v : Bool) (f : Flit), f = makeFlit typ pos seq ack v payload → syndrome f = 0 ∧ correct f = (f, 0) ∧ crcOk f = true ∧ flitType f = typ % 16 ∧
    flitPos f = pos % 4 ∧ flitSeq f = seq % 65536 ∧ flitField f 0 960 = payload % 2 ^ 960) ∧
  (∀ (s : State) (fibre pos payload : Nat), fibre < 64 → (s.port (64 + fibre)).live = true → ∃ t, exec (.flitReceive fibre (makeFlit 3 pos 0 0 false payload)) s = .next t ∧
    .linkctl fibre (payload % 65536) ∈ t.agenda ∧ ∀ p, t.port p = s.port p) ∧
  (∀ (s : State) (fibre pos n payload : Nat) (p : Port), p = s.port (64 + fibre) → fibre < 64 → p.live = true → p.early = [] → p.expectLink ≤ n → n < p.expectLink + 4096 → n < 32768 →
    ∃ t, exec (.flitReceive fibre (makeFlit 2 pos n 0 false payload)) s = .next t ∧
      (p.expectLink < n → t.agenda = s.agenda ∧ (t.port (64 + fibre)).expectLink = p.expectLink ∧ tabFind (t.port (64 + fibre)).early n = some (makeFlit 2 pos n 0 false payload)) ∧
      (p.expectLink = n → (t.port (64 + fibre)).expectLink = n + 1 ∧ t.mem = s.mem ∧ (pos % 4 = 3 → payload / 256 % 256 = s.devid →
        (∀ q, s.assemble fibre [makeFlit 2 pos n 0 false payload] = some q → q.dst = s.devid → t.agenda = s.agenda ++ [.transportReceive q]) ∧
        (s.assemble fibre [makeFlit 2 pos n 0 false payload] = none → t.agenda = s.agenda)))) ∧
  (∀ (s : State) (fibre : Nat) (f : Flit) (p : Port), p = s.port (64 + fibre) → fibre < 64 → p.live = true → crcOk (correct f).1 = false → p.peer ≠ s.devid →
    ∃ t, exec (.flitReceive fibre f) s = .next t ∧ (t.port (64 + fibre)).uncorrectable = min 65535 (p.uncorrectable + 1) ∧ t.agenda = s.agenda ∧ t.mem = s.mem ∧
      ∃ q ∈ (t.peer p.peer).link, q.op = State.nakOp ∧ q.arg 0 = fibre) ∧
  (∀ (s : State) (fibre seq : Nat), s.windowClose fibre < 64 * s.now + flitTime (s.port fibre).set → exec (.linkctl fibre seq) s = .next s) ∧
  (∀ (s : State) (fibre seq : Nat), ((s.port fibre).replay.any fun e => e.1 % 65536 = seq % 65536) = true → 64 * s.now + flitTime (s.port fibre).set ≤ s.windowClose fibre →
    ∃ t, exec (.linkctl fibre seq) s = .next t ∧
    (t.port fibre).replay = (s.port fibre).replay ∧ (t.port fibre).nextLink = (s.port fibre).nextLink ∧ t.fab.keys = s.fab.keys ∧
    (t.port fibre).freeAt = max (s.port fibre).freeAt (64 * s.now) + flitTime (s.port fibre).set) ∧
  (∀ (s : State) (fibre g : Nat), fibre < 64 → (s.port fibre).cutting = some g → ∃ t f, exec (.poison fibre) s = .next t ∧ (t.port fibre).cutting = none ∧ (t.port (64 + g)).cutting = none ∧
    tabFind (t.port fibre).replay (s.port fibre).nextLink = some f ∧ flitType f = 4 ∧ (t.port fibre).nextLink = (s.port fibre).nextLink + 1) ∧
  (∀ (s : State) (fibre : Nat) (x : SlotHdr), fibre < 64 → s.pairedWith s.devid s.fab.slot fibre = some x.dev → x.slot = s.fab.slot → s.fab.slotOpen = true →
    ((s.port (64 + fibre)).dark = false → ∃ t, exec (.slothdr fibre (some x)) s = .next t ∧ (t.port (64 + fibre)).live = decide (x.set ≠ 0) ∧ (t.port (64 + fibre)).down = (decide (x.set = 0) || s.fab.refused.contains x.dev) ∧
      (t.port (64 + fibre)).set = x.set ∧ (t.port (64 + fibre)).peer = x.dev ∧ t.mem = s.mem) ∧
    ((s.port (64 + fibre)).dark = true → exec (.slothdr fibre (some x)) s = .next s)) ∧
  (∀ (s : State) (fibre : Nat), fibre < 64 → ∃ t, exec (.slothdr fibre none) s = .next t ∧ (∀ p ∈ [fibre, 64 + fibre], (t.port p).live = false ∧ (t.port p).down = true ∧ (t.port p).dark = true) ∧
    (∀ d, t.joined d fibre = false) ∧ ∀ p, p ≠ fibre → p ≠ 64 + fibre → t.port p = s.port p) ∧
  (∀ s : State, s.fab.trained = true → s.fab.epoch ≤ s.now → ∃ t, exec .slotBoundary s = .next t ∧ t.fab.slot = (s.now - s.fab.epoch) / s.fab.slotNs ∧ t.fab.slotOpen = true ∧ t.mem = s.mem ∧
    ∀ f d, f < 64 → t.pairedWith t.devid t.fab.slot f = some d → (t.port f).peer = d ∧ (t.port (64 + f)).live = false ∧ (t.port (64 + f)).down = true ∧ (s.fab.refused.contains d = true → (t.port f).down = true) ∧
      ((s.port f).shift = true ∨ (s.port (64 + f)).shift = true → (t.port f).set = 0 ∧ (t.port f).dark = true)) ∧
  (∀ s : State, s.fab.slotOpen = true → ∃ t, exec .slotEnd s = .next t ∧ t.fab.slotOpen = false ∧ .slotBoundary ∈ t.agenda ∧ t.mem = s.mem ∧ (∀ d, (t.peer d).credit = 0 ∧ ∀ q ∈ (t.peer d).link, q.op ≠ State.nakOp) ∧
    (∀ p < 128, ∀ w < 64, (s.port p).sick.getLsbD w = true → tabGet 0 (t.port p).health w = tabGet 0 (s.port p).health w) ∧
    ∀ f < 64, (t.port f).replay = [] ∧ (t.port f).cutting = none ∧ (t.port (64 + f)).early = [] ∧ (t.port (64 + f)).partialPkt = [] ∧ (t.port (64 + f)).live = false) ∧
  (∀ (s : State) (d f : Nat), d < 512 → f < 64 →
    ((s.key d f).rekeying = false → ∀ p, ∃ t, exec (.rekey (d, f) p) s = .next t ∧ t.key d f = { s.key d f with rekeying := true } ∧ (p.1 ≠ [] → .rekey (d, f) p ∈ t.agenda)) ∧
    ((s.key d f).rekeying = true → ∀ p, p.1 = [] → exec (.rekey (d, f) p) s = .next s) ∧
    ((s.key d f).rekeying = true → d < 256 → (s.port f).cutting = none ∨ (s.port f).peer ≠ d → ∀ p, ∃ t, exec (.rekey (d, f) p) s = .next t ∧ (State.peerSigned d p = true →
      t.key d f = ⟨(s.key d f).epoch + 1, 0, false, false, some (State.newSecret s.ticks p.1), none⟩ ∧ t.fab.refused.contains d = false)) ∧
    ((s.key d f).rekeying = true → 256 ≤ d → ∀ p, ∃ t, exec (.rekey (d, f) p) s = .next t ∧
      (State.peerSigned (d % 256) p = true → t.key d f = { s.key d f with rekeying := false, next := some (State.newSecret s.ticks p.1, 0) })) ∧
    ((s.key d f).rekeying = true → s.Unshared → ∀ p, p.1 ≠ [] → ∃ t, exec (.rekey (d, f) p) s = .next t ∧
      (State.peerSigned (d % 256) p = false → t.peerDown (d % 256) = true ∧ t.fibresTo (d % 256) = [] ∧ s.MirrorsOnly t)) ∧
    (d < 256 → 2 ^ 41 ≤ (s.key d f).counter → ∃ t, exec (.keystop d f) s = .next t ∧ t.key d f = { s.key d f with stopped := true } ∧ (t.port f).keystop = true) ∧
    ((s.key d f).counter < 2 ^ 41 → exec (.keystop d f) s = .next s)) ∧
  (∀ (s : State) (f : Nat), f < 64 → (∃ t, exec (.parkWake f false) s = .next t ∧ (∀ p, p ≠ f → t.port p = s.port p) ∧
      (4 ≤ (wavesOf (s.port f).set).length → (t.port f).parked = (s.port f).parked ||| waveMask ((wavesOf (s.port f).set).drop ((wavesOf (s.port f).set).length / 2)))) ∧
    ∃ t, exec (.parkWake f true) s = .next t ∧ (t.port f).parked = 0 ∧ ((s.port f).parked ≠ 0 → (t.port f).wakes = (s.port f).wakes ++ [((s.port f).parked, s.now + 4000)])) ∧
  (∀ (s : State) (p w : Nat) (up : Bool), p < 128 → w < 64 → (∃ t, exec (.ringTune p w up) s = .next t ∧ (∀ q, q ≠ p → t.port q = s.port q) ∧
      (tabGet 0x8000 (t.port p).heater w = if up then min 65535 (tabGet 0x8000 (s.port p).heater w + 1) else tabGet 0x8000 (s.port p).heater w - 1) ∧
      (tabGet 0x8000 (t.port p).heater w = 0 ∨ tabGet 0x8000 (t.port p).heater w = 65535 → (t.port p).shift = true)) ∧
    ∃ t, exec (.healthWrite p w) s = .next t ∧ tabGet 0 (t.port p).health w = 0 ∧ (t.port p).sick.getLsbD w = false ∧ (∀ v, v ≠ w → tabGet 0 (t.port p).health v = tabGet 0 (s.port p).health v) ∧ ∀ q, q ≠ p → t.port q = s.port q) ∧
  ∀ (s : State) (n slotNs epoch : Nat) (ph : List Nat) (ok : List Bool) (ends : List (List Byte × List Byte)),
    (2 ≤ n → n ≤ 256 → s.devid < n → 2000 ≤ slotNs → slotNs ≤ 20000 → (∀ f < 64, ph.getD f (f * sequenceLength n / 64) < sequenceLength n) → (∀ d < n, d ≠ s.devid → State.peerSigned d (ends.getD d ([], [])) = true) ∨ s.Unshared →
      ∃ t, exec (.linkTraining n slotNs epoch ph (ok, ends)) s = .next t ∧ t.fab.n = n ∧ t.fab.slotNs = slotNs ∧ t.fab.epoch = epoch ∧ t.fab.trained = true ∧ t.fab.keys = [] ∧
        (∀ f < 64, tabGet 0 t.fab.phases f = ph.getD f (f * sequenceLength n / 64) ∧ tabGet false t.fab.inService f = ok.getD f false) ∧ .slotBoundary ∈ t.agenda ∧ s.MirrorsOnly t ∧
        (∀ p, (t.port p).keystop = false) ∧ ∀ d < n, d ≠ s.devid →
          if State.peerSigned d (ends.getD d ([], [])) then tabFind t.fab.secrets d = some (State.newSecret (s.ticks + d) (ends.getD d ([], [])).1)
          else tabFind t.fab.secrets d = none ∧ t.peerDown d = true ∧ t.fibresTo d = []) ∧
    (n < 2 ∨ 256 < n ∨ n ≤ s.devid ∨ slotNs < 2000 ∨ 20000 < slotNs ∨ (∃ f < 64, sequenceLength n ≤ ph.getD f (f * sequenceLength n / 64)) → exec (.linkTraining n slotNs epoch ph (ok, ends)) s = .next s)

/-- A cycle advances the clock by one and GTIME by two thirds of a nanosecond, and selects paths of groups that may issue. A line enters the instruction cache as memory holds it, or as a transfer error leaves it when its parity agrees. YIELD's exclusion ends at its cycle. A swap pre-empts the victim of a core whose idle count has reached its threshold while a team waits for it. BARSTALL, once a barrier's timer has reached its timeout, and a trap that an agent brings, write an error record; the watchdog restarts an agent whose core has been silent too long at the image's entry (R10, R21, R35, R39, R40, R47, R49, R92, R93, R98, R136, R268). It rests on choices of the model: logs 6, 19, 30, 37, 47, 104 and 113. -/
def Obligations.CoreEvents : Prop :=
  (∀ s : State, ∃ t, exec .groupSelect s = .next t ∧ t.cycle = s.cycle + 1 ∧ t.third = s.third + 2 ∧ ((∀ e ∈ s.grids, e.2.halting = false) → t.mem.dram = s.mem.dram) ∧
    ∀ q ∈ t.issue, q.pair = none ∧ ∃ g, (q.gk, g) ∈ t.groups ∧ (q.pc, q.mask) ∈ g.paths ∧ t.selectable q.gk g = true) ∧
  (∀ (s u : State) (c asid va pa z : Nat) (e : DWord) (glitch : BitVec 512), canonical va = true → apertureOf va = .glob → s.translate c asid va = (.page pa e z, u) → Pte.x e = true →
    (u.allocLine (pa / 128) = none → ∃ t, exec (.lineFetch c asid va glitch) s = .next t ∧ .lineFetch c asid va glitch ∈ t.agenda ∧ .sliceEvictWait (sliceOf (pa / 128 * 128)) (pa / 128) ∈ t.agenda ∧ t.groups = u.groups) ∧
    ((u.allocLine (pa / 128)).isSome = true → ∃ t l, exec (.lineFetch c asid va glitch) s = .next t ∧ l = (if parityMask (s.lineAt pa ^^^ glitch) = 0 then s.lineAt pa ^^^ glitch else s.lineAt pa) ∧
      tabFind (t.core c).icache (pa / 64) = some (l, decide (parityMask l ≠ 0)) ∧ t.mem.dram = s.mem.dram ∧ t.groups = s.groups)) ∧
  (∀ s : State, ∃ t, exec .yieldExpiry s = .next t ∧ t = { s with groups := t.groups } ∧
    ∀ k, t.grp k = { s.grp k with yieldUntil := if (s.grp k).yieldUntil ≤ s.cycle then 0 else (s.grp k).yieldUntil }) ∧
  (∀ s : State, (s.someoneWaits = false → exec .spinSwap s = .next s) ∧ (s.someoneWaits = true → ∀ (c v : Nat) (k : Core), s.cores = [(c, k)] → c < Config.cores → s.swapDue c = true →
    s.swapVictim c = some v → s.members v = [v] → ∃ t, exec .spinSwap s = .next t ∧ (t.core c).preempt = some v ∧ (t.core c).haltAt = s.cycle + 225 ∧ (t.core c).idle = 0 ∧
      t.mem = { s.mem with host := t.mem.host } ∧ t.sys.actions = s.sys.actions ++ [(s.sys.actions.length + 1, Action.prem.code)])) ∧
  (∀ (s : State) (team b : Nat) (clus : Bool), (s.stallDue team b clus = false ∨ s.barWaiters team b clus = [] → exec (.barstall team b clus) s = .next s) ∧
    ∀ gk i rest, s.stallDue team b clus = true → s.barWaiters team b clus = (gk, i) :: rest → ∃ t, exec (.barstall team b clus) s = .next t ∧
      s.Recorded t gk Cause.barstall 0 (b + (if (s.bar team b clus).phase then 16 else 0) + (if clus then 32 else 0)) (BitVec.ofNat 32 (2 ^ i)) ((s.grp gk).pcOf i)) ∧
  (∀ (s : State) (gk cause sub detail : Nat) (m : LaneMask) (pc addr : DWord), (tabFind s.groups gk).isSome = true → isAgent gk = false →
    ∃ t, exec (.trapTaken gk cause sub m pc detail addr) s = .next t ∧ s.Recorded t gk cause sub detail m pc) ∧
  ∀ s : State, (s.groups.map (·.1)).Nodup → ∃ t, exec .watchdog s = .next t ∧ (∀ k, isAgent k = false → t.grp k = s.grp k) ∧ t.mem = { s.mem with host := t.mem.host } ∧
    ∀ k g, (k, g) ∈ s.groups → isAgent k = true → if (s.core (coreOf k)).beat + Config.watchdogCycles ≤ s.cycle
      then (∀ i < 32, (t.grp k).pcOf i = s.sys.entry ∧ (t.grp k).waitOf i = .run) ∧ (t.core (coreOf k)).beat = s.cycle else t.grp k = s.grp k

/-- A ticket starts the next team of the best grid that fits, with its index split into coordinates, its groups at the entry and its registers zero. A cluster starts whole on its rectangle, or nothing of it does and the anchor tries again 1 µs later. A team whose threads have exited and whose work is done leaves its core, and counts for the frontiers from its last performed time + 2 ns (R15, R17 to R19, R41, R42, R87, R263, R264). It rests on choices of the model: logs 49, 106 and 113. -/
def Obligations.TeamEvents : Prop :=
  (∀ (s : State) (c grid gi q0 at_ va sl tk : Nat) (rest : List Nat) (x : Grid), c < Config.cores → s.gridOpen grid = true → s.sys.boot = .ready →
    (s.ticketGrids.filter fun j => (s.grid j).kernel.cn = 0 && (s.teamFit c j).isSome) = gi :: rest → x = s.grid gi → x.esum = 0 → s.teamFit c gi = some (q0, at_, va) →
    s.freeSlot c = some sl → tk = 16 * c + sl → ∃ t m, exec (.teamTicket c grid) s = .next t ∧ tabFind t.teams tk = some m ∧ m.grid = gi ∧ m.index = x.next ∧ m.x = x.next % x.nx ∧
      m.y = x.next / x.nx % x.ny ∧ m.z = x.next / x.nx / x.ny ∧ m.groups = x.groups ∧ m.q0 = q0 ∧ m.regs = x.kernel.regs ∧ m.depth = x.kernel.depth ∧ m.scratchAt = at_ ∧ m.asid = x.asid ∧
      m.ctx = x.ctx ∧ t.grid gi = { x with next := x.next + 1, spinth := clampSpin x.spinth } ∧
      t.sys.actions = s.sys.actions ++ [(s.sys.actions.length + 1, Action.lnch.code)] ∧ (∀ k, k ≠ tk → t.team k = s.team k) ∧
      ∀ g < x.groups, ∀ i < 32, (t.grp (32 * tk + g)).pcOf i = x.kernel.entry ∧ (t.grp (32 * tk + g)).waitOf i = .run ∧ (∀ r, (t.grp (32 * tk + g)).rdV r i = 0) ∧
        (∀ r, (t.grp (32 * tk + g)).rdS r = 0) ∧ (t.grp (32 * tk + g)).retiredOf i = 0 ∧ (t.grp (32 * tk + g)).status = 0) ∧
  (∀ (s : State) (c gi : Nat) (x : Grid), c < Config.cores → s.gridOpen gi = true → s.sys.boot = .ready → x = s.grid gi → x.kernel.cn ≠ 0 → x.nextCluster * x.kernel.cn < x.count → x.esum = 0 →
    (∀ u, s.tryCluster c gi = some u → ∃ t cores, exec (.clusterReserve c gi) s = .next t ∧ State.rectangle c x.kernel.ch x.kernel.cw = some cores ∧
      (t.grid gi).nextCluster = x.nextCluster + 1 ∧ ∀ r < x.kernel.cn, ∃ tk m, tabFind t.teams tk = some m ∧ m.grid = gi ∧ m.index = x.nextCluster * x.kernel.cn + r ∧ m.clrank = r ∧
        tk / 16 = cores.getD (r % cores.length) 0) ∧
    (s.tryCluster c gi = none → ∃ t, exec (.clusterReserve c gi) s = .next t ∧ t.teams = s.teams ∧ t.groups = s.groups ∧ t.bands = s.bands ∧
      t.grid gi = { x with retryAt := s.now + 1000 } ∧ .clusterRetry c gi ∈ t.agenda)) ∧
  (∀ (s : State) (c gi : Nat), (tabFind s.grids gi).isSome = true →
    (s.now < (s.grid gi).retryAt → ∃ t, exec (.clusterRetry c gi) s = .next t ∧ t = s.post [.clusterRetry c gi]) ∧
    ((s.grid gi).retryAt ≤ s.now → ∃ t, exec (.clusterRetry c gi) s = .next t ∧ .clusterReserve c gi ∈ t.agenda ∧ t = { s with agenda := t.agenda })) ∧
  (∀ (s : State) (tk : Nat), (tabFind s.teams tk).isSome = true → isAgent (32 * tk) = false → teamDone s tk = true →
    (s.canRetire tk = true → ∃ t, exec (.teamRetire tk) s = .next t ∧ tabFind t.teams tk = none ∧ (∀ k, isAgent k = false → teamOf k = tk → tabFind t.groups k = none) ∧
      tabFind (t.grid (s.team tk).grid).retired (s.team tk).index = some (s.teamP tk + 2) ∧ .frontierRetire (s.team tk).grid (s.team tk).index ∈ t.agenda ∧ t.mem.dram = s.mem.dram) ∧
    (s.canRetire tk = false → ∃ t, exec (.teamRetire tk) s = .next t ∧ t = s.post [.teamRetire tk])) ∧
  ∀ (s : State) (gi team p : Nat), tabFind (s.grid gi).retired team = some p →
    (s.now < p → ∃ t, exec (.frontierRetire gi team) s = .next t ∧ t = s.post [.frontierRetire gi team]) ∧
    (p ≤ s.now → ∃ t, exec (.frontierRetire gi team) s = .next t ∧ t = { s with groups := t.groups } ∧ ∀ k i n, (tabFind s.groups k).isSome = true → i < 32 → (s.grp k).waitOf i = .ordw n →
      if s.ordwReady k n then (t.grp k).waitOf i = .run ∧ (t.grp k).pcOf i = nextPc ((s.grp k).pcOf i) else (t.grp k).waitOf i = .ordw n ∧ (t.grp k).pcOf i = (s.grp k).pcOf i)

/-- Pre-emption: a request latches the victim, rolls its core's chains back and stops its issue; 225 cycles later the core halts, with what its fired passes still output to scratchpads and vaults written; the team's place, registers and scratchpad go into a record in its grid's save area; the record is complete when what is in flight has finished and its bytes stand in the save area; a team that a trap has stopped is not switched; and an agent resumes the team from it, on any core that fits, with the registers and the scratchpad bytes that it had (R66, R98 to R100, R265, R267, R320). It rests on choices of the model: logs 18, 102, 113 and 120. -/
def Obligations.PreemptionEvents : Prop :=
  (∀ (s : State) (c : Nat), c < Config.cores → (s.core c).preempt = none → (s.victimOn c false = none → exec (.preemptionRequest c) s = .next s) ∧
    ∀ tk, s.victimOn c false = some tk → s.members tk = [tk] → ∃ t, exec (.preemptionRequest c) s = .next t ∧ (t.core c).preempt = some tk ∧ (t.core c).haltAt = s.cycle + 225 ∧ t.mem = { s.mem with host := t.mem.host } ∧
      t.sys.actions = s.sys.actions ++ [(s.sys.actions.length + 1, Action.prem.code)] ∧ (∀ gk, isAgent gk = false → coreOf gk = c → (t.grp gk).rings = []) ∧ (∀ q ∈ t.issue, isAgent q.gk = true ∨ coreOf q.gk ≠ c) ∧
      ∀ gk, isAgent gk = true ∨ coreOf gk ≠ c → t.grp gk = s.grp gk) ∧
  (∀ (s : State) (c tk : Nat) (k : Core), s.cores = [(c, k)] → k.preempt = some tk → (s.cycle < k.haltAt → exec .coreHalted s = .next s) ∧
    (k.haltAt ≤ s.cycle → (tabFind s.teams tk).isSome = true → (s.team tk).held = false → (s.grid (s.team tk).grid).aborted = none → s.canRetire tk = false →
      s.members tk = [tk] → tk / 16 = c → ∃ t u, exec .coreHalted s = .next t ∧ u = (s.flushOutputs tk).recallLanes tk ∧ t.team tk = { u.team tk with halted := true } ∧ (t.core c).preempt = none ∧
        (t.core c).premOut = (if k.premWait = true then some 0 else none) ∧
        .contextSwitch tk ∈ t.agenda ∧ t.groups = u.groups ∧ t.mem = u.mem ∧ ((∀ e ∈ s.kreqs, e.2.fired.isSome = true → isAgent e.2.gk = true ∨ teamOf e.2.gk ≠ tk) → u = s))) ∧
  (∀ (s : State) (tk a key : Nat) (m : Team), tabFind s.teams tk = some m → tk < 9216 → m.halted = true → s.members tk = [tk] →
    (s.stopped tk = true → ∃ t, exec (.contextSwitch tk) s = .next t ∧ (t.team tk).halted = false ∧ t.records = s.records) ∧
    (s.stopped tk = false → s.passOutputs tk = true → ∃ t, exec (.contextSwitch tk) s = .next t ∧ t = s.post [.contextSwitch tk]) ∧
    (s.stopped tk = false → s.passOutputs tk = false →
    s.saveFit m.grid (s.recordSize tk) = some a → key = State.recordKey m.asid a → ∃ t r, exec (.contextSwitch tk) s = .next t ∧ tabFind t.records key = some r ∧ r.grid = m.grid ∧
      r.complete = false ∧ r.wrote = 0 ∧ r.tk = 2 ^ 35 + 16 * s.nextRecord ∧ r.scratch = bytesOf (memNat s.mem.scratch (Config.scratchBytes * (tk / 16) + m.scratchAt) m.scratch) m.scratch ∧
      tabFind t.teams tk = none ∧ t.team r.tk = m ∧ key ∈ (t.grid m.grid).resume ∧ .recordComplete key ∈ t.agenda ∧
      (∀ b, (∀ e ∈ s.flows, ¬ (e.2.mirror ≤ b ∧ b < e.2.mirror + mirrorSize e.2) ∧ ¬ (e.2.table ≤ b ∧ b < e.2.table + tableSize e.2)) → memNat t.mem.dram b 1 = memNat s.mem.dram b 1) ∧
      ((s.groups.map (·.1)).Nodup → (∀ e ∈ s.groups, teamOf e.1 ≠ r.tk) → ∀ g < 32, t.grp (32 * r.tk + g) = s.grp (32 * tk + g)))) ∧
  (∀ (s : State) (key a n : Nat) (r : Record), tabFind s.records key = some r → r.complete = false → a = key % 2 ^ 64 + r.wrote → n = min ((s.recordImage r).1 - r.wrote) (128 - a % 128) →
    (r.tk = 0 ∨ s.recordSettled r.tk = true →
      ((s.recordImage r).1 ≤ r.wrote → ∃ t, exec (.recordComplete key) s = .next t ∧ t = { s with records := t.records } ∧ tabFind t.records key = some { r with complete := true }) ∧
      ∀ p u, r.wrote < (s.recordImage r).1 → s.plainWrite 0 (s.grid r.grid).asid (s.grid r.grid).ctx a n ((s.recordImage r).2 / 256 ^ r.wrote % 256 ^ n) = .ok p u →
        ∃ t, exec (.recordComplete key) s = .next t ∧ t.mem = u.mem ∧ tabFind t.records key = some { r with wrote := r.wrote + n } ∧ .recordComplete key ∈ t.agenda) ∧
    (r.tk ≠ 0 → s.recordSettled r.tk = false → ∃ t, exec (.recordComplete key) s = .next t ∧ t = s.post [.recordComplete key])) ∧
  ∀ (s : State) (c key q a sl tk : Nat) (r : Record) (m : Team), tabFind s.records key = some r → r.complete = true → s.tooEarly r = false → 2 ^ 35 ≤ r.tk → c < Config.cores →
    s.gridOpen r.grid = true → (s.grid r.grid).kernel.cn = 0 → m = s.team r.tk → s.kilnFits c r = true → s.resumeFit c m = some (q, a) → s.freeSlot c = some sl → tk = 16 * c + sl →
    ∃ t n, exec (.resume c key) s = .next t ∧ t.team tk = { m with q0 := q, scratchAt := a, age := n, halted := false } ∧ t.sys.actions = s.sys.actions ++ [(s.sys.actions.length + 1, Action.lnch.code)] ∧ tabFind t.records key = none ∧
      key ∉ (t.grid m.grid).resume ∧ t.mem.dram = s.mem.dram ∧
      (r.scratch.length = m.scratch → memNat t.mem.scratch (Config.scratchBytes * c + a) m.scratch = natOf r.scratch) ∧
      ((s.groups.map (·.1)).Nodup → (∀ e ∈ s.groups, teamOf e.1 ≠ tk) → ∀ g < 32,
        t.grp (32 * tk + g) = { s.grp (32 * r.tk + g) with storeP := [], atomP := [], trialUntil := 0, trialOut := false })

/-- LNCH, PREM and RTRAP in a user group raise PRIV. In an agent's group LNCH starts the team of its start record on the agent's core, or resumes the team of its context record there, or answers why it does not fit; PREM latches the halt of a resident team and waits, and answers how it ended; RTRAP resumes every held lane of a team, or retires the team (R18, R92, R98, R351 to R354). It rests on choices of the model: logs 28, 29, 31, 32, 89 and 113. -/
def Obligations.PrivilegedResults : Prop :=
  (∀ c ∈ [Instr.rtrap, Instr.lnch, Instr.prem], ∀ (x : PrivArgs) (s : State), isAgent s.cur.gk = false →
    ∃ t, exec (c x) s = .next t ∧ s.Recorded t s.cur.gk Cause.priv 0 0 s.cur.mask s.cur.pc) ∧
  (∀ (x : PrivArgs) (s : State) (slot : Nat), isAgent s.cur.gk = true → s.Ready [] [(x.a.toNat, 1), (x.b.toNat, 1)] → s.trueLanes x.guard ≠ 0 → slot = (s.g.rdS x.a.toNat).toNat →
    (∀ code, (s.core s.curCore).premOut = some code → ∃ t, exec (.prem x) s = .next t ∧ s.Answers t x.b.toNat (BitVec.ofNat 64 code) .prem ∧ (t.core s.curCore).premOut = none ∧ t.mem = { s.mem with host := t.mem.host }) ∧
    ((s.core s.curCore).premOut = none → (s.core s.curCore).preempt = none → 16 ≤ slot ∨ 16 * s.curCore + slot ∉ s.teamsOn s.curCore →
      ∃ t, exec (.prem x) s = .next t ∧ s.Answers t x.b.toNat 3 .prem ∧ t.mem = { s.mem with host := t.mem.host } ∧ t.teams = s.teams) ∧
    ((s.core s.curCore).premOut = none → (s.core s.curCore).preempt = none → slot < 16 → 16 * s.curCore + slot ∈ s.teamsOn s.curCore →
      ((s.team (16 * s.curCore + slot)).halted = true → ∃ t, exec (.prem x) s = .next t ∧ s.Answers t x.b.toNat 0 .prem ∧ t.teams = s.teams) ∧
      ((s.team (16 * s.curCore + slot)).halted = false → 16 * s.curCore + slot < 9216 → s.members (16 * s.curCore + slot) = [16 * s.curCore + slot] →
        ∃ t, exec (.prem x) s = .next t ∧ (t.core s.curCore).preempt = some (16 * s.curCore + slot) ∧ (t.core s.curCore).haltAt = s.cycle + 225 ∧ (t.core s.curCore).premWait = true ∧
          t.cur.verdict = .stalled))) ∧
  (∀ (x : PrivArgs) (s : State) (slot tk : Nat), isAgent s.cur.gk = true → s.Ready [] [(x.a.toNat, 1), (x.b.toNat, 1)] → s.trueLanes x.guard ≠ 0 → slot = (s.g.rdS x.a.toNat).toNat →
    tk = 16 * s.curCore + slot →
    (16 ≤ slot ∨ tk ∉ s.teamsOn s.curCore ∨ (s.team tk).held = false → ∃ t, exec (.rtrap x) s = .next t ∧ s.Answers t x.b.toNat 3 .rtrap ∧ t.teams = s.teams) ∧
    (slot < 16 → tk ∈ s.teamsOn s.curCore → (s.team tk).held = true →
      (s.g.rdS x.b.toNat = 0 → ∃ t, exec (.rtrap x) s = .next t ∧ s.Answers t x.b.toNat 0 .rtrap ∧ (t.team tk).held = false ∧
        (∀ k i, isAgent k = false → teamOf k = tk → i < 32 → (t.grp k).pcOf i = (s.grp k).pcOf i ∧
          (t.grp k).waitOf i = if (s.grp k).waitOf i = .held then .run else (s.grp k).waitOf i) ∧ ∀ k, k ≠ s.cur.gk → teamOf k ≠ tk → t.grp k = s.grp k) ∧
      (s.g.rdS x.b.toNat = 1 → (∀ e ∈ s.logs, teamOf e.2.gk ≠ tk) → ∃ t, exec (.rtrap x) s = .next t ∧ s.Answers t x.b.toNat 0 .rtrap ∧ tabFind t.teams tk = none ∧
        (tabFind (t.grid (s.team tk).grid).retired (s.team tk).index).isSome = true) ∧
      (s.g.rdS x.b.toNat ≠ 0 → s.g.rdS x.b.toNat ≠ 1 → ∃ t v, exec (.rtrap x) s = .next t ∧ s.Answers t x.b.toNat v .rtrap))) ∧
  ∀ (x : PrivArgs) (s : State) (a c : Nat) (r : StartRec), isAgent s.cur.gk = true → s.Ready [] [(x.a.toNat, 1), (x.b.toNat, 1)] → s.trueLanes x.guard ≠ 0 →
    a = (s.g.rdS x.a.toNat).toNat → c = s.curCore → r = StartRec.ofNat (memNat s.mem.dram a 128) →
    (a % 128 ≠ 0 ∨ s.inWindow a 128 = false ∨ r.bad = true → ∃ t, exec (.lnch x) s = .next t ∧ s.Answers t x.b.toNat 4 .lnch ∧ t.teams = s.teams) ∧
    (a % 128 = 0 → s.inWindow a 128 = true → r.bad = false → r.record ≠ 0 →
      (tabFind s.records (State.recordKey r.asid r.record) = none → ∃ t, exec (.lnch x) s = .next t ∧ s.Answers t x.b.toNat 4 .lnch ∧ t.teams = s.teams) ∧
      ∀ y m sl p, tabFind s.records (State.recordKey r.asid r.record) = some y → y.tk ≠ 0 → y.complete = true → s.tooEarly y = false → s.kilnFits c y = true → s.coefFits c (s.grid y.grid).kernel.coef = true → m = s.team y.tk →
        s.freeSlot c = some sl → s.slotsFit c m.groups r.q0 = true → s.regsFit c m.groups m.regs r.q0 = true → s.scratchFit c m.scratch = some p → 2 ^ 35 ≤ y.tk → c < Config.cores →
        ∃ t n, exec (.lnch x) s = .next t ∧ s.Answers t x.b.toNat 0 .lnch ∧ tabFind t.records (State.recordKey r.asid r.record) = none ∧
          t.team (16 * c + sl) = { m with q0 := r.q0, scratchAt := p, age := n, halted := false }) ∧
    (a % 128 = 0 → s.inWindow a 128 = true → r.bad = false → r.record = 0 →
      (∀ u, s.endChain.entryBad c r.asid (BitVec.ofNat 64 r.entry) = some (true, u) → ∃ t, exec (.lnch x) s = .next t ∧ s.Answers t x.b.toNat 4 .lnch) ∧
      ∀ v u, s.endChain.entryBad c r.asid (BitVec.ofNat 64 r.entry) = some (false, v) → v.withEsums c (v.lnchGrid r) = (true, u) →
        (u.coefFits c (u.grid (u.lnchGrid r)).kernel.coef = false → ∃ t, exec (.lnch x) s = .next t ∧ t.teams = u.teams ∧ t.cur.verdict = .stalled) ∧
        (u.coefFits c (u.grid (u.lnchGrid r)).kernel.coef = true →
        (u.freeSlot c = none ∨ u.slotsFit c r.groups r.q0 = false → ∃ t, exec (.lnch x) s = .next t ∧ s.Answers t x.b.toNat 1 .lnch) ∧
        (∀ sl, u.freeSlot c = some sl → u.slotsFit c r.groups r.q0 = true →
          (u.regsFit c r.groups r.regs r.q0 = false → ∃ t, exec (.lnch x) s = .next t ∧ s.Answers t x.b.toNat 2 .lnch) ∧
          (u.regsFit c r.groups r.regs r.q0 = true → u.scratchFit c r.scratch = none → ∃ t, exec (.lnch x) s = .next t ∧ s.Answers t x.b.toNat 3 .lnch) ∧
          ∀ p, u.regsFit c r.groups r.regs r.q0 = true → u.scratchFit c r.scratch = some p → c < Config.cores → ∃ t m, exec (.lnch x) s = .next t ∧ s.Answers t x.b.toNat 0 .lnch ∧
            tabFind t.teams (16 * c + sl) = some m ∧ m.x = r.x ∧ m.y = r.y ∧ m.z = r.z ∧ m.groups = r.groups ∧ m.q0 = r.q0 ∧ m.regs = r.regs ∧ m.depth = r.depth ∧ m.scratchAt = p ∧ m.asid = r.asid ∧ (t.grid (u.lnchGrid r)).spinth = clampSpin r.spinth ∧
            ∀ g < r.groups, ∀ i < 32, (t.grp (32 * (16 * c + sl) + g)).pcOf i = BitVec.ofNat 64 r.entry ∧ ∀ n, (t.grp (32 * (16 * c + sl) + g)).rdV n i = 0)))

/-- Queues and packets: the driver's descriptor makes an idle queue; a KICK that is ahead raises the write index, and one too far ahead leaves OVERRUN; the head of the best queue is accepted in sequence and handed on by its kind, or the queue stops; a LAUNCH becomes a grid; a WAIT completes once its signal has reached the value; a SET writes its signal; a MIGRATE asks the page's origin; a FLOW makes or ends one end of a flow; a malformed packet completes with status 2; a completion increments the signal, writes its record and advances the queue (R219 to R221, R255 to R261, R264, R266). It rests on choices of the model: logs 11, 34, 56, 67, 112 and 121. -/
def Obligations.PacketEvents : Prop :=
  (∀ (s : State) (q d : Nat) (desc : List Byte), d = natOf desc → q < 4096 → 4 ≤ field d 8 1 → field d 8 1 ≤ 20 → field d 9 1 / 8 % 16 = 0 → field d 32 32 = 0 →
    ∃ t x, exec (.queueCreate q desc) s = .next t ∧ t = { s with queues := t.queues, mem := { s.mem with host := memPut s.mem.host x.status 0 16 } } ∧ t.queue? q = some x ∧ x.ring = field d 0 8 ∧ x.log2 = field d 8 1 ∧ x.prio = field d 9 1 % 8 ∧
      x.asid = field d 10 2 ∧ x.ctx = field d 12 4 ∧ x.compRing = field d 16 8 ∧ x.status = field d 24 8 ∧ x.read = 0 ∧ x.write = 0 ∧ x.state = .idle ∧ x.accepted = 0 ∧ x.completed = 0) ∧
  (∀ (s : State) (q i : Nat) (w : DWord) (x : Queue), s.queue? q = some x → i = w.toNat % 2 ^ 32 →
    (x.state.stuck = true ∨ ringDist x.read i = 0 ∨ 2 ^ 31 < ringDist x.read i → exec (.kick q w) s = .next s) ∧
    (x.state.stuck = false → 0 < ringDist x.read i → ringDist x.read i ≤ 2 ^ 31 →
      (2 ^ x.log2 < ringDist x.read i → ∃ t y, exec (.kick q w) s = .next t ∧ t.queue? q = some y ∧ y.state = .overrun ∧ y.write = x.write ∧ y.read = x.read) ∧
      (∀ v u, ringDist x.read i ≤ 2 ^ x.log2 → ringDist x.read x.write < ringDist x.read i → s.agentRead 0 x.asid x.ctx (State.ringAt x ((i + 2 ^ 32 - 1) % 2 ^ 32)) 8 (ringWaiter q) = .ok v u →
        ∃ t y, exec (.kick q w) s = .next t ∧ t.queue? q = some y ∧ y.write = i ∧ y.workPending = true ∧ y.read = x.read ∧ y.accepted = x.accepted ∧
          (v / 2 ^ 32 ≠ w.toNat / 2 ^ 32 → x.badAt = none → y.badAt = some ((i + 2 ^ 32 - 1) % 2 ^ 32)) ∧ (v / 2 ^ 32 = w.toNat / 2 ^ 32 → y.badAt = x.badAt)))) ∧
  (∀ (s : State) (c q b : Nat) (x : Queue), c < Config.cores → (s.queue? q).isSome = true → s.sys.boot = .ready → s.bestQueue = some b → s.queue? b = some x →
    (∀ e, s.agentRead c x.asid x.ctx (State.ringAt x x.read) 128 (ringWaiter b) = .bad e → ∃ t y, exec (.packetClaim c q) s = .next t ∧ t.queue? b = some y ∧ y.state = .ringfault) ∧
    ∀ v u seq, s.agentRead c x.asid x.ctx (State.ringAt x x.read) 128 (ringWaiter b) = .ok v u → seq = field v 4 4 →
      (seq ≠ (x.accepted + 1) % 2 ^ 32 ∨ field v 0 1 = 0 ∨ 5 < field v 0 1 → ∃ t y, exec (.packetClaim c q) s = .next t ∧ t.queue? b = some y ∧ y.state = .seqerr ∧ y.accepted = x.accepted) ∧
      (seq = (x.accepted + 1) % 2 ^ 32 → 1 ≤ field v 0 1 → field v 0 1 ≤ 5 → field v 1 1 / 2 = 0 → field v 2 2 = 0 → x.badAt ≠ some x.read →
        (field v 1 1 % 2 = 1 → x.accepted ≠ x.completed → ∃ t y, exec (.packetClaim c q) s = .next t ∧ t.queue? b = some y ∧ y.barrier = true ∧ y.accepted = x.accepted ∧ y.read = x.read) ∧
        (field v 1 1 % 2 = 0 ∨ x.accepted = x.completed → ∃ t y e, exec (.packetClaim c q) s = .next t ∧ t.queue? b = some y ∧ y.accepted = seq ∧ y.read = (x.read + 1) % 2 ^ 32 ∧
          t.rotate = (b + 1) % 4096 ∧ e ∈ t.agenda ∧
          e = if badSignal (field v 8 8) || badZeros (field v 0 1) v then Instr.packetComplete b seq 2 0 else if field v 0 1 = 1 then .launch b seq (bytesOf v 128)
            else if field v 0 1 = 2 then .wait b seq (bytesOf v 128) else if field v 0 1 = 3 then .set b seq (bytesOf v 128)
            else if field v 0 1 = 4 then .migrate b seq (bytesOf v 128) else .flow b seq (bytesOf v 128)))) ∧
  (∀ (s : State) (q seq b : Nat) (body : List Byte) (x : Queue), b = natOf body → s.queue? q = some x →
    (tabFind s.kernels (field b 16 8) = none ∨ (∃ k, tabFind s.kernels (field b 16 8) = some k ∧ badLaunch b k = true) →
      ∃ t, exec (.launch q seq body) s = .next t ∧ t = State.post { s with obs := { s.obs with named := s.obs.named.filter (· ≠ (q, seq)) } } [.packetComplete q seq 2 0]) ∧
    ∀ k, tabFind s.kernels (field b 16 8) = some k → badLaunch b k = false → field b 72 8 = 0 → (q, seq) ∉ s.obs.named → ∃ t g, exec (.launch q seq body) s = .next t ∧
      t.nextGrid = s.nextGrid + 1 ∧ t.teams = s.teams ∧ t.groups = s.groups ∧ t.agenda = s.agenda ∧ t.mem.dram = s.mem.dram ∧ g.suspended = x.susp ∧ g.replay = false ∧ g.spinth = clampSpin (field b 44 4) ∧ tabFind t.grids s.nextGrid = some g ∧ g.queue = q ∧ g.seq = seq ∧ g.kernel = k ∧ g.nx = field b 24 4 ∧ g.ny = field b 28 4 ∧
      g.nz = field b 32 4 ∧ g.count = g.nx * g.ny * g.nz ∧ g.next = 0 ∧ g.groups = field b 36 1 ∧ g.prio = field b 37 1 % 4 ∧ g.policy = field b 37 1 / 4 % 2 ∧ g.bartmo = field b 40 4 ∧
      g.root = field b 64 8 ∧ g.scales = field b 80 8 ∧ g.ctx = x.ctx ∧ g.asid = x.asid ∧ g.retired = [] ∧ ∀ j, j ≠ s.nextGrid → t.grid j = s.grid j) ∧
  (∀ (s : State) (q seq b a : Nat) (body : List Byte) (x : Queue), b = natOf body → a = field b 16 8 → s.queue? q = some x →
    (canonical a = false ∨ apertureOf a ≠ .glob ∨ a % 8 ≠ 0 → (∃ t, exec (.wait q seq body) s = .next t ∧ t = s.post [.packetComplete q seq 2 0]) ∧
      ∃ t, exec (.set q seq body) s = .next t ∧ t = s.post [.packetComplete q seq 2 0]) ∧
    (canonical a = true → apertureOf a = .glob → a % 8 = 0 →
      (∀ v u, s.agentRead 0 x.asid x.ctx a 8 (packetWaiter q seq) = .ok v u → (field b 24 8 ≤ v → ∃ t, exec (.wait q seq body) s = .next t ∧ t = u.post [.packetComplete q seq 0 0]) ∧
        (v < field b 24 8 → ∃ t, exec (.wait q seq body) s = .next t ∧ t.agenda = u.agenda ∧ t.mem.dram = u.mem.dram)) ∧
      (∀ p u, field b 32 1 = 0 → s.plainWrite 0 x.asid x.ctx a 8 (field b 24 8) (packetWaiter q seq) = .ok p u → ∃ t, exec (.set q seq body) s = .next t ∧ t = u.post [.packetComplete q seq 0 0]) ∧
      ∀ p u, field b 32 1 = 1 → s.agentAdd 0 x.asid x.ctx a (field b 24 8) (packetWaiter q seq) = .ok p u → ∃ t, exec (.set q seq body) s = .next t ∧ t = u.post [.packetComplete q seq 0 0])) ∧
  (∀ (s : State) (q seq a v : Nat) (x : Queue), s.queues = [(q, x)] → x.waiting = some (seq, a, v) → s.agenda = [] → ∀ y u, s.agentRead 0 x.asid x.ctx a 8 (packetWaiter q seq) = .ok y u → u.agenda = [] →
    ∃ t, exec .waitRecheck s = .next t ∧ (v ≤ y → t.agenda = [.packetComplete q seq 0 0]) ∧ (y < v → t.agenda = [] ∧ t.queue? q = some { x with checkAt := u.now })) ∧
  (∀ (s : State) (q seq b va n : Nat) (body : List Byte) (x : Queue), b = natOf body → va = field b 16 8 → n = field b 24 1 → s.queue? q = some x → n < s.fab.n → canonical va = true → va % 65536 = 0 →
    (apertureOf va ≠ .glob → ∃ t, exec (.migrate q seq body) s = .next t ∧ t = s.post [.packetComplete q seq 0x10A 0]) ∧
    (apertureOf va = .glob → (∀ pa e z, s.walk x.asid va = .page pa e z → Pte.s e = false → ∃ t, exec (.migrate q seq body) s = .next t ∧ t = s.post [.packetComplete q seq 0x10A 0]) ∧
      ∀ o, s.walk x.asid va = .elsewhere o → s.peerDown n = false → s.peerDown o = false → ∃ t, exec (.migrate q seq body) s = .next t ∧ t.mem = s.mem ∧
        t.Sends o Pk.migRequest x.asid va [n, State.packetTag s.devid q seq])) ∧
  (∀ (s u : State) (q seq b d id : Nat) (body : List Byte) (x : Queue), b = natOf body → s.queue? q = some x → canonical (field b 24 8) = true → apertureOf (field b 24 8) = .glob →
    s.agentRead 0 x.asid x.ctx (field b 24 8) 64 (packetWaiter q seq) = .ok d u → id = field d 36 2 % 4096 → field d 39 1 / 4 % 2 = 0 →
    (field b 16 1 = 0 → badFlow u.devid d = false → u.flow? id = none → ∃ t f, exec (.flow q seq body) s = .next t ∧ t.flow? id = some f ∧ f.sender = true ∧ f.frame = field d 32 4 ∧
      f.esize = 2 ^ (field d 39 1 % 4) ∧ f.mirror = field d 0 8 ∧ f.table = field d 16 8 ∧ f.source = field d 38 1 ∧ f.dests = (List.range (field d 40 1)).map (fun i => field d (48 + i) 1) ∧
      f.ctx = x.ctx ∧ f.multi = decide (field d 39 1 / 8 % 2 = 1) ∧ .packetComplete q seq 0 0 ∈ t.agenda ∧ t.mem = { u.mem with dram := t.mem.dram, pinned := u.mem.pinned ++ State.flowFrames f } ∧
      ∀ a, tabGet (0 : Byte) t.mem.dram a = if (f.mirror ≤ a ∧ a < f.mirror + mirrorSize f) ∨ (f.table ≤ a ∧ a < f.table + tableSize f) then 0 else tabGet 0 u.mem.dram a) ∧
    (field b 16 1 = 0 → badFlow u.devid d = true ∨ (u.flow? id).isSome = true → ∃ t, exec (.flow q seq body) s = .next t ∧ t = (s.takeFail (packetWaiter q seq)).post [.packetComplete q seq 2 0]) ∧
    (field b 16 1 = 1 → (u.flow? id).isSome = true → ∃ t, exec (.flow q seq body) s = .next t ∧ t.flow? id = none ∧ .packetComplete q seq 0 0 ∈ t.agenda ∧ t.mem.dram = u.mem.dram)) ∧
  (∀ (s u : State) (q seq b d key : Nat) (body : List Byte) (x : Queue), b = natOf body → s.queue? q = some x → field b 16 1 = 0 → notGlobal (field b 24 8) = false →
    s.agentRead 0 x.asid x.ctx (field b 24 8) 64 (packetWaiter q seq) = .ok d u → key = recvKey (field d 38 1) (field d 36 2 % 4096) → field d 39 1 / 4 % 2 = 1 →
    (badFlow u.devid d = true ∨ (u.flow? key).isSome = true → ∃ t, exec (.flow q seq body) s = .next t ∧ t = (s.takeFail (packetWaiter q seq)).post [.packetComplete q seq 2 0]) ∧
    (badFlow u.devid d = false → u.flow? key = none → (∀ e, u.plainWrite portCore x.asid x.ctx (field d 24 8) 16 0 (packetWaiter q seq) = .bad e → ∃ t, exec (.flow q seq body) s = .next t ∧
        t = (s.takeFail (packetWaiter q seq)).post [.packetComplete q seq 2 0]) ∧
      ∀ p w, u.plainWrite portCore x.asid x.ctx (field d 24 8) 16 0 (packetWaiter q seq) = .ok p w → ∃ t f, exec (.flow q seq body) s = .next t ∧ t.flow? key = some f ∧ f.sender = false ∧ f.frame = field d 32 4 ∧
        f.esize = 2 ^ (field d 39 1 % 4) ∧ f.mirror = field d 0 8 ∧ f.deliver = field d 8 8 ∧ f.table = field d 16 8 ∧ f.record = field d 24 8 ∧ f.source = field d 38 1 ∧ f.ctx = x.ctx ∧
        f.plane0 = [] ∧ f.plane1 = [] ∧ f.gen0 = [] ∧ f.gen1 = [] ∧ .packetComplete q seq 0 0 ∈ t.agenda ∧ t.mem = { w.mem with dram := t.mem.dram, pinned := w.mem.pinned ++ State.flowFrames f } ∧
        ∀ a, tabGet (0 : Byte) t.mem.dram a = if (f.mirror ≤ a ∧ a < f.mirror + mirrorSize f) ∨ (f.table ≤ a ∧ a < f.table + tableSize f) then 0 else tabGet 0 w.mem.dram a)) ∧
  ∀ (s : State) (q seq st err : Nat) (x : Queue), s.queue? q = some x →
    (tabFind x.signals seq = none → x.status + 16 ≤ x.compRing + 32 * (x.compCount % 4096) ∨ x.compRing + 32 * (x.compCount % 4096) + 32 ≤ x.status →
      ∃ t y, exec (.packetComplete q seq st err) s = .next t ∧ t.completions = s.completions + 1 ∧ t.compLog = s.compLog ++ [(q, seq, st, s.now, err)] ∧ .waitRecheck ∈ t.agenda ∧
        memNat t.mem.host (x.compRing + 32 * (x.compCount % 4096)) 32 = (s.completions + 1 + 2 ^ 64 * (q + 2 ^ 16 * st) + 2 ^ 96 * seq + 2 ^ 128 * s.now + 2 ^ 192 * err) % 256 ^ 32 ∧
        t.mem.dram = s.mem.dram ∧ t.queue? q = some y ∧ y.compCount = x.compCount + 1 ∧ (seq = (x.completed + 1) % 2 ^ 32 → x.doneSet = [] → y.completed = seq ∧ y.doneSet = [])) ∧
    ∀ a p u, tabFind x.signals seq = some a → s.agentAdd 0 x.asid x.ctx a 1 (packetWaiter q seq) = .ok p u → ∃ t, exec (.packetComplete q seq st err) s = .next t ∧ t.mem.dram = u.mem.dram ∧
      t.compLog = u.compLog ++ [(q, seq, st, u.now, err)] ∧ .waitRecheck ∈ t.agenda

/-- The end of a grid drops every row-1 line of its context from every L1 and completes the LAUNCH. ABORT refuses what is unclaimed with status 3 and aborts the queue's grids; SUSPEND stops the queue, its grids and, by pre-emption, their teams, and its withdrawal lets them go on. QPUSH checks its true-guard lanes in ascending order and puts each lane's packet into the ring, or into the grid's spill area, or answers false; a spilled packet moves when the ring has room (R26, R92, R140, R261, R262, R264, R364). It rests on choices of the model: logs 61, 114, 115 and 122. -/
def Obligations.QueueEvents : Prop :=
  (∀ (s : State) (gi : Nat) (x : Grid) (e : Nat × Nat), tabFind s.grids gi = some x →
    (x.aborted = none → x.stopping = true ∨ x.halting = true → exec (.kernelBoundary gi) s = .next s) ∧ (x.aborted ≠ none ∨ (x.stopping = false ∧ x.halting = false) →
    e = (match x.aborted with | some p => p | none => if x.trapped = 0 then (0, 0) else (1, x.trapped)) → ∃ t, exec (.kernelBoundary gi) s = .next t ∧ tabFind t.grids gi = none ∧
      (∀ c l, l ∈ (t.core c).l1 ↔ l ∈ (s.core c).l1 ∧ ¬ (l.2.row1 = true ∧ l.2.ctx = x.ctx)) ∧ .packetComplete x.queue x.seq e.1 e.2 ∈ t.agenda ∧ t.mem = s.mem ∧
      ∀ j, j ≠ gi → t.grid j = s.grid j)) ∧
  (∀ (s : State) (q : Nat) (x : Queue) (r : State × Bool), s.queue? q = some x → r = State.refuseRest q (ringDist x.read x.write) s → ∃ t, exec (.abortQueue q) s = .next t ∧
    (r.2 = true → (∀ i < ringDist x.read x.write, .packetComplete q ((x.accepted + 1 + i) % 2 ^ 32) 3 0 ∈ t.agenda) ∧ t.mem.dram = s.mem.dram) ∧ (r.2 = false → .abortQueue q ∈ t.agenda) ∧
    (∀ gi, (tabFind s.grids gi).isSome = true → (s.grid gi).queue = q → (s.grid gi).aborted = none → (t.grid gi).aborted = some (3, 0)) ∧
    ((s.grids.map (·.1)).Nodup → ∀ gi, (s.grid gi).queue ≠ q → t.grid gi = s.grid gi)) ∧
  (∀ (s : State) (q : Nat) (x : Queue) (on : Bool), s.queue? q = some x → x.state.stuck = true → ∃ t y, exec (.suspend q on) s = .next t ∧ t.queue? q = some y ∧ y.state = x.state ∧ y.susp = on) ∧
  (∀ (s : State) (q : Nat) (x : Queue), s.queue? q = some x → x.state.stuck = false →
    (∃ t y, exec (.suspend q true) s = .next t ∧ t.queue? q = some y ∧ y.state = .suspended ∧ t.queueReg q 0x010 = 3 ∧ t.queueReg q 0x018 = 1 ∧
      (∀ gi, (tabFind s.grids gi).isSome = true → (s.grid gi).queue = q → (t.grid gi).suspended = true) ∧ t.mem = { s.mem with host := t.mem.host } ∧ t.teams = s.teams ∧
      ∀ tk m g, s.teams = [(tk, m)] → tk < 9216 → m.halted = false → m.held = false → tabFind s.grids m.grid = some g → g.queue = q → g.held = false → g.aborted = none → s.members tk = [tk] →
        s.saveFits m.grid [s.recordSize tk] = true → (s.core (tk / 16)).preempt = none → (t.core (tk / 16)).preempt = some tk ∧ (t.core (tk / 16)).haltAt = s.cycle + 225) ∧
    ∃ t y, exec (.suspend q false) s = .next t ∧ t.queue? q = some y ∧ y.state ≠ .suspended ∧ y.state.stuck = false ∧
      (∀ gi, (tabFind s.grids gi).isSome = true → (s.grid gi).queue = q → (t.grid gi).suspended = false) ∧ t.agenda = s.agenda ∧ t.teams = s.teams) ∧
  (∀ (s : State) (gi q i w : Nat) (rest : List (Nat × Nat)) (x : Queue) (g : Grid), g = s.grid gi → g.spill = (q, i) :: rest → s.queue? q = some x → w = packetWaiter q (2 ^ 32 + 1) →
    (State.ringFree x = 0 → exec (.spillMove gi) s = .next s) ∧
    ∀ p u d v, State.ringFree x ≠ 0 → s.agentRead 0 g.asid g.ctx (State.spillPlace g i) 128 w = .ok p u →
      u.plainWrite 0 x.asid x.ctx (State.ringAt x x.write) 128 (p % 2 ^ 32 + 2 ^ 32 * (x.nextSeq % 2 ^ 32) + p / 2 ^ 64 * 2 ^ 64) w = .ok d v →
      ∃ t y, exec (.spillMove gi) s = .next t ∧ (t.grid gi).spill = rest ∧ t.mem.dram = v.mem.dram ∧ t.queue? q = some y ∧ y.write = (x.write + 1) % 2 ^ 32 ∧
        y.nextSeq = (x.nextSeq + 1) % 2 ^ 32 ∧ y.read = x.read) ∧
  ∀ (x : QpushArgs) (s : State) (m : LaneMask) (a : Nat → Nat) (q w : Nat) (ok : Bool), s.Ready [(x.a.toNat, 2)] [(x.b.toNat % 256, 1)] → m = s.trueLanes x.guard →
    (∀ i, a i = (s.g.rdPair x.a.toNat i).toNat) → q = (s.g.rdS (x.b.toNat % 256)).toNat % 4096 → w = kstabWaiter s.cur.gk (lowLane m) →
    ok = (match s.queue? q with | some y => y.devWrite && y.ctx = s.tm.ctx | none => false) →
    (m = 0 → ∃ t, exec (.qpush x) s = .next t ∧ s.Done t id) ∧
    (m ≠ 0 → s.gr.replay = true → ∃ t, exec (.qpush x) s = .next t ∧ s.Recorded t s.cur.gk Cause.prot 0 2 m s.cur.pc) ∧
    (m ≠ 0 → s.gr.replay = false → ∀ c, s.endChain.pushCheck ok (lowLane m) (a (lowLane m)) = some c →
      (canonical (a (lowLane m)) = false → c = (Cause.nomap, 0)) ∧ (canonical (a (lowLane m)) = true → a (lowLane m) % 128 ≠ 0 → c = (Cause.misalign, 0)) ∧
      (canonical (a (lowLane m)) = true → a (lowLane m) % 128 = 0 → ok = false → c = (Cause.prot, 2)) ∧
      ∃ t, exec (.qpush x) s = .next t ∧ s.Recorded t s.cur.gk c.1 0 c.2 (maskOf fun i => m.getLsbD i && decide (s.endChain.pushCheck ok i (a i) = some c)) s.cur.pc) ∧
    (m ≠ 0 → s.gr.replay = false → (∀ i < 32, m.getLsbD i = true → s.endChain.pushCheck ok i (a i) = none) → s.endChain.fencePassed s.cur.gk m .dev = true →
      ((∀ i, m.getLsbD i → match s.placeOf s.cur.gk i (a i) 128 with | some (.scratch p) => s.touchesAbsent p 128 = false | some (.vault _) => True | _ => False) →
        ∃ pk u, State.readPackets a w (lanesOf m) s.endChain = .all pk u) ∧
      ∀ (pk : Tab Nat) (u : State), State.readPackets a w (lanesOf m) s.endChain = .all pk u →
        (∀ v, State.pushAll q s.tm.grid x.p.toNat pk w (lanesOf m) u = (v, none) → ∃ t, exec (.qpush x) s = .next t ∧ s.Advanced t ∧ (∀ r i, t.g.rdV r i = s.g.rdV r i) ∧
          (∀ r, t.g.rdS r = s.g.rdS r) ∧ (∀ n i, ¬ (n = x.p.toNat ∧ m.getLsbD i) → t.g.rdP n i = s.g.rdP n i) ∧ t.mem = v.mem ∧ t.queues = v.queues ∧ t.grids = v.grids) ∧
        ∀ (i : Nat) (y : Queue) (g : Grid) (p : Nat), lanesOf m = [i] → x.p.toNat < 15 → u.queue? q = some y → g = u.grid s.tm.grid → p = tabGet 0 pk i →
          (∀ d v, g.spill = [] → State.ringFree y ≠ 0 →
            u.plainWrite u.curCore y.asid y.ctx (State.ringAt y y.write) 128 (p % 2 ^ 32 + 2 ^ 32 * (y.nextSeq % 2 ^ 32) + p / 2 ^ 64 * 2 ^ 64) w = .ok d v →
            ∃ t z, exec (.qpush x) s = .next t ∧ t.g.rdP x.p.toNat i = true ∧ t.queue? q = some z ∧ z.write = (y.write + 1) % 2 ^ 32 ∧ z.nextSeq = (y.nextSeq + 1) % 2 ^ 32 ∧ z.read = y.read ∧
              t.mem.dram = v.mem.dram) ∧
          (∀ d v, g.spill ≠ [] ∨ State.ringFree y = 0 → g.spill.length < g.kernel.spill → u.plainWrite u.curCore g.asid g.ctx (State.spillPlace g g.spilled) 128 p w = .ok d v →
            ∃ t, exec (.qpush x) s = .next t ∧ t.g.rdP x.p.toNat i = true ∧ (t.grid s.tm.grid).spill = g.spill ++ [(q, g.spilled)] ∧ t.mem.dram = v.mem.dram) ∧
          (g.spill ≠ [] ∨ State.ringFree y = 0 → g.kernel.spill ≤ g.spill.length →
            ∃ t, exec (.qpush x) s = .next t ∧ t.g.rdP x.p.toNat i = false ∧ (t.grid s.tm.grid).spill = g.spill ∧ t.mem.dram = u.mem.dram))

/-- Geyser takes a row of its counts into the host's ring, or drops it when the ring is full; its registers and the trial's hold still while they are enabled. A trial that is enabled in range starts its first quantum with the next cycle, and at a quantum's end holds the groups that issued outside the range for D cycles. In replay mode a checkpoint keeps the grid's teams and counts, a journal entry keeps a page's old bytes (in a list beside DRAM, log 81), and a stop halts the grid's teams and takes it back to its checkpoint. Registers take what is written to them, in its event: a parked wavelength that is cleared wakes 4 µs later, and firmware's limits stay below the fused caps (R5, R125, R199, R213, R218, R268, R272 to R276, R279 to R281). It rests on choices of the model: logs 62, 63, 64, 81, 100, 112, 113 and 116. -/
def Obligations.ObserverEvents : Prop :=
  (∀ (s : State) (v : DWord), ∃ t, exec (.geyserEnable v) s = .next t ∧ t.obs.gctl = v &&& 0xFFFF0001 ∧ t.mem = { s.mem with host := t.mem.host } ∧ t.groups = s.groups ∧
    (v.getLsbD 0 = true → s.obs.gctl.getLsbD 0 = false → t.obs.gt0 = s.now ∧ t.obs.gnext = 1) ∧ (v.getLsbD 0 = false ∨ s.obs.gctl.getLsbD 0 = true → t.obs = { s.obs with gctl := t.obs.gctl } ∧ t.mem = s.mem)) ∧
  (∀ s : State, (s.obs.gctl.getLsbD 0 = false ∨ s.now < s.obs.gt0 + s.obs.gnext * s.geyserInterval → exec .geyserSample s = .next s) ∧
    (s.obs.gctl.getLsbD 0 = true → s.obs.gt0 + s.obs.gnext * s.geyserInterval ≤ s.now → ∃ t, exec .geyserSample s = .next t ∧ t.obs.gnext = s.obs.gnext + 1 ∧ t.mem.dram = s.mem.dram ∧
      if ringDist s.obs.gread s.obs.gwrite < 2 ^ s.geyserRows
      then t.obs.gwrite = (s.obs.gwrite + 1) % 2 ^ 32 ∧ t.obs.gpend = 0 ∧ t.obs.gdrop = s.obs.gdrop ∧
        memNat t.mem.host (s.obs.gring.toNat + 128 * (s.obs.gwrite % 2 ^ s.geyserRows)) 128 = s.geyserRow s.obs.gnext % 256 ^ 128
      else t.obs.gwrite = s.obs.gwrite ∧ t.obs.gpend = s.obs.gpend + 1 ∧ t.obs.gdrop = min (2 ^ 32 - 1) (s.obs.gdrop + 1) ∧ t.mem = s.mem)) ∧
  (∀ (s : State) (v : DWord),
    (s.obs.trctl.getLsbD 0 = true → v.getLsbD 0 = true → exec (.trialEnable v) s = .next s) ∧
    (s.obs.trctl.getLsbD 0 = true → v.getLsbD 0 = false → ∃ t, exec (.trialEnable v) s = .next t ∧ t.obs.trctl = v &&& 0xFFFFFFFFFFFF0001 ∧ ∀ k, (t.grp k).trialUntil = 0) ∧
    (s.obs.trctl.getLsbD 0 = false → v.getLsbD 0 = true → s.trialQ < 64 ∨ s.trialQ ≤ s.trialD → ∃ t, exec (.trialEnable v) s = .next t ∧ t.obs.trctl.getLsbD 0 = false ∧ t.cores = s.cores) ∧
    (s.obs.trctl.getLsbD 0 = false → v.getLsbD 0 = true → 64 ≤ s.trialQ → s.trialD < s.trialQ → ∃ t, exec (.trialEnable v) s = .next t ∧ t.obs.trctl = v &&& 0xFFFFFFFFFFFF0001 ∧
      t.obs.trialNext = s.cycle + 1 + s.trialQ ∧ t.cores = s.cores ∧ ∀ k, (t.grp k).trialUntil = 0 ∧ (t.grp k).trialOut = false)) ∧
  (∀ s : State, (s.obs.trctl.getLsbD 0 = false ∨ s.cycle < s.obs.trialNext → exec .trialQuantum s = .next s) ∧
    (s.obs.trctl.getLsbD 0 = true → s.obs.trialNext ≤ s.cycle → ∃ t, exec .trialQuantum s = .next t ∧ t.mem = s.mem ∧ t.obs = { s.obs with trialNext := s.obs.trialNext + s.trialQ } ∧
    ∀ k, t.grp k = if isAgent k = false ∧ switchedOut k = false ∧ s.trialOn k = true
      then { s.grp k with trialUntil := if (s.grp k).trialOut then s.cycle + s.trialD else (s.grp k).trialUntil, trialOut := false } else s.grp k)) ∧
  (∀ (s : State) (v : DWord), ∃ t, exec (.replayEnable v) s = .next t ∧ t.obs.rpctl = (v &&& 0xFFFFFFFFFFFF0001) ||| (if v.getLsbD 0 then s.obs.rpctl &&& 0xC else 0) ∧
    (v.getLsbD 1 = true → .stop ∈ t.agenda) ∧ (v.getLsbD 1 = false → t.agenda = s.agenda) ∧ t.mem = s.mem) ∧
  (∀ (s u : State) (gi : Nat) (l keys : List Nat), (tabFind s.grids gi).isSome = true → (s.grid gi).replay = true → (s.grid gi).aborted = none → (s.grid gi).halting = false →
    l = (s.teams.filter fun e => e.2.grid = gi).map (·.1) → l.any s.passOutputs = false → (∀ e ∈ s.records, e.2.grid = gi → e.2.tk ≠ 0 → e.2.complete = true) →
    State.keepAll l ((l.filter fun k => k < 9216).foldl (fun (t : State) k => t.quiesce k) s) = some (keys, u) →
    ∃ t c, exec (.checkpoint gi) s = .next t ∧ (t.grid gi).checkpoints = (s.grid gi).checkpoints ++ [c] ∧ c.gtime = s.now ∧ c.records = keys ∧ c.next = (s.grid gi).next ∧
      c.retired = (s.grid gi).retired ∧ t.obs.journaled = [] ∧ (∀ k ∈ keys, .recordComplete k ∈ t.agenda) ∧ t.mem = s.mem) ∧
  (∀ (s : State) (asid va pa : Nat), s.obs.rpctl.extractLsb' 2 2 = 1 → pa / 65536 ∉ s.obs.journaled →
    ((s.obs.journal.length + 1) * 65600 ≤ s.obs.rpjsz.toNat → ∃ t e, exec (.journalEntry asid va pa) s = .next t ∧ t.obs.journal = s.obs.journal ++ [e] ∧ e.asid = asid ∧
      e.va = va / 65536 * 65536 ∧ e.pa = pa / 65536 * 65536 ∧ (∀ c, c ∈ e.old ↔ c ∈ s.mem.dram ∧ c.1 / 65536 = pa / 65536) ∧ pa / 65536 ∈ t.obs.journaled ∧ t.mem = s.mem) ∧
    (s.obs.rpjsz.toNat < (s.obs.journal.length + 1) * 65600 → ∃ t, exec (.journalEntry asid va pa) s = .next t ∧ t.obs.rpctl.extractLsb' 2 2 = 3 ∧ t.obs.journal = s.obs.journal ∧ t.mem = s.mem)) ∧
  (∀ s : State, s.obs.rpctl.extractLsb' 2 2 ≠ 1 → exec .stop s = .next s) ∧
  (∀ (s : State) (gi : Nat) (x : Grid) (c : Ckpt), s.obs.rpctl.extractLsb' 2 2 = 1 → s.grid gi = x → x.aborted = none →
    (s.grids.find? fun e => e.2.replay && e.2.queue = (s.obs.rpctl.extractLsb' 48 16).toNat && e.2.seq = (s.obs.rpctl.extractLsb' 16 32).toNat) = some (gi, x) →
    x.checkpoints = [c] → s.ckptOk c (s.obs.rpstop.extractLsb' 32 32).toNat (s.obs.rpstop.extractLsb' 27 5).toNat (s.obs.rpstop.extractLsb' 22 5).toNat s.obs.rpcnt.toNat = true →
    ((∃ e ∈ s.teams, e.1 < 9216 ∧ e.2.grid = gi) → ∃ t, exec .stop s = .next t ∧ (t.grid gi).halting = true ∧ t.teams = s.teams ∧ t.mem = { s.mem with host := t.mem.host } ∧
      ∀ tk m, s.teams = [(tk, m)] → m.halted = false → m.held = false → x.held = false → s.members tk = [tk] → s.saveFits gi [s.recordSize tk] = true → (s.core (tk / 16)).preempt = none →
        (t.core (tk / 16)).preempt = some tk) ∧
    ((∀ e ∈ s.teams, e.2.grid = gi → 9216 ≤ e.1) → (∀ e ∈ s.teams, e.1 < 9216 → (s.grid e.2.grid).leaves = false) →
      (∀ r ∈ s.records, r.2.grid = gi → r.2.tk ≠ 0 → s.recordSettled r.2.tk = true) → ∃ t, exec .stop s = .next t ∧ (t.grid gi).stopping = true ∧ (t.grid gi).halting = false ∧
        (t.grid gi).held = false ∧ (t.grid gi).next = c.next ∧ (t.grid gi).count = c.count ∧ (t.grid gi).retired = c.retired ∧ (t.grid gi).checkpoints = [c] ∧
        (s.obs.journal = [] → t.mem.dram = s.mem.dram) ∧ ∀ e, s.obs.journal = [e] → 0 < e.ckpt → (e.old.map (·.1)).Nodup → (∀ b ∈ e.old, b.1 / 65536 = e.pa / 65536) →
          ∀ a, tabGet (0 : Byte) t.mem.dram a = if a / 65536 = e.pa / 65536 then tabGet 0 e.old a else tabGet 0 s.mem.dram a)) ∧
  ∀ (s : State) (off : Nat) (v : DWord) (agent : Bool),
    exec (.registerWrite .geyser 0 v agent) s = exec (.geyserEnable v) s ∧ exec (.registerWrite .trial 0x18 v agent) s = exec (.trialEnable v) s ∧
    exec (.registerWrite .replay 0 v agent) s = exec (.replayEnable v) s ∧
    (s.obs.gctl.getLsbD 0 = true → off ∈ [0x08, 0x10, 0x28, 0x30] → exec (.registerWrite .geyser off v agent) s = .next s) ∧
    (s.obs.trctl.getLsbD 0 = true → off ≠ 0x18 → exec (.registerWrite .trial off v agent) s = .next s) ∧
    (s.obs.trctl.getLsbD 0 = false → ∃ t, exec (.registerWrite .trial 0x10 v agent) s = .next t ∧ t.obs = { s.obs with trdq := v &&& 0x000FFFFF000FFFFF } ∧ t.mem = s.mem) ∧
    (∃ t, exec (.registerWrite .replay 0x28 v agent) s = .next t ∧ t.obs = { s.obs with rpcnt := v }) ∧
    (∃ t, exec (.registerWrite .fabric 0x20 v true) s = .next t ∧ t.fab = { s.fab with relayTh := v.toNat % 16, bulkTh := v.toNat / 16 % 16 }) ∧
    (∀ p < 64, ∃ t, exec (.registerWrite (.port p) 0x08 v true) s = .next t ∧ (t.port p).parked = v ∧
      ∀ w < 64, (s.port p).parked.getLsbD w = true → v.getLsbD w = false → ∃ e ∈ (t.port p).wakes, e.1.getLsbD w = true ∧ e.2 = s.now + 4000) ∧
    (∃ t, exec (.registerWrite .limits 0x00 v true) s = .next t ∧ t.sys.fwPower = min v.toNat Config.powerCap ∧ t.mem = { s.mem with host := t.mem.host } ∧ t.sys.actions = s.sys.actions ++ [(s.sys.actions.length + 1, Action.cap.code)]) ∧
    (∃ t, exec (.registerWrite .limits 0x08 v true) s = .next t ∧ t.sys.fwJunction = min v.toNat Config.junctionCap ∧ t.mem = { s.mem with host := t.mem.host } ∧ t.sys.actions = s.sys.actions ++ [(s.sys.actions.length + 1, Action.cap.code)]) ∧
    (∃ t, exec (.registerWrite .limits 0x10 v true) s = .next t ∧ t.mem = { s.mem with watermark := max 1 (min 100 v.toNat) }) ∧
    (∃ t, exec (.registerWrite .limits 0x18 v true) s = .next t ∧ t = { s with errRing := v.toNat }) ∧
    (∃ t, exec (.registerWrite .limits 0x20 v true) s = .next t ∧ t = { s with sys := { s.sys with actionRing := v.toNat } }) ∧
    (∀ p < 128, ∀ w < 64, ∃ t, exec (.registerWrite (.port p) (0x80 + 2 * w) v true) s = .next t ∧ tabGet 0 (t.port p).health w = v.toNat % 65536 ∧
      ((t.port p).sick.getLsbD w = true ↔ (s.port p).sick.getLsbD w = true ∧ v.toNat % 65536 ≠ 0) ∧ ∀ q, q ≠ p → t.port q = s.port q) ∧
    (∀ k, ∃ t, exec (.registerWrite (.code k) off v false) s = .next t ∧ t = { s with kernels := t.kernels } ∧ tabFind t.kernels off = some k) ∧
    (∀ n o, n < s.fab.n → s.walk v.toNat off = .elsewhere o → ∃ t, exec (.registerWrite (.pages n) off v true) s = .next t ∧ t.mem = s.mem ∧ t.Sends o Pk.migRequest v.toNat (off / 65536 * 65536) [n, 0]) ∧
    exec (.registerWrite .limits off v false) s = .next s ∧ exec (.registerWrite .fabric off v false) s = .next s ∧ ∀ p, exec (.registerWrite (.port p) off v false) s = .next s

/-- Starting and outside accesses. After reset the registers hold the values that the spec gives, no memory byte is listed, and the image has not been checked. A wrong magic, size, Ed448 signature or security version leaves BOOTFAIL; otherwise the SHAKE256 digest of header and body is measurement 0, firmware enters where the header says, and a start then brings an idle module with its DRAM zeroed but for what a warm start spares. A die over a limit runs slower by one more divisor step, and comes back step by step. A CXL.mem write puts its bytes at their physical address, line by line as the home slices have room; a read answers with its line's bytes and changes none. SPDM answers with the measurement and names its algorithms (R5, R14, R199, R218, R269 to R272, R275, R279, R379). It rests on choices of the model: logs 1, 2, 35, 76, 79, 80, 98, 101 and 113. -/
def Obligations.StartEvents : Prop :=
  (State.reset.sys.boot = .waiting ∧ State.reset.fab.slotNs = 10000 ∧ State.reset.fab.epoch = 0 ∧ State.reset.fab.n = 0 ∧ State.reset.fab.slot = 0 ∧ (∀ f < 64, State.reset.fabricReg (0x100 + 8 * f) = BitVec.ofNat 64 f) ∧ State.reset.fab.relayTh = 1 ∧ State.reset.fab.bulkTh = 15 ∧
    (∀ p, (State.reset.port p).set = 0 ∧ (State.reset.port p).down = true ∧ (State.reset.port p).parked = 0 ∧ (State.reset.port p).keystop = false ∧ (State.reset.port p).uncorrectable = 0) ∧
    State.reset.obs.gctl = 1000 <<< 16 ∧ State.reset.obs.gsize = 4 ∧ State.reset.obs.gread = 0 ∧ State.reset.obs.gwrite = 0 ∧ State.reset.obs.trdq = 1000 <<< 32 ∧ State.reset.obs.trctl = 0 ∧
    State.reset.obs.rpctl = 0 ∧ State.reset.obs.rpcki = 0 ∧ (∀ k, (State.reset.grp k).status = 0) ∧ ∀ f, tabGet Frame.free State.reset.mem.frames f = ⟨0, false, false, true, false, false⟩) ∧
  (∀ (s : State) (h body sig : List Byte) (w : List (Nat × Nat)), ∃ t, exec (.boot h body sig w) s = .next t ∧ t = { s with sys := t.sys, mem := { s.mem with host := t.mem.host } } ∧
    if imageOk h body sig = true ∧ s.sys.fuseSec ≤ headerField h 16 4
    then h.length = 64 ∧ headerField h 0 4 = Config.bootMagic % 2 ^ 32 ∧ headerField h 8 8 = body.length ∧ Crypto.edVerify Config.bootKey (imageDigest h body) (sig.map BitVec.toNat) = true ∧
      t.sys.boot = .verified ∧ t.sys.measurement = BitVec.ofNat 512 (Crypto.ofLE (imageDigest h body)) ∧ t.sys.entry = BitVec.ofNat 64 (headerField h 24 8) ∧
      t.sys.windows = w.take 16 ∧ t.sys.actions.length = s.sys.actions.length + (w.take 16).length
    else t.sys = { s.sys with boot := .bootfail } ∧ t.mem = s.mem) ∧
  (∀ (s : State), (s.sys.boot ≠ .verified → exec .coldStart s = .next s) ∧ (s.sys.boot = .verified → ∃ t, exec .coldStart s = .next t ∧ t.sys.boot = .ready ∧ t.groups = [] ∧ t.teams = [] ∧ t.grids = [] ∧
    t.queues = [] ∧ t.logs = [] ∧ t.agenda = [] ∧ t.mem.dram = [] ∧ t.mem.vault = [] ∧ t.mem.scratch = [] ∧ t.mem.host = s.mem.host ∧ t.cycle = s.cycle ∧ t.third = s.third ∧ t.fab.trained = false ∧
    t.sys.measurement = s.sys.measurement)) ∧
  (∀ (s : State) (l : List (Nat × Nat)), (s.sys.boot ≠ .verified → exec (.warmStart l) s = .next s) ∧ (s.sys.boot = .verified → ∃ t, exec (.warmStart l) s = .next t ∧ t.sys.boot = .ready ∧
    t.groups = [] ∧ t.teams = [] ∧ t.grids = [] ∧ t.queues = [] ∧ t.mem.vault = [] ∧ t.mem.scratch = [] ∧ t.mem.host = s.mem.host ∧ t.sys.trainRecord = s.sys.trainRecord ∧
    (∀ a, tabGet (0 : Byte) t.mem.dram a = if l.any (fun r => r.1 ≤ a && a < r.1 + r.2) then tabGet 0 s.mem.dram a else 0) ∧
    ∀ p, (t.port p).heater = (s.port p).heater ∧ (t.port p).live = false ∧ (t.port p).down = true)) ∧
  (∀ (s : State) (die w j d : Nat), d = tabGet 1 s.sys.slow die → die < Config.dies → ∃ t, exec (.powerClamp die w j) s = .next t ∧ (∀ k, k ≠ die → tabGet 1 t.sys.slow k = tabGet 1 s.sys.slow k) ∧
    tabGet 1 t.sys.slow die = if min Config.powerCap s.sys.fwPower < w ∨ min Config.junctionCap s.sys.fwJunction < j then d + 1 else max 1 (d - 1)) ∧
  (∀ (s : State) (pa : Nat), ∃ t, exec (.cxlMemAccess pa none) s = .next t ∧ t.mem.dram = s.mem.dram ∧ t.mem.host = s.mem.host ∧ t.groups = s.groups ∧
    (pa < Config.frames * 65536 → ((s.allocLine (pa / 128)).isSome = true → t.mem.hostReads = s.mem.hostReads ++ [(pa / 64 * 64, memNat s.mem.dram (pa / 64 * 64) 64)]) ∧
      (s.allocLine (pa / 128) = none → t.mem = s.mem ∧ .cxlMemAccess pa none ∈ t.agenda))) ∧
  (∀ (s : State) (pa : Nat) (l : List Byte) (r : Nat × List Byte × State), pa + l.length ≤ Config.frames * 65536 → r = State.hostPut (l.length + 1) pa l s →
    ∃ t, exec (.cxlMemAccess pa (some l)) s = .next t ∧ (∀ a, tabGet (0 : Byte) t.mem.dram a = if pa ≤ a ∧ a < r.1 then l.getD (a - pa) 0 else tabGet 0 s.mem.dram a) ∧
      r.1 + r.2.1.length = pa + l.length ∧ (r.2.1 ≠ [] → .cxlMemAccess r.1 (some r.2.1) ∈ t.agenda) ∧ t.mem.host = s.mem.host ∧ t.groups = s.groups) ∧
  ∀ (s : State) (r : SpdmReq) (n : Nat), ∃ t a, exec (.spdmRequest r n) s = .next t ∧ t.sys.spdm = s.sys.spdm ++ [a] ∧ t.mem = s.mem ∧ t.groups = s.groups ∧ (r = .getVersion → a = (0, [0x13])) ∧ (r = .negotiateAlgorithms → a = (2, [spdmAlgorithms])) ∧
    (r = .getMeasurements → n = 0 → a.1 = 6 ∧ a.2.take 8 = (List.range 8).map fun i => s.sys.measurement.extractLsb' (64 * i) 64)
end

