-- ==== Sys2Proof/Laws/Decode.lean ====
section
/-! SUPPORT. Fields of a slot: cutting what was joined, and reading a field's code back (R50, R52, R55 to R59). -/

namespace Sys2Proof

/-- A field below the join lies in the low part. -/
theorem cut_low {v w : Nat} (x : BitVec v) (y : BitVec w) (k n : Nat) (h : k + n ≤ w) :
    (x ++ y).extractLsb' k n = y.extractLsb' k n := by
  ext i hi
  simp only [BitVec.getElem_extractLsb', BitVec.getLsbD_append]
  rw [if_pos (by omega)]

/-- A field at or above the join lies in the high part. -/
theorem cut_high {v w : Nat} (x : BitVec v) (y : BitVec w) (k n : Nat) (h : w ≤ k) :
    (x ++ y).extractLsb' k n = x.extractLsb' (k - w) n := by
  ext i hi
  simp only [BitVec.getElem_extractLsb', BitVec.getLsbD_append]
  rw [if_neg (by omega)]
  congr 1
  omega

theorem cut_all {w : Nat} (x : BitVec w) : x.extractLsb' 0 w = x := by
  ext i hi
  simp

/-- A field across the join takes part of both. -/
theorem cut_both {v w : Nat} (x : BitVec v) (y : BitVec w) : (x ++ y).extractLsb' 0 w = y := by
  rw [cut_low _ _ _ _ (by omega), cut_all]

/-- The bit above an 11-bit number in a field whose top bit is zero. -/
theorem top_field (n : BitVec 11) : ((0 : BitVec 1) ++ n).getLsbD 11 = false := by rw [BitVec.getLsbD_append]; simp

/-- Cutting a slot at its fields undoes joining them. -/
theorem unpack_pack (r : Raw) : unpack (pack r) = r := by
  obtain ⟨op, g, d, a, b, c, m⟩ := r
  simp (disch := omega) only [unpack, pack, cut_low, cut_high, cut_all, Nat.sub_self, Nat.reduceSub]

/-- Joining the fields of a slot gives the slot back. -/
theorem pack_unpack (w : SlotWord) : pack (unpack w) = w := by
  apply BitVec.eq_of_getLsbD_eq
  intro i hi
  simp only [pack, unpack, BitVec.getLsbD_append, BitVec.getLsbD_extractLsb']
  split_ifs <;> rw [decide_eq_true (by omega), Bool.true_and] <;> congr 1 <;> omega

@[simp] theorem tyOf_tyCode (t : Ty) : tyOf (tyCode t) = some t := by cases t <;> rfl
@[simp] theorem rndOf_rndCode (t : Rnd) : rndOf (rndCode t) = t := by cases t <;> rfl
@[simp] theorem cmpOf_cmpCode (t : Cmp) : cmpOf (cmpCode t) = some t := by cases t <;> rfl
@[simp] theorem scopeOf_scopeCode (t : Scope) : scopeOf (scopeCode t) = t := by cases t <;> rfl
@[simp] theorem ctrOf_ctrCode (t : Ctr) : ctrOf (ctrCode t) = t := by cases t <;> rfl

@[simp] theorem guardOf_guardCode (x : Guard) : guardOf (guardCode x) = x := by
  obtain ⟨n, i⟩ := x
  revert n i
  decide

@[simp] theorem srcOf_srcCode (x : Src) : srcOf (srcCode x) = some x := by
  cases x with
  | reg n =>
    rw [srcOf, srcCode, if_neg (by rw [top_field]; decide), cut_both]
  | latch k => revert k; decide

@[simp] theorem dstOf_dstCode (x : Dst) : dstOf (dstCode x) = some x := by
  cases x with
  | reg n =>
    rw [dstOf, dstCode, if_neg (by rw [top_field]; decide), cut_both]
  | nw => decide

@[simp] theorem num_field (n : BitVec 11) : num (field n) = n := cut_both 0 n
@[simp] theorem latchBit_field (n : BitVec 11) : latchBit (field n) = false := top_field n
@[simp] theorem num_zero : num 0 = 0 := by decide
@[simp] theorem latchBit_zero : latchBit 0 = false := by decide
@[simp] theorem low_d4Field (n : BitVec 4) : (d4Field n).extractLsb' 0 4 = n := cut_both 0 n
@[simp] theorem high_d4Field (n : BitVec 4) : (d4Field n).extractLsb' 4 8 = 0 := by revert n; decide
@[simp] theorem latchBit_d4Field (n : BitVec 4) : latchBit (d4Field n) = false := by revert n; decide

end Sys2Proof
end

