-- ==== Sys2Proof/Laws/Tab.lean ====
section
/-! SUPPORT. Sparse tables: reading after a write, and the canonical form, which every write keeps. -/

namespace Sys2Proof.Machine

variable {α : Type}

@[simp] theorem tabGet_nil (d : α) (i : Nat) : tabGet d [] i = d := rfl
@[simp] theorem tabFind_nil (i : Nat) : tabFind ([] : Tab α) i = none := rfl

@[simp] theorem tabGet_put_same (d : α) (t : Tab α) (i : Nat) (x : α) : tabGet d (tabPut t i x) i = x := by
  induction t with
  | nil => simp [tabPut, tabGet]
  | cons e t ih =>
    simp only [tabPut]
    split_ifs <;> simp_all [tabGet]

theorem tabGet_put_other (d : α) (t : Tab α) {i j : Nat} (x : α) (h : i ≠ j) : tabGet d (tabPut t i x) j = tabGet d t j := by
  induction t with
  | nil => simp [tabPut, tabGet, h]
  | cons e t ih =>
    simp only [tabPut]
    split_ifs with h1 h2 <;> simp_all [tabGet]

theorem tabGet_put (d : α) (t : Tab α) (i j : Nat) (x : α) : tabGet d (tabPut t i x) j = if i = j then x else tabGet d t j := by
  split_ifs with h
  · subst h; simp
  · exact tabGet_put_other d t x h

theorem tabGet_del (d : α) (t : Tab α) (i j : Nat) : tabGet d (tabDel t i) j = if i = j then d else tabGet d t j := by
  induction t with
  | nil => simp [tabDel]
  | cons e t ih =>
    simp only [tabDel]
    split_ifs with h1 h2 h2 <;> simp_all [tabGet]

/-- Reading after a write that keeps the canonical form. -/
theorem tabGet_set [DecidableEq α] (d : α) (t : Tab α) (i j : Nat) (x : α) : tabGet d (tabSet d t i x) j = if i = j then x else tabGet d t j := by
  rw [tabSet]
  split_ifs with h1 h2 h2 <;> simp_all [tabGet_put, tabGet_del]

/-- Of two writes of one key the later counts. -/
theorem tabPut_twice (t : Tab α) (i : Nat) (x y : α) : tabPut (tabPut t i x) i y = tabPut t i y := by
  induction t with
  | nil => simp [tabPut]
  | cons e t ih =>
    simp only [tabPut]
    split_ifs with h1 h2 <;> simp_all [tabPut]

theorem tabFind_put (t : Tab α) (i j : Nat) (x : α) : tabFind (tabPut t i x) j = if i = j then some x else tabFind t j := by
  induction t with
  | nil => simp [tabPut, tabFind]
  | cons e t ih =>
    simp only [tabPut]
    split_ifs with h1 h2 h3 h3 <;> simp_all [tabFind] <;> aesop

theorem tabFind_del (t : Tab α) (i j : Nat) : tabFind (tabDel t i) j = if i = j then none else tabFind t j := by
  induction t with
  | nil => simp [tabDel]
  | cons e t ih =>
    simp only [tabDel]
    split_ifs with h1 h2 h2 <;> simp_all [tabFind]

theorem tabGet_of_find {t : Tab α} {i : Nat} {x : α} (d : α) (h : tabFind t i = some x) : tabGet d t i = x := by
  induction t with
  | nil => simp at h
  | cons e t ih =>
    simp only [tabFind] at h
    simp only [tabGet]
    split_ifs at h ⊢ <;> simp_all

theorem tabSorted_mono {lo hi : Nat} (h : lo ≤ hi) {t : Tab α} (ht : tabSorted hi t = true) : tabSorted lo t = true := by
  cases t with
  | nil => rfl
  | cons e t => simp_all [tabSorted]; omega

theorem tabSorted_put {lo i : Nat} {t : Tab α} (x : α) (hi : lo ≤ i) (ht : tabSorted lo t = true) : tabSorted lo (tabPut t i x) = true := by
  induction t generalizing lo with
  | nil => simp [tabPut, tabSorted, hi]
  | cons e t ih =>
    simp only [tabSorted, Bool.and_eq_true, decide_eq_true_eq] at ht
    simp only [tabPut]
    split_ifs with h1 h2
    · subst h1; simp [tabSorted, ht]
    · simp [tabSorted, hi, ht.2]; omega
    · simp only [tabSorted, Bool.and_eq_true, decide_eq_true_eq]
      exact ⟨ht.1, ih (by omega) ht.2⟩

theorem tabSorted_del {lo i : Nat} {t : Tab α} (ht : tabSorted lo t = true) : tabSorted lo (tabDel t i) = true := by
  induction t generalizing lo with
  | nil => rfl
  | cons e t ih =>
    simp only [tabSorted, Bool.and_eq_true, decide_eq_true_eq] at ht
    simp only [tabDel]
    split_ifs with h1
    · exact tabSorted_mono (by omega) (ih ht.2)
    · simp only [tabSorted, Bool.and_eq_true, decide_eq_true_eq]
      exact ⟨ht.1, ih ht.2⟩

theorem mem_put {t : Tab α} {i : Nat} {x : α} {e : Nat × α} (h : e ∈ tabPut t i x) : e = (i, x) ∨ e ∈ t := by
  induction t with
  | nil => simp_all [tabPut]
  | cons a t ih =>
    simp only [tabPut] at h
    split_ifs at h <;> simp_all <;> aesop

theorem mem_del {t : Tab α} {i : Nat} {e : Nat × α} (h : e ∈ tabDel t i) : e ∈ t := by
  induction t with
  | nil => simp [tabDel] at h
  | cons a t ih =>
    simp only [tabDel] at h
    split_ifs at h <;> simp_all <;> aesop

/-- A write keeps the canonical form. -/
theorem tabWf_set [DecidableEq α] {d : α} {t : Tab α} (i : Nat) (x : α) (ht : tabWf d t = true) : tabWf d (tabSet d t i x) = true := by
  simp only [tabWf, Bool.and_eq_true, List.all_eq_true, decide_eq_true_eq] at ht ⊢
  rw [tabSet]
  split_ifs with h
  · exact ⟨tabSorted_del ht.1, fun e he => ht.2 e (mem_del he)⟩
  · refine ⟨tabSorted_put x (by omega) ht.1, fun e he => ?_⟩
    rcases mem_put he with rfl | h2
    · exact h
    · exact ht.2 e h2

/-- Taking entries out of a table keeps its keys rising. -/
theorem tabSorted_filter {lo : Nat} {t : Tab α} (p : Nat × α → Bool) (ht : tabSorted lo t = true) : tabSorted lo (t.filter p) = true := by
  induction t generalizing lo with
  | nil => rfl
  | cons e t ih =>
    simp only [tabSorted, Bool.and_eq_true, decide_eq_true_eq] at ht
    simp only [List.filter_cons]
    split_ifs
    · simp only [tabSorted, Bool.and_eq_true, decide_eq_true_eq]
      exact ⟨ht.1, ih ht.2⟩
    · exact tabSorted_mono (by omega) (ih ht.2)

theorem tabWf_filter [DecidableEq α] {d : α} {t : Tab α} (p : Nat × α → Bool) (ht : tabWf d t = true) : tabWf d (t.filter p) = true := by
  simp only [tabWf, Bool.and_eq_true, List.all_eq_true, decide_eq_true_eq] at ht ⊢
  exact ⟨tabSorted_filter p ht.1, fun e he => ht.2 e (List.mem_filter.1 he).1⟩

end Sys2Proof.Machine
end

