-- ==== Sys2Proof/Laws/State.lean ====
section
/-! SUPPORT. What each named update of the state and of a group leaves alone: one lemma per field and update. -/

namespace Sys2Proof.Machine

@[simp] theorem State.setGrp_cycle (s : State) (gk : Nat) (g : Group) : (s.setGrp gk g).cycle = s.cycle := rfl
@[simp] theorem State.setGrp_third (s : State) (gk : Nat) (g : Group) : (s.setGrp gk g).third = s.third := rfl
@[simp] theorem State.setGrp_devid (s : State) (gk : Nat) (g : Group) : (s.setGrp gk g).devid = s.devid := rfl
@[simp] theorem State.setGrp_issue (s : State) (gk : Nat) (g : Group) : (s.setGrp gk g).issue = s.issue := rfl
@[simp] theorem State.setGrp_cur (s : State) (gk : Nat) (g : Group) : (s.setGrp gk g).cur = s.cur := rfl
@[simp] theorem State.setGrp_agenda (s : State) (gk : Nat) (g : Group) : (s.setGrp gk g).agenda = s.agenda := rfl
@[simp] theorem State.setGrp_ticks (s : State) (gk : Nat) (g : Group) : (s.setGrp gk g).ticks = s.ticks := rfl
@[simp] theorem State.setGrp_teams (s : State) (gk : Nat) (g : Group) : (s.setGrp gk g).teams = s.teams := rfl
@[simp] theorem State.setGrp_cores (s : State) (gk : Nat) (g : Group) : (s.setGrp gk g).cores = s.cores := rfl
@[simp] theorem State.setGrp_kernels (s : State) (gk : Nat) (g : Group) : (s.setGrp gk g).kernels = s.kernels := rfl
@[simp] theorem State.setGrp_grids (s : State) (gk : Nat) (g : Group) : (s.setGrp gk g).grids = s.grids := rfl
@[simp] theorem State.setGrp_nextGrid (s : State) (gk : Nat) (g : Group) : (s.setGrp gk g).nextGrid = s.nextGrid := rfl
@[simp] theorem State.setGrp_logs (s : State) (gk : Nat) (g : Group) : (s.setGrp gk g).logs = s.logs := rfl
@[simp] theorem State.setGrp_nextLog (s : State) (gk : Nat) (g : Group) : (s.setGrp gk g).nextLog = s.nextLog := rfl
@[simp] theorem State.setGrp_ops (s : State) (gk : Nat) (g : Group) : (s.setGrp gk g).ops = s.ops := rfl
@[simp] theorem State.setGrp_nextOp (s : State) (gk : Nat) (g : Group) : (s.setGrp gk g).nextOp = s.nextOp := rfl
@[simp] theorem State.setGrp_dieTlb (s : State) (gk : Nat) (g : Group) : (s.setGrp gk g).dieTlb = s.dieTlb := rfl
@[simp] theorem State.setGrp_walks (s : State) (gk : Nat) (g : Group) : (s.setGrp gk g).walks = s.walks := rfl
@[simp] theorem State.setGrp_invals (s : State) (gk : Nat) (g : Group) : (s.setGrp gk g).invals = s.invals := rfl
@[simp] theorem State.setGrp_roots (s : State) (gk : Nat) (g : Group) : (s.setGrp gk g).roots = s.roots := rfl
@[simp] theorem State.setGrp_mem (s : State) (gk : Nat) (g : Group) : (s.setGrp gk g).mem = s.mem := rfl
@[simp] theorem State.setGrp_share (s : State) (gk : Nat) (g : Group) : (s.setGrp gk g).share = s.share := rfl
@[simp] theorem State.setGrp_fab (s : State) (gk : Nat) (g : Group) : (s.setGrp gk g).fab = s.fab := rfl
@[simp] theorem State.setGrp_flows (s : State) (gk : Nat) (g : Group) : (s.setGrp gk g).flows = s.flows := rfl
@[simp] theorem State.setGrp_reasm (s : State) (gk : Nat) (g : Group) : (s.setGrp gk g).reasm = s.reasm := rfl
@[simp] theorem State.setGrp_nextReasm (s : State) (gk : Nat) (g : Group) : (s.setGrp gk g).nextReasm = s.nextReasm := rfl
@[simp] theorem State.setGrp_queues (s : State) (gk : Nat) (g : Group) : (s.setGrp gk g).queues = s.queues := rfl
@[simp] theorem State.setGrp_completions (s : State) (gk : Nat) (g : Group) : (s.setGrp gk g).completions = s.completions := rfl
@[simp] theorem State.setGrp_compLog (s : State) (gk : Nat) (g : Group) : (s.setGrp gk g).compLog = s.compLog := rfl
@[simp] theorem State.setGrp_errors (s : State) (gk : Nat) (g : Group) : (s.setGrp gk g).errors = s.errors := rfl
@[simp] theorem State.setGrp_errSeq (s : State) (gk : Nat) (g : Group) : (s.setGrp gk g).errSeq = s.errSeq := rfl
@[simp] theorem State.setGrp_errRing (s : State) (gk : Nat) (g : Group) : (s.setGrp gk g).errRing = s.errRing := rfl
@[simp] theorem State.setGrp_rotate (s : State) (gk : Nat) (g : Group) : (s.setGrp gk g).rotate = s.rotate := rfl
@[simp] theorem State.setGrp_bands (s : State) (gk : Nat) (g : Group) : (s.setGrp gk g).bands = s.bands := rfl
@[simp] theorem State.setGrp_cbars (s : State) (gk : Nat) (g : Group) : (s.setGrp gk g).cbars = s.cbars := rfl
@[simp] theorem State.setGrp_kreqs (s : State) (gk : Nat) (g : Group) : (s.setGrp gk g).kreqs = s.kreqs := rfl
@[simp] theorem State.setGrp_nextKreq (s : State) (gk : Nat) (g : Group) : (s.setGrp gk g).nextKreq = s.nextKreq := rfl
@[simp] theorem State.setGrp_scaleCache (s : State) (gk : Nat) (g : Group) : (s.setGrp gk g).scaleCache = s.scaleCache := rfl
@[simp] theorem State.setGrp_records (s : State) (gk : Nat) (g : Group) : (s.setGrp gk g).records = s.records := rfl
@[simp] theorem State.setGrp_nextRecord (s : State) (gk : Nat) (g : Group) : (s.setGrp gk g).nextRecord = s.nextRecord := rfl
@[simp] theorem State.setGrp_obs (s : State) (gk : Nat) (g : Group) : (s.setGrp gk g).obs = s.obs := rfl
@[simp] theorem State.setGrp_sys (s : State) (gk : Nat) (g : Group) : (s.setGrp gk g).sys = s.sys := rfl

@[simp] theorem State.setTeam_cycle (s : State) (tk : Nat) (x : Team) : (s.setTeam tk x).cycle = s.cycle := rfl
@[simp] theorem State.setTeam_third (s : State) (tk : Nat) (x : Team) : (s.setTeam tk x).third = s.third := rfl
@[simp] theorem State.setTeam_devid (s : State) (tk : Nat) (x : Team) : (s.setTeam tk x).devid = s.devid := rfl
@[simp] theorem State.setTeam_issue (s : State) (tk : Nat) (x : Team) : (s.setTeam tk x).issue = s.issue := rfl
@[simp] theorem State.setTeam_cur (s : State) (tk : Nat) (x : Team) : (s.setTeam tk x).cur = s.cur := rfl
@[simp] theorem State.setTeam_agenda (s : State) (tk : Nat) (x : Team) : (s.setTeam tk x).agenda = s.agenda := rfl
@[simp] theorem State.setTeam_ticks (s : State) (tk : Nat) (x : Team) : (s.setTeam tk x).ticks = s.ticks := rfl
@[simp] theorem State.setTeam_groups (s : State) (tk : Nat) (x : Team) : (s.setTeam tk x).groups = s.groups := rfl
@[simp] theorem State.setTeam_cores (s : State) (tk : Nat) (x : Team) : (s.setTeam tk x).cores = s.cores := rfl
@[simp] theorem State.setTeam_kernels (s : State) (tk : Nat) (x : Team) : (s.setTeam tk x).kernels = s.kernels := rfl
@[simp] theorem State.setTeam_grids (s : State) (tk : Nat) (x : Team) : (s.setTeam tk x).grids = s.grids := rfl
@[simp] theorem State.setTeam_nextGrid (s : State) (tk : Nat) (x : Team) : (s.setTeam tk x).nextGrid = s.nextGrid := rfl
@[simp] theorem State.setTeam_logs (s : State) (tk : Nat) (x : Team) : (s.setTeam tk x).logs = s.logs := rfl
@[simp] theorem State.setTeam_nextLog (s : State) (tk : Nat) (x : Team) : (s.setTeam tk x).nextLog = s.nextLog := rfl
@[simp] theorem State.setTeam_ops (s : State) (tk : Nat) (x : Team) : (s.setTeam tk x).ops = s.ops := rfl
@[simp] theorem State.setTeam_nextOp (s : State) (tk : Nat) (x : Team) : (s.setTeam tk x).nextOp = s.nextOp := rfl
@[simp] theorem State.setTeam_dieTlb (s : State) (tk : Nat) (x : Team) : (s.setTeam tk x).dieTlb = s.dieTlb := rfl
@[simp] theorem State.setTeam_walks (s : State) (tk : Nat) (x : Team) : (s.setTeam tk x).walks = s.walks := rfl
@[simp] theorem State.setTeam_invals (s : State) (tk : Nat) (x : Team) : (s.setTeam tk x).invals = s.invals := rfl
@[simp] theorem State.setTeam_roots (s : State) (tk : Nat) (x : Team) : (s.setTeam tk x).roots = s.roots := rfl
@[simp] theorem State.setTeam_mem (s : State) (tk : Nat) (x : Team) : (s.setTeam tk x).mem = s.mem := rfl
@[simp] theorem State.setTeam_share (s : State) (tk : Nat) (x : Team) : (s.setTeam tk x).share = s.share := rfl
@[simp] theorem State.setTeam_fab (s : State) (tk : Nat) (x : Team) : (s.setTeam tk x).fab = s.fab := rfl
@[simp] theorem State.setTeam_flows (s : State) (tk : Nat) (x : Team) : (s.setTeam tk x).flows = s.flows := rfl
@[simp] theorem State.setTeam_reasm (s : State) (tk : Nat) (x : Team) : (s.setTeam tk x).reasm = s.reasm := rfl
@[simp] theorem State.setTeam_nextReasm (s : State) (tk : Nat) (x : Team) : (s.setTeam tk x).nextReasm = s.nextReasm := rfl
@[simp] theorem State.setTeam_queues (s : State) (tk : Nat) (x : Team) : (s.setTeam tk x).queues = s.queues := rfl
@[simp] theorem State.setTeam_completions (s : State) (tk : Nat) (x : Team) : (s.setTeam tk x).completions = s.completions := rfl
@[simp] theorem State.setTeam_compLog (s : State) (tk : Nat) (x : Team) : (s.setTeam tk x).compLog = s.compLog := rfl
@[simp] theorem State.setTeam_errors (s : State) (tk : Nat) (x : Team) : (s.setTeam tk x).errors = s.errors := rfl
@[simp] theorem State.setTeam_errSeq (s : State) (tk : Nat) (x : Team) : (s.setTeam tk x).errSeq = s.errSeq := rfl
@[simp] theorem State.setTeam_errRing (s : State) (tk : Nat) (x : Team) : (s.setTeam tk x).errRing = s.errRing := rfl
@[simp] theorem State.setTeam_rotate (s : State) (tk : Nat) (x : Team) : (s.setTeam tk x).rotate = s.rotate := rfl
@[simp] theorem State.setTeam_bands (s : State) (tk : Nat) (x : Team) : (s.setTeam tk x).bands = s.bands := rfl
@[simp] theorem State.setTeam_cbars (s : State) (tk : Nat) (x : Team) : (s.setTeam tk x).cbars = s.cbars := rfl
@[simp] theorem State.setTeam_kreqs (s : State) (tk : Nat) (x : Team) : (s.setTeam tk x).kreqs = s.kreqs := rfl
@[simp] theorem State.setTeam_nextKreq (s : State) (tk : Nat) (x : Team) : (s.setTeam tk x).nextKreq = s.nextKreq := rfl
@[simp] theorem State.setTeam_scaleCache (s : State) (tk : Nat) (x : Team) : (s.setTeam tk x).scaleCache = s.scaleCache := rfl
@[simp] theorem State.setTeam_records (s : State) (tk : Nat) (x : Team) : (s.setTeam tk x).records = s.records := rfl
@[simp] theorem State.setTeam_nextRecord (s : State) (tk : Nat) (x : Team) : (s.setTeam tk x).nextRecord = s.nextRecord := rfl
@[simp] theorem State.setTeam_obs (s : State) (tk : Nat) (x : Team) : (s.setTeam tk x).obs = s.obs := rfl
@[simp] theorem State.setTeam_sys (s : State) (tk : Nat) (x : Team) : (s.setTeam tk x).sys = s.sys := rfl

@[simp] theorem State.setCore_cycle (s : State) (c : Nat) (x : Core) : (s.setCore c x).cycle = s.cycle := rfl
@[simp] theorem State.setCore_third (s : State) (c : Nat) (x : Core) : (s.setCore c x).third = s.third := rfl
@[simp] theorem State.setCore_devid (s : State) (c : Nat) (x : Core) : (s.setCore c x).devid = s.devid := rfl
@[simp] theorem State.setCore_issue (s : State) (c : Nat) (x : Core) : (s.setCore c x).issue = s.issue := rfl
@[simp] theorem State.setCore_cur (s : State) (c : Nat) (x : Core) : (s.setCore c x).cur = s.cur := rfl
@[simp] theorem State.setCore_agenda (s : State) (c : Nat) (x : Core) : (s.setCore c x).agenda = s.agenda := rfl
@[simp] theorem State.setCore_ticks (s : State) (c : Nat) (x : Core) : (s.setCore c x).ticks = s.ticks := rfl
@[simp] theorem State.setCore_groups (s : State) (c : Nat) (x : Core) : (s.setCore c x).groups = s.groups := rfl
@[simp] theorem State.setCore_teams (s : State) (c : Nat) (x : Core) : (s.setCore c x).teams = s.teams := rfl
@[simp] theorem State.setCore_kernels (s : State) (c : Nat) (x : Core) : (s.setCore c x).kernels = s.kernels := rfl
@[simp] theorem State.setCore_grids (s : State) (c : Nat) (x : Core) : (s.setCore c x).grids = s.grids := rfl
@[simp] theorem State.setCore_nextGrid (s : State) (c : Nat) (x : Core) : (s.setCore c x).nextGrid = s.nextGrid := rfl
@[simp] theorem State.setCore_logs (s : State) (c : Nat) (x : Core) : (s.setCore c x).logs = s.logs := rfl
@[simp] theorem State.setCore_nextLog (s : State) (c : Nat) (x : Core) : (s.setCore c x).nextLog = s.nextLog := rfl
@[simp] theorem State.setCore_ops (s : State) (c : Nat) (x : Core) : (s.setCore c x).ops = s.ops := rfl
@[simp] theorem State.setCore_nextOp (s : State) (c : Nat) (x : Core) : (s.setCore c x).nextOp = s.nextOp := rfl
@[simp] theorem State.setCore_dieTlb (s : State) (c : Nat) (x : Core) : (s.setCore c x).dieTlb = s.dieTlb := rfl
@[simp] theorem State.setCore_walks (s : State) (c : Nat) (x : Core) : (s.setCore c x).walks = s.walks := rfl
@[simp] theorem State.setCore_invals (s : State) (c : Nat) (x : Core) : (s.setCore c x).invals = s.invals := rfl
@[simp] theorem State.setCore_roots (s : State) (c : Nat) (x : Core) : (s.setCore c x).roots = s.roots := rfl
@[simp] theorem State.setCore_mem (s : State) (c : Nat) (x : Core) : (s.setCore c x).mem = s.mem := rfl
@[simp] theorem State.setCore_share (s : State) (c : Nat) (x : Core) : (s.setCore c x).share = s.share := rfl
@[simp] theorem State.setCore_fab (s : State) (c : Nat) (x : Core) : (s.setCore c x).fab = s.fab := rfl
@[simp] theorem State.setCore_flows (s : State) (c : Nat) (x : Core) : (s.setCore c x).flows = s.flows := rfl
@[simp] theorem State.setCore_reasm (s : State) (c : Nat) (x : Core) : (s.setCore c x).reasm = s.reasm := rfl
@[simp] theorem State.setCore_nextReasm (s : State) (c : Nat) (x : Core) : (s.setCore c x).nextReasm = s.nextReasm := rfl
@[simp] theorem State.setCore_queues (s : State) (c : Nat) (x : Core) : (s.setCore c x).queues = s.queues := rfl
@[simp] theorem State.setCore_completions (s : State) (c : Nat) (x : Core) : (s.setCore c x).completions = s.completions := rfl
@[simp] theorem State.setCore_compLog (s : State) (c : Nat) (x : Core) : (s.setCore c x).compLog = s.compLog := rfl
@[simp] theorem State.setCore_errors (s : State) (c : Nat) (x : Core) : (s.setCore c x).errors = s.errors := rfl
@[simp] theorem State.setCore_errSeq (s : State) (c : Nat) (x : Core) : (s.setCore c x).errSeq = s.errSeq := rfl
@[simp] theorem State.setCore_errRing (s : State) (c : Nat) (x : Core) : (s.setCore c x).errRing = s.errRing := rfl
@[simp] theorem State.setCore_rotate (s : State) (c : Nat) (x : Core) : (s.setCore c x).rotate = s.rotate := rfl
@[simp] theorem State.setCore_bands (s : State) (c : Nat) (x : Core) : (s.setCore c x).bands = s.bands := rfl
@[simp] theorem State.setCore_cbars (s : State) (c : Nat) (x : Core) : (s.setCore c x).cbars = s.cbars := rfl
@[simp] theorem State.setCore_kreqs (s : State) (c : Nat) (x : Core) : (s.setCore c x).kreqs = s.kreqs := rfl
@[simp] theorem State.setCore_nextKreq (s : State) (c : Nat) (x : Core) : (s.setCore c x).nextKreq = s.nextKreq := rfl
@[simp] theorem State.setCore_scaleCache (s : State) (c : Nat) (x : Core) : (s.setCore c x).scaleCache = s.scaleCache := rfl
@[simp] theorem State.setCore_records (s : State) (c : Nat) (x : Core) : (s.setCore c x).records = s.records := rfl
@[simp] theorem State.setCore_nextRecord (s : State) (c : Nat) (x : Core) : (s.setCore c x).nextRecord = s.nextRecord := rfl
@[simp] theorem State.setCore_obs (s : State) (c : Nat) (x : Core) : (s.setCore c x).obs = s.obs := rfl
@[simp] theorem State.setCore_sys (s : State) (c : Nat) (x : Core) : (s.setCore c x).sys = s.sys := rfl

@[simp] theorem State.setGrid_cycle (s : State) (i : Nat) (x : Grid) : (s.setGrid i x).cycle = s.cycle := rfl
@[simp] theorem State.setGrid_third (s : State) (i : Nat) (x : Grid) : (s.setGrid i x).third = s.third := rfl
@[simp] theorem State.setGrid_devid (s : State) (i : Nat) (x : Grid) : (s.setGrid i x).devid = s.devid := rfl
@[simp] theorem State.setGrid_issue (s : State) (i : Nat) (x : Grid) : (s.setGrid i x).issue = s.issue := rfl
@[simp] theorem State.setGrid_cur (s : State) (i : Nat) (x : Grid) : (s.setGrid i x).cur = s.cur := rfl
@[simp] theorem State.setGrid_agenda (s : State) (i : Nat) (x : Grid) : (s.setGrid i x).agenda = s.agenda := rfl
@[simp] theorem State.setGrid_ticks (s : State) (i : Nat) (x : Grid) : (s.setGrid i x).ticks = s.ticks := rfl
@[simp] theorem State.setGrid_groups (s : State) (i : Nat) (x : Grid) : (s.setGrid i x).groups = s.groups := rfl
@[simp] theorem State.setGrid_teams (s : State) (i : Nat) (x : Grid) : (s.setGrid i x).teams = s.teams := rfl
@[simp] theorem State.setGrid_cores (s : State) (i : Nat) (x : Grid) : (s.setGrid i x).cores = s.cores := rfl
@[simp] theorem State.setGrid_kernels (s : State) (i : Nat) (x : Grid) : (s.setGrid i x).kernels = s.kernels := rfl
@[simp] theorem State.setGrid_nextGrid (s : State) (i : Nat) (x : Grid) : (s.setGrid i x).nextGrid = s.nextGrid := rfl
@[simp] theorem State.setGrid_logs (s : State) (i : Nat) (x : Grid) : (s.setGrid i x).logs = s.logs := rfl
@[simp] theorem State.setGrid_nextLog (s : State) (i : Nat) (x : Grid) : (s.setGrid i x).nextLog = s.nextLog := rfl
@[simp] theorem State.setGrid_ops (s : State) (i : Nat) (x : Grid) : (s.setGrid i x).ops = s.ops := rfl
@[simp] theorem State.setGrid_nextOp (s : State) (i : Nat) (x : Grid) : (s.setGrid i x).nextOp = s.nextOp := rfl
@[simp] theorem State.setGrid_dieTlb (s : State) (i : Nat) (x : Grid) : (s.setGrid i x).dieTlb = s.dieTlb := rfl
@[simp] theorem State.setGrid_walks (s : State) (i : Nat) (x : Grid) : (s.setGrid i x).walks = s.walks := rfl
@[simp] theorem State.setGrid_invals (s : State) (i : Nat) (x : Grid) : (s.setGrid i x).invals = s.invals := rfl
@[simp] theorem State.setGrid_roots (s : State) (i : Nat) (x : Grid) : (s.setGrid i x).roots = s.roots := rfl
@[simp] theorem State.setGrid_mem (s : State) (i : Nat) (x : Grid) : (s.setGrid i x).mem = s.mem := rfl
@[simp] theorem State.setGrid_share (s : State) (i : Nat) (x : Grid) : (s.setGrid i x).share = s.share := rfl
@[simp] theorem State.setGrid_fab (s : State) (i : Nat) (x : Grid) : (s.setGrid i x).fab = s.fab := rfl
@[simp] theorem State.setGrid_flows (s : State) (i : Nat) (x : Grid) : (s.setGrid i x).flows = s.flows := rfl
@[simp] theorem State.setGrid_reasm (s : State) (i : Nat) (x : Grid) : (s.setGrid i x).reasm = s.reasm := rfl
@[simp] theorem State.setGrid_nextReasm (s : State) (i : Nat) (x : Grid) : (s.setGrid i x).nextReasm = s.nextReasm := rfl
@[simp] theorem State.setGrid_queues (s : State) (i : Nat) (x : Grid) : (s.setGrid i x).queues = s.queues := rfl
@[simp] theorem State.setGrid_completions (s : State) (i : Nat) (x : Grid) : (s.setGrid i x).completions = s.completions := rfl
@[simp] theorem State.setGrid_compLog (s : State) (i : Nat) (x : Grid) : (s.setGrid i x).compLog = s.compLog := rfl
@[simp] theorem State.setGrid_errors (s : State) (i : Nat) (x : Grid) : (s.setGrid i x).errors = s.errors := rfl
@[simp] theorem State.setGrid_errSeq (s : State) (i : Nat) (x : Grid) : (s.setGrid i x).errSeq = s.errSeq := rfl
@[simp] theorem State.setGrid_errRing (s : State) (i : Nat) (x : Grid) : (s.setGrid i x).errRing = s.errRing := rfl
@[simp] theorem State.setGrid_rotate (s : State) (i : Nat) (x : Grid) : (s.setGrid i x).rotate = s.rotate := rfl
@[simp] theorem State.setGrid_bands (s : State) (i : Nat) (x : Grid) : (s.setGrid i x).bands = s.bands := rfl
@[simp] theorem State.setGrid_cbars (s : State) (i : Nat) (x : Grid) : (s.setGrid i x).cbars = s.cbars := rfl
@[simp] theorem State.setGrid_kreqs (s : State) (i : Nat) (x : Grid) : (s.setGrid i x).kreqs = s.kreqs := rfl
@[simp] theorem State.setGrid_nextKreq (s : State) (i : Nat) (x : Grid) : (s.setGrid i x).nextKreq = s.nextKreq := rfl
@[simp] theorem State.setGrid_scaleCache (s : State) (i : Nat) (x : Grid) : (s.setGrid i x).scaleCache = s.scaleCache := rfl
@[simp] theorem State.setGrid_records (s : State) (i : Nat) (x : Grid) : (s.setGrid i x).records = s.records := rfl
@[simp] theorem State.setGrid_nextRecord (s : State) (i : Nat) (x : Grid) : (s.setGrid i x).nextRecord = s.nextRecord := rfl
@[simp] theorem State.setGrid_obs (s : State) (i : Nat) (x : Grid) : (s.setGrid i x).obs = s.obs := rfl
@[simp] theorem State.setGrid_sys (s : State) (i : Nat) (x : Grid) : (s.setGrid i x).sys = s.sys := rfl

@[simp] theorem State.setOp_cycle (s : State) (i : Nat) (x : Op) : (s.setOp i x).cycle = s.cycle := rfl
@[simp] theorem State.setOp_third (s : State) (i : Nat) (x : Op) : (s.setOp i x).third = s.third := rfl
@[simp] theorem State.setOp_devid (s : State) (i : Nat) (x : Op) : (s.setOp i x).devid = s.devid := rfl
@[simp] theorem State.setOp_issue (s : State) (i : Nat) (x : Op) : (s.setOp i x).issue = s.issue := rfl
@[simp] theorem State.setOp_cur (s : State) (i : Nat) (x : Op) : (s.setOp i x).cur = s.cur := rfl
@[simp] theorem State.setOp_agenda (s : State) (i : Nat) (x : Op) : (s.setOp i x).agenda = s.agenda := rfl
@[simp] theorem State.setOp_ticks (s : State) (i : Nat) (x : Op) : (s.setOp i x).ticks = s.ticks := rfl
@[simp] theorem State.setOp_groups (s : State) (i : Nat) (x : Op) : (s.setOp i x).groups = s.groups := rfl
@[simp] theorem State.setOp_teams (s : State) (i : Nat) (x : Op) : (s.setOp i x).teams = s.teams := rfl
@[simp] theorem State.setOp_cores (s : State) (i : Nat) (x : Op) : (s.setOp i x).cores = s.cores := rfl
@[simp] theorem State.setOp_kernels (s : State) (i : Nat) (x : Op) : (s.setOp i x).kernels = s.kernels := rfl
@[simp] theorem State.setOp_grids (s : State) (i : Nat) (x : Op) : (s.setOp i x).grids = s.grids := rfl
@[simp] theorem State.setOp_nextGrid (s : State) (i : Nat) (x : Op) : (s.setOp i x).nextGrid = s.nextGrid := rfl
@[simp] theorem State.setOp_logs (s : State) (i : Nat) (x : Op) : (s.setOp i x).logs = s.logs := rfl
@[simp] theorem State.setOp_nextLog (s : State) (i : Nat) (x : Op) : (s.setOp i x).nextLog = s.nextLog := rfl
@[simp] theorem State.setOp_nextOp (s : State) (i : Nat) (x : Op) : (s.setOp i x).nextOp = s.nextOp := rfl
@[simp] theorem State.setOp_dieTlb (s : State) (i : Nat) (x : Op) : (s.setOp i x).dieTlb = s.dieTlb := rfl
@[simp] theorem State.setOp_walks (s : State) (i : Nat) (x : Op) : (s.setOp i x).walks = s.walks := rfl
@[simp] theorem State.setOp_invals (s : State) (i : Nat) (x : Op) : (s.setOp i x).invals = s.invals := rfl
@[simp] theorem State.setOp_roots (s : State) (i : Nat) (x : Op) : (s.setOp i x).roots = s.roots := rfl
@[simp] theorem State.setOp_mem (s : State) (i : Nat) (x : Op) : (s.setOp i x).mem = s.mem := rfl
@[simp] theorem State.setOp_share (s : State) (i : Nat) (x : Op) : (s.setOp i x).share = s.share := rfl
@[simp] theorem State.setOp_fab (s : State) (i : Nat) (x : Op) : (s.setOp i x).fab = s.fab := rfl
@[simp] theorem State.setOp_flows (s : State) (i : Nat) (x : Op) : (s.setOp i x).flows = s.flows := rfl
@[simp] theorem State.setOp_reasm (s : State) (i : Nat) (x : Op) : (s.setOp i x).reasm = s.reasm := rfl
@[simp] theorem State.setOp_nextReasm (s : State) (i : Nat) (x : Op) : (s.setOp i x).nextReasm = s.nextReasm := rfl
@[simp] theorem State.setOp_queues (s : State) (i : Nat) (x : Op) : (s.setOp i x).queues = s.queues := rfl
@[simp] theorem State.setOp_completions (s : State) (i : Nat) (x : Op) : (s.setOp i x).completions = s.completions := rfl
@[simp] theorem State.setOp_compLog (s : State) (i : Nat) (x : Op) : (s.setOp i x).compLog = s.compLog := rfl
@[simp] theorem State.setOp_errors (s : State) (i : Nat) (x : Op) : (s.setOp i x).errors = s.errors := rfl
@[simp] theorem State.setOp_errSeq (s : State) (i : Nat) (x : Op) : (s.setOp i x).errSeq = s.errSeq := rfl
@[simp] theorem State.setOp_errRing (s : State) (i : Nat) (x : Op) : (s.setOp i x).errRing = s.errRing := rfl
@[simp] theorem State.setOp_rotate (s : State) (i : Nat) (x : Op) : (s.setOp i x).rotate = s.rotate := rfl
@[simp] theorem State.setOp_bands (s : State) (i : Nat) (x : Op) : (s.setOp i x).bands = s.bands := rfl
@[simp] theorem State.setOp_cbars (s : State) (i : Nat) (x : Op) : (s.setOp i x).cbars = s.cbars := rfl
@[simp] theorem State.setOp_kreqs (s : State) (i : Nat) (x : Op) : (s.setOp i x).kreqs = s.kreqs := rfl
@[simp] theorem State.setOp_nextKreq (s : State) (i : Nat) (x : Op) : (s.setOp i x).nextKreq = s.nextKreq := rfl
@[simp] theorem State.setOp_scaleCache (s : State) (i : Nat) (x : Op) : (s.setOp i x).scaleCache = s.scaleCache := rfl
@[simp] theorem State.setOp_records (s : State) (i : Nat) (x : Op) : (s.setOp i x).records = s.records := rfl
@[simp] theorem State.setOp_nextRecord (s : State) (i : Nat) (x : Op) : (s.setOp i x).nextRecord = s.nextRecord := rfl
@[simp] theorem State.setOp_obs (s : State) (i : Nat) (x : Op) : (s.setOp i x).obs = s.obs := rfl
@[simp] theorem State.setOp_sys (s : State) (i : Nat) (x : Op) : (s.setOp i x).sys = s.sys := rfl

@[simp] theorem State.post_cycle (s : State) (l : List Instr) : (s.post l).cycle = s.cycle := rfl
@[simp] theorem State.post_third (s : State) (l : List Instr) : (s.post l).third = s.third := rfl
@[simp] theorem State.post_devid (s : State) (l : List Instr) : (s.post l).devid = s.devid := rfl
@[simp] theorem State.post_issue (s : State) (l : List Instr) : (s.post l).issue = s.issue := rfl
@[simp] theorem State.post_cur (s : State) (l : List Instr) : (s.post l).cur = s.cur := rfl
@[simp] theorem State.post_ticks (s : State) (l : List Instr) : (s.post l).ticks = s.ticks := rfl
@[simp] theorem State.post_groups (s : State) (l : List Instr) : (s.post l).groups = s.groups := rfl
@[simp] theorem State.post_teams (s : State) (l : List Instr) : (s.post l).teams = s.teams := rfl
@[simp] theorem State.post_cores (s : State) (l : List Instr) : (s.post l).cores = s.cores := rfl
@[simp] theorem State.post_kernels (s : State) (l : List Instr) : (s.post l).kernels = s.kernels := rfl
@[simp] theorem State.post_grids (s : State) (l : List Instr) : (s.post l).grids = s.grids := rfl
@[simp] theorem State.post_nextGrid (s : State) (l : List Instr) : (s.post l).nextGrid = s.nextGrid := rfl
@[simp] theorem State.post_logs (s : State) (l : List Instr) : (s.post l).logs = s.logs := rfl
@[simp] theorem State.post_nextLog (s : State) (l : List Instr) : (s.post l).nextLog = s.nextLog := rfl
@[simp] theorem State.post_ops (s : State) (l : List Instr) : (s.post l).ops = s.ops := rfl
@[simp] theorem State.post_nextOp (s : State) (l : List Instr) : (s.post l).nextOp = s.nextOp := rfl
@[simp] theorem State.post_dieTlb (s : State) (l : List Instr) : (s.post l).dieTlb = s.dieTlb := rfl
@[simp] theorem State.post_walks (s : State) (l : List Instr) : (s.post l).walks = s.walks := rfl
@[simp] theorem State.post_invals (s : State) (l : List Instr) : (s.post l).invals = s.invals := rfl
@[simp] theorem State.post_roots (s : State) (l : List Instr) : (s.post l).roots = s.roots := rfl
@[simp] theorem State.post_mem (s : State) (l : List Instr) : (s.post l).mem = s.mem := rfl
@[simp] theorem State.post_share (s : State) (l : List Instr) : (s.post l).share = s.share := rfl
@[simp] theorem State.post_fab (s : State) (l : List Instr) : (s.post l).fab = s.fab := rfl
@[simp] theorem State.post_flows (s : State) (l : List Instr) : (s.post l).flows = s.flows := rfl
@[simp] theorem State.post_reasm (s : State) (l : List Instr) : (s.post l).reasm = s.reasm := rfl
@[simp] theorem State.post_nextReasm (s : State) (l : List Instr) : (s.post l).nextReasm = s.nextReasm := rfl
@[simp] theorem State.post_queues (s : State) (l : List Instr) : (s.post l).queues = s.queues := rfl
@[simp] theorem State.post_completions (s : State) (l : List Instr) : (s.post l).completions = s.completions := rfl
@[simp] theorem State.post_compLog (s : State) (l : List Instr) : (s.post l).compLog = s.compLog := rfl
@[simp] theorem State.post_errors (s : State) (l : List Instr) : (s.post l).errors = s.errors := rfl
@[simp] theorem State.post_errSeq (s : State) (l : List Instr) : (s.post l).errSeq = s.errSeq := rfl
@[simp] theorem State.post_errRing (s : State) (l : List Instr) : (s.post l).errRing = s.errRing := rfl
@[simp] theorem State.post_rotate (s : State) (l : List Instr) : (s.post l).rotate = s.rotate := rfl
@[simp] theorem State.post_bands (s : State) (l : List Instr) : (s.post l).bands = s.bands := rfl
@[simp] theorem State.post_cbars (s : State) (l : List Instr) : (s.post l).cbars = s.cbars := rfl
@[simp] theorem State.post_kreqs (s : State) (l : List Instr) : (s.post l).kreqs = s.kreqs := rfl
@[simp] theorem State.post_nextKreq (s : State) (l : List Instr) : (s.post l).nextKreq = s.nextKreq := rfl
@[simp] theorem State.post_scaleCache (s : State) (l : List Instr) : (s.post l).scaleCache = s.scaleCache := rfl
@[simp] theorem State.post_records (s : State) (l : List Instr) : (s.post l).records = s.records := rfl
@[simp] theorem State.post_nextRecord (s : State) (l : List Instr) : (s.post l).nextRecord = s.nextRecord := rfl
@[simp] theorem State.post_obs (s : State) (l : List Instr) : (s.post l).obs = s.obs := rfl
@[simp] theorem State.post_sys (s : State) (l : List Instr) : (s.post l).sys = s.sys := rfl

@[simp] theorem State.tally_cycle (s : State) (c n : Nat) : (s.tally c n).cycle = s.cycle := rfl
@[simp] theorem State.tally_third (s : State) (c n : Nat) : (s.tally c n).third = s.third := rfl
@[simp] theorem State.tally_devid (s : State) (c n : Nat) : (s.tally c n).devid = s.devid := rfl
@[simp] theorem State.tally_issue (s : State) (c n : Nat) : (s.tally c n).issue = s.issue := rfl
@[simp] theorem State.tally_cur (s : State) (c n : Nat) : (s.tally c n).cur = s.cur := rfl
@[simp] theorem State.tally_agenda (s : State) (c n : Nat) : (s.tally c n).agenda = s.agenda := rfl
@[simp] theorem State.tally_ticks (s : State) (c n : Nat) : (s.tally c n).ticks = s.ticks := rfl
@[simp] theorem State.tally_groups (s : State) (c n : Nat) : (s.tally c n).groups = s.groups := rfl
@[simp] theorem State.tally_teams (s : State) (c n : Nat) : (s.tally c n).teams = s.teams := rfl
@[simp] theorem State.tally_cores (s : State) (c n : Nat) : (s.tally c n).cores = s.cores := rfl
@[simp] theorem State.tally_kernels (s : State) (c n : Nat) : (s.tally c n).kernels = s.kernels := rfl
@[simp] theorem State.tally_grids (s : State) (c n : Nat) : (s.tally c n).grids = s.grids := rfl
@[simp] theorem State.tally_nextGrid (s : State) (c n : Nat) : (s.tally c n).nextGrid = s.nextGrid := rfl
@[simp] theorem State.tally_logs (s : State) (c n : Nat) : (s.tally c n).logs = s.logs := rfl
@[simp] theorem State.tally_nextLog (s : State) (c n : Nat) : (s.tally c n).nextLog = s.nextLog := rfl
@[simp] theorem State.tally_ops (s : State) (c n : Nat) : (s.tally c n).ops = s.ops := rfl
@[simp] theorem State.tally_nextOp (s : State) (c n : Nat) : (s.tally c n).nextOp = s.nextOp := rfl
@[simp] theorem State.tally_dieTlb (s : State) (c n : Nat) : (s.tally c n).dieTlb = s.dieTlb := rfl
@[simp] theorem State.tally_walks (s : State) (c n : Nat) : (s.tally c n).walks = s.walks := rfl
@[simp] theorem State.tally_invals (s : State) (c n : Nat) : (s.tally c n).invals = s.invals := rfl
@[simp] theorem State.tally_roots (s : State) (c n : Nat) : (s.tally c n).roots = s.roots := rfl
@[simp] theorem State.tally_mem (s : State) (c n : Nat) : (s.tally c n).mem = s.mem := rfl
@[simp] theorem State.tally_share (s : State) (c n : Nat) : (s.tally c n).share = s.share := rfl
@[simp] theorem State.tally_fab (s : State) (c n : Nat) : (s.tally c n).fab = s.fab := rfl
@[simp] theorem State.tally_flows (s : State) (c n : Nat) : (s.tally c n).flows = s.flows := rfl
@[simp] theorem State.tally_reasm (s : State) (c n : Nat) : (s.tally c n).reasm = s.reasm := rfl
@[simp] theorem State.tally_nextReasm (s : State) (c n : Nat) : (s.tally c n).nextReasm = s.nextReasm := rfl
@[simp] theorem State.tally_queues (s : State) (c n : Nat) : (s.tally c n).queues = s.queues := rfl
@[simp] theorem State.tally_completions (s : State) (c n : Nat) : (s.tally c n).completions = s.completions := rfl
@[simp] theorem State.tally_compLog (s : State) (c n : Nat) : (s.tally c n).compLog = s.compLog := rfl
@[simp] theorem State.tally_errors (s : State) (c n : Nat) : (s.tally c n).errors = s.errors := rfl
@[simp] theorem State.tally_errSeq (s : State) (c n : Nat) : (s.tally c n).errSeq = s.errSeq := rfl
@[simp] theorem State.tally_errRing (s : State) (c n : Nat) : (s.tally c n).errRing = s.errRing := rfl
@[simp] theorem State.tally_rotate (s : State) (c n : Nat) : (s.tally c n).rotate = s.rotate := rfl
@[simp] theorem State.tally_bands (s : State) (c n : Nat) : (s.tally c n).bands = s.bands := rfl
@[simp] theorem State.tally_cbars (s : State) (c n : Nat) : (s.tally c n).cbars = s.cbars := rfl
@[simp] theorem State.tally_kreqs (s : State) (c n : Nat) : (s.tally c n).kreqs = s.kreqs := rfl
@[simp] theorem State.tally_nextKreq (s : State) (c n : Nat) : (s.tally c n).nextKreq = s.nextKreq := rfl
@[simp] theorem State.tally_scaleCache (s : State) (c n : Nat) : (s.tally c n).scaleCache = s.scaleCache := rfl
@[simp] theorem State.tally_records (s : State) (c n : Nat) : (s.tally c n).records = s.records := rfl
@[simp] theorem State.tally_nextRecord (s : State) (c n : Nat) : (s.tally c n).nextRecord = s.nextRecord := rfl
@[simp] theorem State.tally_sys (s : State) (c n : Nat) : (s.tally c n).sys = s.sys := rfl

@[simp] theorem State.stall_cycle (s : State) : (s.stall).cycle = s.cycle := rfl
@[simp] theorem State.stall_third (s : State) : (s.stall).third = s.third := rfl
@[simp] theorem State.stall_devid (s : State) : (s.stall).devid = s.devid := rfl
@[simp] theorem State.stall_issue (s : State) : (s.stall).issue = s.issue := rfl
@[simp] theorem State.stall_agenda (s : State) : (s.stall).agenda = s.agenda := rfl
@[simp] theorem State.stall_ticks (s : State) : (s.stall).ticks = s.ticks := rfl
@[simp] theorem State.stall_groups (s : State) : (s.stall).groups = s.groups := rfl
@[simp] theorem State.stall_teams (s : State) : (s.stall).teams = s.teams := rfl
@[simp] theorem State.stall_cores (s : State) : (s.stall).cores = s.cores := rfl
@[simp] theorem State.stall_kernels (s : State) : (s.stall).kernels = s.kernels := rfl
@[simp] theorem State.stall_grids (s : State) : (s.stall).grids = s.grids := rfl
@[simp] theorem State.stall_nextGrid (s : State) : (s.stall).nextGrid = s.nextGrid := rfl
@[simp] theorem State.stall_logs (s : State) : (s.stall).logs = s.logs := rfl
@[simp] theorem State.stall_nextLog (s : State) : (s.stall).nextLog = s.nextLog := rfl
@[simp] theorem State.stall_ops (s : State) : (s.stall).ops = s.ops := rfl
@[simp] theorem State.stall_nextOp (s : State) : (s.stall).nextOp = s.nextOp := rfl
@[simp] theorem State.stall_dieTlb (s : State) : (s.stall).dieTlb = s.dieTlb := rfl
@[simp] theorem State.stall_walks (s : State) : (s.stall).walks = s.walks := rfl
@[simp] theorem State.stall_invals (s : State) : (s.stall).invals = s.invals := rfl
@[simp] theorem State.stall_roots (s : State) : (s.stall).roots = s.roots := rfl
@[simp] theorem State.stall_mem (s : State) : (s.stall).mem = s.mem := rfl
@[simp] theorem State.stall_share (s : State) : (s.stall).share = s.share := rfl
@[simp] theorem State.stall_fab (s : State) : (s.stall).fab = s.fab := rfl
@[simp] theorem State.stall_flows (s : State) : (s.stall).flows = s.flows := rfl
@[simp] theorem State.stall_reasm (s : State) : (s.stall).reasm = s.reasm := rfl
@[simp] theorem State.stall_nextReasm (s : State) : (s.stall).nextReasm = s.nextReasm := rfl
@[simp] theorem State.stall_queues (s : State) : (s.stall).queues = s.queues := rfl
@[simp] theorem State.stall_completions (s : State) : (s.stall).completions = s.completions := rfl
@[simp] theorem State.stall_compLog (s : State) : (s.stall).compLog = s.compLog := rfl
@[simp] theorem State.stall_errors (s : State) : (s.stall).errors = s.errors := rfl
@[simp] theorem State.stall_errSeq (s : State) : (s.stall).errSeq = s.errSeq := rfl
@[simp] theorem State.stall_errRing (s : State) : (s.stall).errRing = s.errRing := rfl
@[simp] theorem State.stall_rotate (s : State) : (s.stall).rotate = s.rotate := rfl
@[simp] theorem State.stall_bands (s : State) : (s.stall).bands = s.bands := rfl
@[simp] theorem State.stall_cbars (s : State) : (s.stall).cbars = s.cbars := rfl
@[simp] theorem State.stall_kreqs (s : State) : (s.stall).kreqs = s.kreqs := rfl
@[simp] theorem State.stall_nextKreq (s : State) : (s.stall).nextKreq = s.nextKreq := rfl
@[simp] theorem State.stall_scaleCache (s : State) : (s.stall).scaleCache = s.scaleCache := rfl
@[simp] theorem State.stall_records (s : State) : (s.stall).records = s.records := rfl
@[simp] theorem State.stall_nextRecord (s : State) : (s.stall).nextRecord = s.nextRecord := rfl
@[simp] theorem State.stall_obs (s : State) : (s.stall).obs = s.obs := rfl
@[simp] theorem State.stall_sys (s : State) : (s.stall).sys = s.sys := rfl

@[simp] theorem State.modGrp_eq (s : State) (gk : Nat) (f : Group → Group) : s.modGrp gk f = s.setGrp gk (f (s.grp gk)) := rfl
@[simp] theorem State.modG_eq (s : State) (f : Group → Group) : s.modG f = s.setGrp s.cur.gk (f s.g) := rfl
@[simp] theorem State.modTeam_eq (s : State) (tk : Nat) (f : Team → Team) : s.modTeam tk f = s.setTeam tk (f (s.team tk)) := rfl
@[simp] theorem State.modCore_eq (s : State) (c : Nat) (f : Core → Core) : s.modCore c f = s.setCore c (f (s.core c)) := rfl
@[simp] theorem State.modGrid_eq (s : State) (i : Nat) (f : Grid → Grid) : s.modGrid i f = s.setGrid i (f (s.grid i)) := rfl
@[simp] theorem State.modOp_eq (s : State) (i : Nat) (f : Op → Op) : s.modOp i f = s.setOp i (f (s.op i)) := rfl
@[simp] theorem State.endChain_eq (s : State) : s.endChain = s.setGrp s.cur.gk (s.g.commitChain s.cur.mask) := rfl
@[simp] theorem State.post_agenda (s : State) (l : List Instr) : (s.post l).agenda = s.agenda ++ l := rfl
@[simp] theorem State.stall_verdict (s : State) : s.stall.cur.verdict = .stalled := rfl
@[simp] theorem State.stall_gk (s : State) : s.stall.cur.gk = s.cur.gk := rfl

-- reading what an update wrote
@[simp] theorem State.grp_setGrp (s : State) (gk k : Nat) (g : Group) : (s.setGrp gk g).grp k = if gk = k then g else s.grp k := tabGet_put ..
@[simp] theorem State.team_setTeam (s : State) (tk k : Nat) (x : Team) : (s.setTeam tk x).team k = if tk = k then x else s.team k := tabGet_put ..
@[simp] theorem State.core_setCore (s : State) (c k : Nat) (x : Core) : (s.setCore c x).core k = if c = k then x else s.core k := tabGet_put ..
@[simp] theorem State.grid_setGrid (s : State) (i k : Nat) (x : Grid) : (s.setGrid i x).grid k = if i = k then x else s.grid k := tabGet_put ..
@[simp] theorem State.op_setOp (s : State) (i k : Nat) (x : Op) : (s.setOp i x).op k = if i = k then x else s.op k := tabGet_put ..

@[simp] theorem State.grp_setTeam (s : State) (j : Nat) (tk : Nat) (x : Team) : (s.setTeam tk x).grp j = s.grp j := rfl
@[simp] theorem State.grp_setCore (s : State) (j : Nat) (c : Nat) (x : Core) : (s.setCore c x).grp j = s.grp j := rfl
@[simp] theorem State.grp_setGrid (s : State) (j : Nat) (i : Nat) (x : Grid) : (s.setGrid i x).grp j = s.grp j := rfl
@[simp] theorem State.grp_setOp (s : State) (j : Nat) (i : Nat) (x : Op) : (s.setOp i x).grp j = s.grp j := rfl
@[simp] theorem State.grp_post (s : State) (j : Nat) (l : List Instr) : (s.post l).grp j = s.grp j := rfl
@[simp] theorem State.grp_tally (s : State) (j : Nat) (c n : Nat) : (s.tally c n).grp j = s.grp j := rfl
@[simp] theorem State.grp_stall (s : State) (j : Nat) : (s.stall).grp j = s.grp j := rfl
@[simp] theorem State.team_setGrp (s : State) (j : Nat) (gk : Nat) (g : Group) : (s.setGrp gk g).team j = s.team j := rfl
@[simp] theorem State.team_setCore (s : State) (j : Nat) (c : Nat) (x : Core) : (s.setCore c x).team j = s.team j := rfl
@[simp] theorem State.team_setGrid (s : State) (j : Nat) (i : Nat) (x : Grid) : (s.setGrid i x).team j = s.team j := rfl
@[simp] theorem State.team_setOp (s : State) (j : Nat) (i : Nat) (x : Op) : (s.setOp i x).team j = s.team j := rfl
@[simp] theorem State.team_post (s : State) (j : Nat) (l : List Instr) : (s.post l).team j = s.team j := rfl
@[simp] theorem State.team_tally (s : State) (j : Nat) (c n : Nat) : (s.tally c n).team j = s.team j := rfl
@[simp] theorem State.team_stall (s : State) (j : Nat) : (s.stall).team j = s.team j := rfl
@[simp] theorem State.core_setGrp (s : State) (j : Nat) (gk : Nat) (g : Group) : (s.setGrp gk g).core j = s.core j := rfl
@[simp] theorem State.core_setTeam (s : State) (j : Nat) (tk : Nat) (x : Team) : (s.setTeam tk x).core j = s.core j := rfl
@[simp] theorem State.core_setGrid (s : State) (j : Nat) (i : Nat) (x : Grid) : (s.setGrid i x).core j = s.core j := rfl
@[simp] theorem State.core_setOp (s : State) (j : Nat) (i : Nat) (x : Op) : (s.setOp i x).core j = s.core j := rfl
@[simp] theorem State.core_post (s : State) (j : Nat) (l : List Instr) : (s.post l).core j = s.core j := rfl
@[simp] theorem State.core_tally (s : State) (j : Nat) (c n : Nat) : (s.tally c n).core j = s.core j := rfl
@[simp] theorem State.core_stall (s : State) (j : Nat) : (s.stall).core j = s.core j := rfl
@[simp] theorem State.grid_setGrp (s : State) (j : Nat) (gk : Nat) (g : Group) : (s.setGrp gk g).grid j = s.grid j := rfl
@[simp] theorem State.grid_setTeam (s : State) (j : Nat) (tk : Nat) (x : Team) : (s.setTeam tk x).grid j = s.grid j := rfl
@[simp] theorem State.grid_setCore (s : State) (j : Nat) (c : Nat) (x : Core) : (s.setCore c x).grid j = s.grid j := rfl
@[simp] theorem State.grid_setOp (s : State) (j : Nat) (i : Nat) (x : Op) : (s.setOp i x).grid j = s.grid j := rfl
@[simp] theorem State.grid_post (s : State) (j : Nat) (l : List Instr) : (s.post l).grid j = s.grid j := rfl
@[simp] theorem State.grid_tally (s : State) (j : Nat) (c n : Nat) : (s.tally c n).grid j = s.grid j := rfl
@[simp] theorem State.grid_stall (s : State) (j : Nat) : (s.stall).grid j = s.grid j := rfl
@[simp] theorem State.op_setGrp (s : State) (j : Nat) (gk : Nat) (g : Group) : (s.setGrp gk g).op j = s.op j := rfl
@[simp] theorem State.op_setTeam (s : State) (j : Nat) (tk : Nat) (x : Team) : (s.setTeam tk x).op j = s.op j := rfl
@[simp] theorem State.op_setCore (s : State) (j : Nat) (c : Nat) (x : Core) : (s.setCore c x).op j = s.op j := rfl
@[simp] theorem State.op_setGrid (s : State) (j : Nat) (i : Nat) (x : Grid) : (s.setGrid i x).op j = s.op j := rfl
@[simp] theorem State.op_post (s : State) (j : Nat) (l : List Instr) : (s.post l).op j = s.op j := rfl
@[simp] theorem State.op_tally (s : State) (j : Nat) (c n : Nat) : (s.tally c n).op j = s.op j := rfl
@[simp] theorem State.op_stall (s : State) (j : Nat) : (s.stall).op j = s.op j := rfl

@[simp] theorem State.g_setGrp (s : State) (g : Group) : (s.setGrp s.cur.gk g).g = g := by simp [State.g]
@[simp] theorem State.tm_setGrp (s : State) (gk : Nat) (g : Group) : (s.setGrp gk g).tm = s.tm := rfl
@[simp] theorem State.gr_setGrp (s : State) (gk : Nat) (g : Group) : (s.setGrp gk g).gr = s.gr := rfl

@[simp] theorem Group.wrV_sr (g : Group) (n i : Nat) (x : Word) : (g.wrV n i x).sr = g.sr := rfl
@[simp] theorem Group.wrV_p (g : Group) (n i : Nat) (x : Word) : (g.wrV n i x).p = g.p := rfl
@[simp] theorem Group.wrV_h (g : Group) (n i : Nat) (x : Word) : (g.wrV n i x).h = g.h := rfl
@[simp] theorem Group.wrV_pc (g : Group) (n i : Nat) (x : Word) : (g.wrV n i x).pc = g.pc := rfl
@[simp] theorem Group.wrV_wait (g : Group) (n i : Nat) (x : Word) : (g.wrV n i x).wait = g.wait := rfl
@[simp] theorem Group.wrV_inner (g : Group) (n i : Nat) (x : Word) : (g.wrV n i x).inner = g.inner := rfl
@[simp] theorem Group.wrV_retired (g : Group) (n i : Nat) (x : Word) : (g.wrV n i x).retired = g.retired := rfl
@[simp] theorem Group.wrV_rings (g : Group) (n i : Nat) (x : Word) : (g.wrV n i x).rings = g.rings := rfl
@[simp] theorem Group.wrV_status (g : Group) (n i : Nat) (x : Word) : (g.wrV n i x).status = g.status := rfl
@[simp] theorem Group.wrV_ctr (g : Group) (n i : Nat) (x : Word) : (g.wrV n i x).ctr = g.ctr := rfl
@[simp] theorem Group.wrV_storeP (g : Group) (n i : Nat) (x : Word) : (g.wrV n i x).storeP = g.storeP := rfl
@[simp] theorem Group.wrV_atomP (g : Group) (n i : Nat) (x : Word) : (g.wrV n i x).atomP = g.atomP := rfl
@[simp] theorem Group.wrV_farP (g : Group) (n i : Nat) (x : Word) : (g.wrV n i x).farP = g.farP := rfl
@[simp] theorem Group.wrV_yieldMark (g : Group) (n i : Nat) (x : Word) : (g.wrV n i x).yieldMark = g.yieldMark := rfl
@[simp] theorem Group.wrV_yieldUntil (g : Group) (n i : Nat) (x : Word) : (g.wrV n i x).yieldUntil = g.yieldUntil := rfl
@[simp] theorem Group.wrV_trialUntil (g : Group) (n i : Nat) (x : Word) : (g.wrV n i x).trialUntil = g.trialUntil := rfl
@[simp] theorem Group.wrV_trialOut (g : Group) (n i : Nat) (x : Word) : (g.wrV n i x).trialOut = g.trialOut := rfl
@[simp] theorem Group.wrV_rot (g : Group) (n i : Nat) (x : Word) : (g.wrV n i x).rot = g.rot := rfl
@[simp] theorem Group.wrV_told (g : Group) (n i : Nat) (x : Word) : (g.wrV n i x).told = g.told := rfl

@[simp] theorem Group.wrS_v (g : Group) (n : Nat) (x : DWord) : (g.wrS n x).v = g.v := rfl
@[simp] theorem Group.wrS_p (g : Group) (n : Nat) (x : DWord) : (g.wrS n x).p = g.p := rfl
@[simp] theorem Group.wrS_h (g : Group) (n : Nat) (x : DWord) : (g.wrS n x).h = g.h := rfl
@[simp] theorem Group.wrS_pc (g : Group) (n : Nat) (x : DWord) : (g.wrS n x).pc = g.pc := rfl
@[simp] theorem Group.wrS_wait (g : Group) (n : Nat) (x : DWord) : (g.wrS n x).wait = g.wait := rfl
@[simp] theorem Group.wrS_inner (g : Group) (n : Nat) (x : DWord) : (g.wrS n x).inner = g.inner := rfl
@[simp] theorem Group.wrS_retired (g : Group) (n : Nat) (x : DWord) : (g.wrS n x).retired = g.retired := rfl
@[simp] theorem Group.wrS_rings (g : Group) (n : Nat) (x : DWord) : (g.wrS n x).rings = g.rings := rfl
@[simp] theorem Group.wrS_status (g : Group) (n : Nat) (x : DWord) : (g.wrS n x).status = g.status := rfl
@[simp] theorem Group.wrS_ctr (g : Group) (n : Nat) (x : DWord) : (g.wrS n x).ctr = g.ctr := rfl
@[simp] theorem Group.wrS_storeP (g : Group) (n : Nat) (x : DWord) : (g.wrS n x).storeP = g.storeP := rfl
@[simp] theorem Group.wrS_atomP (g : Group) (n : Nat) (x : DWord) : (g.wrS n x).atomP = g.atomP := rfl
@[simp] theorem Group.wrS_farP (g : Group) (n : Nat) (x : DWord) : (g.wrS n x).farP = g.farP := rfl
@[simp] theorem Group.wrS_yieldMark (g : Group) (n : Nat) (x : DWord) : (g.wrS n x).yieldMark = g.yieldMark := rfl
@[simp] theorem Group.wrS_yieldUntil (g : Group) (n : Nat) (x : DWord) : (g.wrS n x).yieldUntil = g.yieldUntil := rfl
@[simp] theorem Group.wrS_trialUntil (g : Group) (n : Nat) (x : DWord) : (g.wrS n x).trialUntil = g.trialUntil := rfl
@[simp] theorem Group.wrS_trialOut (g : Group) (n : Nat) (x : DWord) : (g.wrS n x).trialOut = g.trialOut := rfl
@[simp] theorem Group.wrS_rot (g : Group) (n : Nat) (x : DWord) : (g.wrS n x).rot = g.rot := rfl
@[simp] theorem Group.wrS_told (g : Group) (n : Nat) (x : DWord) : (g.wrS n x).told = g.told := rfl

@[simp] theorem Group.wrH_v (g : Group) (n i t : Nat) : (g.wrH n i t).v = g.v := rfl
@[simp] theorem Group.wrH_sr (g : Group) (n i t : Nat) : (g.wrH n i t).sr = g.sr := rfl
@[simp] theorem Group.wrH_p (g : Group) (n i t : Nat) : (g.wrH n i t).p = g.p := rfl
@[simp] theorem Group.wrH_pc (g : Group) (n i t : Nat) : (g.wrH n i t).pc = g.pc := rfl
@[simp] theorem Group.wrH_wait (g : Group) (n i t : Nat) : (g.wrH n i t).wait = g.wait := rfl
@[simp] theorem Group.wrH_inner (g : Group) (n i t : Nat) : (g.wrH n i t).inner = g.inner := rfl
@[simp] theorem Group.wrH_retired (g : Group) (n i t : Nat) : (g.wrH n i t).retired = g.retired := rfl
@[simp] theorem Group.wrH_rings (g : Group) (n i t : Nat) : (g.wrH n i t).rings = g.rings := rfl
@[simp] theorem Group.wrH_status (g : Group) (n i t : Nat) : (g.wrH n i t).status = g.status := rfl
@[simp] theorem Group.wrH_ctr (g : Group) (n i t : Nat) : (g.wrH n i t).ctr = g.ctr := rfl
@[simp] theorem Group.wrH_storeP (g : Group) (n i t : Nat) : (g.wrH n i t).storeP = g.storeP := rfl
@[simp] theorem Group.wrH_atomP (g : Group) (n i t : Nat) : (g.wrH n i t).atomP = g.atomP := rfl
@[simp] theorem Group.wrH_farP (g : Group) (n i t : Nat) : (g.wrH n i t).farP = g.farP := rfl
@[simp] theorem Group.wrH_yieldMark (g : Group) (n i t : Nat) : (g.wrH n i t).yieldMark = g.yieldMark := rfl
@[simp] theorem Group.wrH_yieldUntil (g : Group) (n i t : Nat) : (g.wrH n i t).yieldUntil = g.yieldUntil := rfl
@[simp] theorem Group.wrH_trialUntil (g : Group) (n i t : Nat) : (g.wrH n i t).trialUntil = g.trialUntil := rfl
@[simp] theorem Group.wrH_trialOut (g : Group) (n i t : Nat) : (g.wrH n i t).trialOut = g.trialOut := rfl
@[simp] theorem Group.wrH_rot (g : Group) (n i t : Nat) : (g.wrH n i t).rot = g.rot := rfl
@[simp] theorem Group.tellH_v (g : Group) (n i : Nat) : (g.tellH n i).v = g.v := rfl
@[simp] theorem Group.tellH_sr (g : Group) (n i : Nat) : (g.tellH n i).sr = g.sr := rfl
@[simp] theorem Group.tellH_p (g : Group) (n i : Nat) : (g.tellH n i).p = g.p := rfl
@[simp] theorem Group.tellH_h (g : Group) (n i : Nat) : (g.tellH n i).h = g.h := rfl
@[simp] theorem Group.tellH_pc (g : Group) (n i : Nat) : (g.tellH n i).pc = g.pc := rfl
@[simp] theorem Group.tellH_wait (g : Group) (n i : Nat) : (g.tellH n i).wait = g.wait := rfl
@[simp] theorem Group.tellH_inner (g : Group) (n i : Nat) : (g.tellH n i).inner = g.inner := rfl
@[simp] theorem Group.tellH_retired (g : Group) (n i : Nat) : (g.tellH n i).retired = g.retired := rfl
@[simp] theorem Group.tellH_rings (g : Group) (n i : Nat) : (g.tellH n i).rings = g.rings := rfl
@[simp] theorem Group.tellH_status (g : Group) (n i : Nat) : (g.tellH n i).status = g.status := rfl
@[simp] theorem Group.tellH_ctr (g : Group) (n i : Nat) : (g.tellH n i).ctr = g.ctr := rfl
@[simp] theorem Group.tellH_storeP (g : Group) (n i : Nat) : (g.tellH n i).storeP = g.storeP := rfl
@[simp] theorem Group.tellH_atomP (g : Group) (n i : Nat) : (g.tellH n i).atomP = g.atomP := rfl
@[simp] theorem Group.tellH_farP (g : Group) (n i : Nat) : (g.tellH n i).farP = g.farP := rfl
@[simp] theorem Group.tellH_yieldMark (g : Group) (n i : Nat) : (g.tellH n i).yieldMark = g.yieldMark := rfl
@[simp] theorem Group.tellH_yieldUntil (g : Group) (n i : Nat) : (g.tellH n i).yieldUntil = g.yieldUntil := rfl
@[simp] theorem Group.tellH_trialUntil (g : Group) (n i : Nat) : (g.tellH n i).trialUntil = g.trialUntil := rfl
@[simp] theorem Group.tellH_trialOut (g : Group) (n i : Nat) : (g.tellH n i).trialOut = g.trialOut := rfl
@[simp] theorem Group.tellH_rot (g : Group) (n i : Nat) : (g.tellH n i).rot = g.rot := rfl

@[simp] theorem Group.setPc_v (g : Group) (i : Nat) (x : DWord) : (g.setPc i x).v = g.v := rfl
@[simp] theorem Group.setPc_sr (g : Group) (i : Nat) (x : DWord) : (g.setPc i x).sr = g.sr := rfl
@[simp] theorem Group.setPc_p (g : Group) (i : Nat) (x : DWord) : (g.setPc i x).p = g.p := rfl
@[simp] theorem Group.setPc_h (g : Group) (i : Nat) (x : DWord) : (g.setPc i x).h = g.h := rfl
@[simp] theorem Group.setPc_wait (g : Group) (i : Nat) (x : DWord) : (g.setPc i x).wait = g.wait := rfl
@[simp] theorem Group.setPc_inner (g : Group) (i : Nat) (x : DWord) : (g.setPc i x).inner = g.inner := rfl
@[simp] theorem Group.setPc_retired (g : Group) (i : Nat) (x : DWord) : (g.setPc i x).retired = g.retired := rfl
@[simp] theorem Group.setPc_rings (g : Group) (i : Nat) (x : DWord) : (g.setPc i x).rings = g.rings := rfl
@[simp] theorem Group.setPc_status (g : Group) (i : Nat) (x : DWord) : (g.setPc i x).status = g.status := rfl
@[simp] theorem Group.setPc_ctr (g : Group) (i : Nat) (x : DWord) : (g.setPc i x).ctr = g.ctr := rfl
@[simp] theorem Group.setPc_storeP (g : Group) (i : Nat) (x : DWord) : (g.setPc i x).storeP = g.storeP := rfl
@[simp] theorem Group.setPc_atomP (g : Group) (i : Nat) (x : DWord) : (g.setPc i x).atomP = g.atomP := rfl
@[simp] theorem Group.setPc_farP (g : Group) (i : Nat) (x : DWord) : (g.setPc i x).farP = g.farP := rfl
@[simp] theorem Group.setPc_yieldMark (g : Group) (i : Nat) (x : DWord) : (g.setPc i x).yieldMark = g.yieldMark := rfl
@[simp] theorem Group.setPc_yieldUntil (g : Group) (i : Nat) (x : DWord) : (g.setPc i x).yieldUntil = g.yieldUntil := rfl
@[simp] theorem Group.setPc_trialUntil (g : Group) (i : Nat) (x : DWord) : (g.setPc i x).trialUntil = g.trialUntil := rfl
@[simp] theorem Group.setPc_trialOut (g : Group) (i : Nat) (x : DWord) : (g.setPc i x).trialOut = g.trialOut := rfl
@[simp] theorem Group.setPc_rot (g : Group) (i : Nat) (x : DWord) : (g.setPc i x).rot = g.rot := rfl
@[simp] theorem Group.setPc_told (g : Group) (i : Nat) (x : DWord) : (g.setPc i x).told = g.told := rfl

@[simp] theorem Group.setWait_v (g : Group) (i : Nat) (w : Wait) : (g.setWait i w).v = g.v := rfl
@[simp] theorem Group.setWait_sr (g : Group) (i : Nat) (w : Wait) : (g.setWait i w).sr = g.sr := rfl
@[simp] theorem Group.setWait_p (g : Group) (i : Nat) (w : Wait) : (g.setWait i w).p = g.p := rfl
@[simp] theorem Group.setWait_h (g : Group) (i : Nat) (w : Wait) : (g.setWait i w).h = g.h := rfl
@[simp] theorem Group.setWait_pc (g : Group) (i : Nat) (w : Wait) : (g.setWait i w).pc = g.pc := rfl
@[simp] theorem Group.setWait_inner (g : Group) (i : Nat) (w : Wait) : (g.setWait i w).inner = g.inner := rfl
@[simp] theorem Group.setWait_retired (g : Group) (i : Nat) (w : Wait) : (g.setWait i w).retired = g.retired := rfl
@[simp] theorem Group.setWait_rings (g : Group) (i : Nat) (w : Wait) : (g.setWait i w).rings = g.rings := rfl
@[simp] theorem Group.setWait_status (g : Group) (i : Nat) (w : Wait) : (g.setWait i w).status = g.status := rfl
@[simp] theorem Group.setWait_ctr (g : Group) (i : Nat) (w : Wait) : (g.setWait i w).ctr = g.ctr := rfl
@[simp] theorem Group.setWait_storeP (g : Group) (i : Nat) (w : Wait) : (g.setWait i w).storeP = g.storeP := rfl
@[simp] theorem Group.setWait_atomP (g : Group) (i : Nat) (w : Wait) : (g.setWait i w).atomP = g.atomP := rfl
@[simp] theorem Group.setWait_farP (g : Group) (i : Nat) (w : Wait) : (g.setWait i w).farP = g.farP := rfl
@[simp] theorem Group.setWait_yieldMark (g : Group) (i : Nat) (w : Wait) : (g.setWait i w).yieldMark = g.yieldMark := rfl
@[simp] theorem Group.setWait_yieldUntil (g : Group) (i : Nat) (w : Wait) : (g.setWait i w).yieldUntil = g.yieldUntil := rfl
@[simp] theorem Group.setWait_trialUntil (g : Group) (i : Nat) (w : Wait) : (g.setWait i w).trialUntil = g.trialUntil := rfl
@[simp] theorem Group.setWait_trialOut (g : Group) (i : Nat) (w : Wait) : (g.setWait i w).trialOut = g.trialOut := rfl
@[simp] theorem Group.setWait_rot (g : Group) (i : Nat) (w : Wait) : (g.setWait i w).rot = g.rot := rfl
@[simp] theorem Group.setWait_told (g : Group) (i : Nat) (w : Wait) : (g.setWait i w).told = g.told := rfl

@[simp] theorem Group.setInner_v (g : Group) (i e : Nat) : (g.setInner i e).v = g.v := rfl
@[simp] theorem Group.setInner_sr (g : Group) (i e : Nat) : (g.setInner i e).sr = g.sr := rfl
@[simp] theorem Group.setInner_p (g : Group) (i e : Nat) : (g.setInner i e).p = g.p := rfl
@[simp] theorem Group.setInner_h (g : Group) (i e : Nat) : (g.setInner i e).h = g.h := rfl
@[simp] theorem Group.setInner_pc (g : Group) (i e : Nat) : (g.setInner i e).pc = g.pc := rfl
@[simp] theorem Group.setInner_wait (g : Group) (i e : Nat) : (g.setInner i e).wait = g.wait := rfl
@[simp] theorem Group.setInner_retired (g : Group) (i e : Nat) : (g.setInner i e).retired = g.retired := rfl
@[simp] theorem Group.setInner_rings (g : Group) (i e : Nat) : (g.setInner i e).rings = g.rings := rfl
@[simp] theorem Group.setInner_status (g : Group) (i e : Nat) : (g.setInner i e).status = g.status := rfl
@[simp] theorem Group.setInner_ctr (g : Group) (i e : Nat) : (g.setInner i e).ctr = g.ctr := rfl
@[simp] theorem Group.setInner_storeP (g : Group) (i e : Nat) : (g.setInner i e).storeP = g.storeP := rfl
@[simp] theorem Group.setInner_atomP (g : Group) (i e : Nat) : (g.setInner i e).atomP = g.atomP := rfl
@[simp] theorem Group.setInner_farP (g : Group) (i e : Nat) : (g.setInner i e).farP = g.farP := rfl
@[simp] theorem Group.setInner_yieldMark (g : Group) (i e : Nat) : (g.setInner i e).yieldMark = g.yieldMark := rfl
@[simp] theorem Group.setInner_yieldUntil (g : Group) (i e : Nat) : (g.setInner i e).yieldUntil = g.yieldUntil := rfl
@[simp] theorem Group.setInner_trialUntil (g : Group) (i e : Nat) : (g.setInner i e).trialUntil = g.trialUntil := rfl
@[simp] theorem Group.setInner_trialOut (g : Group) (i e : Nat) : (g.setInner i e).trialOut = g.trialOut := rfl
@[simp] theorem Group.setInner_rot (g : Group) (i e : Nat) : (g.setInner i e).rot = g.rot := rfl
@[simp] theorem Group.setInner_told (g : Group) (i e : Nat) : (g.setInner i e).told = g.told := rfl

@[simp] theorem Group.addRetired_v (g : Group) (i : Nat) : (g.addRetired i).v = g.v := rfl
@[simp] theorem Group.addRetired_sr (g : Group) (i : Nat) : (g.addRetired i).sr = g.sr := rfl
@[simp] theorem Group.addRetired_p (g : Group) (i : Nat) : (g.addRetired i).p = g.p := rfl
@[simp] theorem Group.addRetired_h (g : Group) (i : Nat) : (g.addRetired i).h = g.h := rfl
@[simp] theorem Group.addRetired_pc (g : Group) (i : Nat) : (g.addRetired i).pc = g.pc := rfl
@[simp] theorem Group.addRetired_wait (g : Group) (i : Nat) : (g.addRetired i).wait = g.wait := rfl
@[simp] theorem Group.addRetired_inner (g : Group) (i : Nat) : (g.addRetired i).inner = g.inner := rfl
@[simp] theorem Group.addRetired_rings (g : Group) (i : Nat) : (g.addRetired i).rings = g.rings := rfl
@[simp] theorem Group.addRetired_status (g : Group) (i : Nat) : (g.addRetired i).status = g.status := rfl
@[simp] theorem Group.addRetired_ctr (g : Group) (i : Nat) : (g.addRetired i).ctr = g.ctr := rfl
@[simp] theorem Group.addRetired_storeP (g : Group) (i : Nat) : (g.addRetired i).storeP = g.storeP := rfl
@[simp] theorem Group.addRetired_atomP (g : Group) (i : Nat) : (g.addRetired i).atomP = g.atomP := rfl
@[simp] theorem Group.addRetired_farP (g : Group) (i : Nat) : (g.addRetired i).farP = g.farP := rfl
@[simp] theorem Group.addRetired_yieldMark (g : Group) (i : Nat) : (g.addRetired i).yieldMark = g.yieldMark := rfl
@[simp] theorem Group.addRetired_yieldUntil (g : Group) (i : Nat) : (g.addRetired i).yieldUntil = g.yieldUntil := rfl
@[simp] theorem Group.addRetired_trialUntil (g : Group) (i : Nat) : (g.addRetired i).trialUntil = g.trialUntil := rfl
@[simp] theorem Group.addRetired_trialOut (g : Group) (i : Nat) : (g.addRetired i).trialOut = g.trialOut := rfl
@[simp] theorem Group.addRetired_rot (g : Group) (i : Nat) : (g.addRetired i).rot = g.rot := rfl
@[simp] theorem Group.addRetired_told (g : Group) (i : Nat) : (g.addRetired i).told = g.told := rfl

@[simp] theorem Group.setCtr_v (g : Group) (c : Nat) (l : List Nat) : (g.setCtr c l).v = g.v := rfl
@[simp] theorem Group.setCtr_sr (g : Group) (c : Nat) (l : List Nat) : (g.setCtr c l).sr = g.sr := rfl
@[simp] theorem Group.setCtr_p (g : Group) (c : Nat) (l : List Nat) : (g.setCtr c l).p = g.p := rfl
@[simp] theorem Group.setCtr_h (g : Group) (c : Nat) (l : List Nat) : (g.setCtr c l).h = g.h := rfl
@[simp] theorem Group.setCtr_pc (g : Group) (c : Nat) (l : List Nat) : (g.setCtr c l).pc = g.pc := rfl
@[simp] theorem Group.setCtr_wait (g : Group) (c : Nat) (l : List Nat) : (g.setCtr c l).wait = g.wait := rfl
@[simp] theorem Group.setCtr_inner (g : Group) (c : Nat) (l : List Nat) : (g.setCtr c l).inner = g.inner := rfl
@[simp] theorem Group.setCtr_retired (g : Group) (c : Nat) (l : List Nat) : (g.setCtr c l).retired = g.retired := rfl
@[simp] theorem Group.setCtr_rings (g : Group) (c : Nat) (l : List Nat) : (g.setCtr c l).rings = g.rings := rfl
@[simp] theorem Group.setCtr_status (g : Group) (c : Nat) (l : List Nat) : (g.setCtr c l).status = g.status := rfl
@[simp] theorem Group.setCtr_storeP (g : Group) (c : Nat) (l : List Nat) : (g.setCtr c l).storeP = g.storeP := rfl
@[simp] theorem Group.setCtr_atomP (g : Group) (c : Nat) (l : List Nat) : (g.setCtr c l).atomP = g.atomP := rfl
@[simp] theorem Group.setCtr_farP (g : Group) (c : Nat) (l : List Nat) : (g.setCtr c l).farP = g.farP := rfl
@[simp] theorem Group.setCtr_yieldMark (g : Group) (c : Nat) (l : List Nat) : (g.setCtr c l).yieldMark = g.yieldMark := rfl
@[simp] theorem Group.setCtr_yieldUntil (g : Group) (c : Nat) (l : List Nat) : (g.setCtr c l).yieldUntil = g.yieldUntil := rfl
@[simp] theorem Group.setCtr_trialUntil (g : Group) (c : Nat) (l : List Nat) : (g.setCtr c l).trialUntil = g.trialUntil := rfl
@[simp] theorem Group.setCtr_trialOut (g : Group) (c : Nat) (l : List Nat) : (g.setCtr c l).trialOut = g.trialOut := rfl
@[simp] theorem Group.setCtr_rot (g : Group) (c : Nat) (l : List Nat) : (g.setCtr c l).rot = g.rot := rfl
@[simp] theorem Group.setCtr_told (g : Group) (c : Nat) (l : List Nat) : (g.setCtr c l).told = g.told := rfl

@[simp] theorem Group.setRing_v (g : Group) (r : Ring) : (g.setRing r).v = g.v := rfl
@[simp] theorem Group.setRing_sr (g : Group) (r : Ring) : (g.setRing r).sr = g.sr := rfl
@[simp] theorem Group.setRing_p (g : Group) (r : Ring) : (g.setRing r).p = g.p := rfl
@[simp] theorem Group.setRing_h (g : Group) (r : Ring) : (g.setRing r).h = g.h := rfl
@[simp] theorem Group.setRing_pc (g : Group) (r : Ring) : (g.setRing r).pc = g.pc := rfl
@[simp] theorem Group.setRing_wait (g : Group) (r : Ring) : (g.setRing r).wait = g.wait := rfl
@[simp] theorem Group.setRing_inner (g : Group) (r : Ring) : (g.setRing r).inner = g.inner := rfl
@[simp] theorem Group.setRing_retired (g : Group) (r : Ring) : (g.setRing r).retired = g.retired := rfl
@[simp] theorem Group.setRing_status (g : Group) (r : Ring) : (g.setRing r).status = g.status := rfl
@[simp] theorem Group.setRing_ctr (g : Group) (r : Ring) : (g.setRing r).ctr = g.ctr := rfl
@[simp] theorem Group.setRing_storeP (g : Group) (r : Ring) : (g.setRing r).storeP = g.storeP := rfl
@[simp] theorem Group.setRing_atomP (g : Group) (r : Ring) : (g.setRing r).atomP = g.atomP := rfl
@[simp] theorem Group.setRing_farP (g : Group) (r : Ring) : (g.setRing r).farP = g.farP := rfl
@[simp] theorem Group.setRing_yieldMark (g : Group) (r : Ring) : (g.setRing r).yieldMark = g.yieldMark := rfl
@[simp] theorem Group.setRing_yieldUntil (g : Group) (r : Ring) : (g.setRing r).yieldUntil = g.yieldUntil := rfl
@[simp] theorem Group.setRing_trialUntil (g : Group) (r : Ring) : (g.setRing r).trialUntil = g.trialUntil := rfl
@[simp] theorem Group.setRing_trialOut (g : Group) (r : Ring) : (g.setRing r).trialOut = g.trialOut := rfl
@[simp] theorem Group.setRing_rot (g : Group) (r : Ring) : (g.setRing r).rot = g.rot := rfl
@[simp] theorem Group.setRing_told (g : Group) (r : Ring) : (g.setRing r).told = g.told := rfl

@[simp] theorem Group.wrP_v (g : Group) (n i : Nat) (b : Bool) : (g.wrP n i b).v = g.v := by unfold Group.wrP; split <;> rfl
@[simp] theorem Group.wrP_sr (g : Group) (n i : Nat) (b : Bool) : (g.wrP n i b).sr = g.sr := by unfold Group.wrP; split <;> rfl
@[simp] theorem Group.wrP_h (g : Group) (n i : Nat) (b : Bool) : (g.wrP n i b).h = g.h := by unfold Group.wrP; split <;> rfl
@[simp] theorem Group.wrP_pc (g : Group) (n i : Nat) (b : Bool) : (g.wrP n i b).pc = g.pc := by unfold Group.wrP; split <;> rfl
@[simp] theorem Group.wrP_wait (g : Group) (n i : Nat) (b : Bool) : (g.wrP n i b).wait = g.wait := by unfold Group.wrP; split <;> rfl
@[simp] theorem Group.wrP_inner (g : Group) (n i : Nat) (b : Bool) : (g.wrP n i b).inner = g.inner := by unfold Group.wrP; split <;> rfl
@[simp] theorem Group.wrP_retired (g : Group) (n i : Nat) (b : Bool) : (g.wrP n i b).retired = g.retired := by unfold Group.wrP; split <;> rfl
@[simp] theorem Group.wrP_rings (g : Group) (n i : Nat) (b : Bool) : (g.wrP n i b).rings = g.rings := by unfold Group.wrP; split <;> rfl
@[simp] theorem Group.wrP_status (g : Group) (n i : Nat) (b : Bool) : (g.wrP n i b).status = g.status := by unfold Group.wrP; split <;> rfl
@[simp] theorem Group.wrP_ctr (g : Group) (n i : Nat) (b : Bool) : (g.wrP n i b).ctr = g.ctr := by unfold Group.wrP; split <;> rfl
@[simp] theorem Group.wrP_storeP (g : Group) (n i : Nat) (b : Bool) : (g.wrP n i b).storeP = g.storeP := by unfold Group.wrP; split <;> rfl
@[simp] theorem Group.wrP_atomP (g : Group) (n i : Nat) (b : Bool) : (g.wrP n i b).atomP = g.atomP := by unfold Group.wrP; split <;> rfl
@[simp] theorem Group.wrP_farP (g : Group) (n i : Nat) (b : Bool) : (g.wrP n i b).farP = g.farP := by unfold Group.wrP; split <;> rfl
@[simp] theorem Group.wrP_yieldMark (g : Group) (n i : Nat) (b : Bool) : (g.wrP n i b).yieldMark = g.yieldMark := by unfold Group.wrP; split <;> rfl
@[simp] theorem Group.wrP_yieldUntil (g : Group) (n i : Nat) (b : Bool) : (g.wrP n i b).yieldUntil = g.yieldUntil := by unfold Group.wrP; split <;> rfl
@[simp] theorem Group.wrP_trialUntil (g : Group) (n i : Nat) (b : Bool) : (g.wrP n i b).trialUntil = g.trialUntil := by unfold Group.wrP; split <;> rfl
@[simp] theorem Group.wrP_trialOut (g : Group) (n i : Nat) (b : Bool) : (g.wrP n i b).trialOut = g.trialOut := by unfold Group.wrP; split <;> rfl
@[simp] theorem Group.wrP_rot (g : Group) (n i : Nat) (b : Bool) : (g.wrP n i b).rot = g.rot := by unfold Group.wrP; split <;> rfl
@[simp] theorem Group.wrP_told (g : Group) (n i : Nat) (b : Bool) : (g.wrP n i b).told = g.told := by unfold Group.wrP; split <;> rfl

@[simp] theorem Group.wrPair_sr (g : Group) (n i : Nat) (x : DWord) : (g.wrPair n i x).sr = g.sr := rfl
@[simp] theorem Group.wrPair_p (g : Group) (n i : Nat) (x : DWord) : (g.wrPair n i x).p = g.p := rfl
@[simp] theorem Group.wrPair_h (g : Group) (n i : Nat) (x : DWord) : (g.wrPair n i x).h = g.h := rfl
@[simp] theorem Group.wrPair_pc (g : Group) (n i : Nat) (x : DWord) : (g.wrPair n i x).pc = g.pc := rfl
@[simp] theorem Group.wrPair_wait (g : Group) (n i : Nat) (x : DWord) : (g.wrPair n i x).wait = g.wait := rfl
@[simp] theorem Group.wrPair_inner (g : Group) (n i : Nat) (x : DWord) : (g.wrPair n i x).inner = g.inner := rfl
@[simp] theorem Group.wrPair_retired (g : Group) (n i : Nat) (x : DWord) : (g.wrPair n i x).retired = g.retired := rfl
@[simp] theorem Group.wrPair_rings (g : Group) (n i : Nat) (x : DWord) : (g.wrPair n i x).rings = g.rings := rfl
@[simp] theorem Group.wrPair_status (g : Group) (n i : Nat) (x : DWord) : (g.wrPair n i x).status = g.status := rfl
@[simp] theorem Group.wrPair_ctr (g : Group) (n i : Nat) (x : DWord) : (g.wrPair n i x).ctr = g.ctr := rfl
@[simp] theorem Group.wrPair_storeP (g : Group) (n i : Nat) (x : DWord) : (g.wrPair n i x).storeP = g.storeP := rfl
@[simp] theorem Group.wrPair_atomP (g : Group) (n i : Nat) (x : DWord) : (g.wrPair n i x).atomP = g.atomP := rfl
@[simp] theorem Group.wrPair_farP (g : Group) (n i : Nat) (x : DWord) : (g.wrPair n i x).farP = g.farP := rfl
@[simp] theorem Group.wrPair_yieldMark (g : Group) (n i : Nat) (x : DWord) : (g.wrPair n i x).yieldMark = g.yieldMark := rfl
@[simp] theorem Group.wrPair_yieldUntil (g : Group) (n i : Nat) (x : DWord) : (g.wrPair n i x).yieldUntil = g.yieldUntil := rfl
@[simp] theorem Group.wrPair_trialUntil (g : Group) (n i : Nat) (x : DWord) : (g.wrPair n i x).trialUntil = g.trialUntil := rfl
@[simp] theorem Group.wrPair_trialOut (g : Group) (n i : Nat) (x : DWord) : (g.wrPair n i x).trialOut = g.trialOut := rfl
@[simp] theorem Group.wrPair_rot (g : Group) (n i : Nat) (x : DWord) : (g.wrPair n i x).rot = g.rot := rfl
@[simp] theorem Group.wrPair_told (g : Group) (n i : Nat) (x : DWord) : (g.wrPair n i x).told = g.told := rfl


-- reading what an update of a group wrote
@[simp] theorem Group.rdV_wrV (g : Group) (n i m j : Nat) (x : Word) : (g.wrV n i x).rdV m j = if 32 * n + i = 32 * m + j then x else g.rdV m j := tabGet_set ..
@[simp] theorem Group.rdS_wrS (g : Group) (n m : Nat) (x : DWord) : (g.wrS n x).rdS m = if n = m then x else g.rdS m := tabGet_set ..
@[simp] theorem Group.rdH_wrH (g : Group) (n i m j t : Nat) : (g.wrH n i t).rdH m j = if 16 * i + n = 16 * j + m then t else g.rdH m j := tabGet_set ..
@[simp] theorem Group.toldOf_tellH (g : Group) (n i m j : Nat) : (g.tellH n i).toldOf m j = if 16 * i + n = 16 * j + m then true else g.toldOf m j := by
  exact tabGet_set false g.told (16 * i + n) (16 * j + m) true
@[simp] theorem Group.toldOf_wrH (g : Group) (n i m j t : Nat) : (g.wrH n i t).toldOf m j = if 16 * i + n = 16 * j + m then false else g.toldOf m j := by
  exact tabGet_set false g.told (16 * i + n) (16 * j + m) false
@[simp] theorem Group.pcOf_setPc (g : Group) (i j : Nat) (x : DWord) : (g.setPc i x).pcOf j = if i = j then x else g.pcOf j := tabGet_put ..
@[simp] theorem Group.waitOf_setWait (g : Group) (i j : Nat) (w : Wait) : (g.setWait i w).waitOf j = if i = j then w else g.waitOf j := tabGet_set ..
@[simp] theorem Group.innerOf_setInner (g : Group) (i j e : Nat) : (g.setInner i e).innerOf j = if i = j then e else g.innerOf j := tabGet_set ..
@[simp] theorem Group.retiredOf_addRetired (g : Group) (i j : Nat) : (g.addRetired i).retiredOf j = if i = j then g.retiredOf i + 1 else g.retiredOf j := by
  simp only [Group.addRetired, Group.retiredOf, tabGet_set]
@[simp] theorem Group.ctrOf_setCtr (g : Group) (c d : Nat) (l : List Nat) : (g.setCtr c l).ctrOf d = if c = d then l else g.ctrOf d := tabGet_set ..

/-- A predicate reads as it was written; pt reads 1 and discards writes (R51). -/
theorem Group.rdP_wrP (g : Group) (n i m j : Nat) (b : Bool) :
    (g.wrP n i b).rdP m j = if m = n ∧ i = j ∧ n < 15 then b else g.rdP m j := by
  unfold Group.wrP Group.rdP
  by_cases hn : n < 15
  swap
  · simp [hn]
  simp only [hn, if_true, and_true, tabGet_set]
  by_cases hij : i = j
  swap
  · simp [hij]
  subst hij
  have hb : (BitVec.ofNat 16 (2 ^ n)).getLsbD m = decide (m = n) := by
    by_cases hm : m = n
    · subst hm; interval_cases m <;> rfl
    · simp only [BitVec.getLsbD_ofNat, Nat.testBit_two_pow_of_ne (fun h => hm h.symm), Bool.and_false, hm, decide_false]
  have h16 : m = n → m < 16 := by omega
  have hge : ¬ m < 16 → (tabGet (0 : BitVec 16) g.p i).getLsbD m = false := fun h => BitVec.getLsbD_of_ge _ m (by omega)
  cases b <;> simp only [if_true, if_false, Bool.false_eq_true, BitVec.getLsbD_or, BitVec.getLsbD_and, BitVec.getLsbD_not, hb, and_true] <;>
    by_cases hm : m = n <;> by_cases h15 : m = 15 <;> by_cases hl : m < 16 <;> simp_all

end Sys2Proof.Machine
end

