-- ==== Sys2Proof/Laws/Lanes.lean ====
section
/-! SUPPORT. Lane masks, and changes made lane by lane. -/

namespace Sys2Proof.Machine

theorem mem_lanesOf {m : LaneMask} {i : Nat} : i ∈ lanesOf m ↔ m.getLsbD i = true := by
  simp only [lanesOf, List.mem_filter, List.mem_range]
  exact ⟨fun h => h.2, fun h => ⟨by by_contra hi; simp [BitVec.getLsbD_of_ge m i (by omega)] at h, h⟩⟩

theorem lanesOf_nodup (m : LaneMask) : (lanesOf m).Nodup := List.Nodup.filter _ List.nodup_range

theorem lt_of_mem_lanesOf {m : LaneMask} {i : Nat} (h : i ∈ lanesOf m) : i < 32 := by
  simp only [lanesOf, List.mem_filter, List.mem_range] at h
  exact h.1

/-- The bits that `maskOf` gathers below n. -/
theorem gather_bits (f : Nat → Bool) (n : Nat) :
    (List.range n).foldl (fun a i => if f i then a + 2 ^ i else a) 0 < 2 ^ n ∧
    ∀ j, ((List.range n).foldl (fun a i => if f i then a + 2 ^ i else a) 0).testBit j = (decide (j < n) && f j) := by
  induction n with
  | zero => simp
  | succ n ih =>
    obtain ⟨hlt, hb⟩ := ih
    rw [List.range_succ, List.foldl_append]
    simp only [List.foldl_cons, List.foldl_nil]
    set a := (List.range n).foldl (fun a i => if f i then a + 2 ^ i else a) 0 with ha
    have hp : 2 ^ (n + 1) = 2 ^ n + 2 ^ n := by rw [Nat.pow_succ]; omega
    split_ifs with hf
    · refine ⟨by omega, fun j => ?_⟩
      rw [show a + 2 ^ n = 2 ^ n * 1 + a by omega, Nat.two_pow_add_eq_or_of_lt hlt, Nat.testBit_or, hb j, Nat.mul_one, Nat.testBit_two_pow]
      by_cases hj : j = n
      · subst hj; simp [hf]
      · have h1 : (j < n + 1) ↔ (j < n) := by omega
        have h2 : ¬ n = j := fun h => hj h.symm
        simp [h1, h2]
    · refine ⟨by omega, fun j => ?_⟩
      rw [hb j]
      by_cases hj : j = n
      · subst hj; simp [hf]
      · have : (j < n + 1) ↔ (j < n) := by omega
        simp [this]

@[simp] theorem maskOf_bit (f : Nat → Bool) (i : Nat) : (maskOf f).getLsbD i = (decide (i < 32) && f i) := by
  rw [maskOf, BitVec.getLsbD_ofNat, (gather_bits f 32).2 i]
  cases decide (i < 32) <;> simp

theorem lanesOf_and (m t : LaneMask) : lanesOf (m &&& t) = (lanesOf m).filter fun i => t.getLsbD i := by
  simp only [lanesOf, List.filter_filter, BitVec.getLsbD_and, Bool.and_comm]

theorem allOnes_bit {i : Nat} (h : i < 32) : (BitVec.allOnes 32).getLsbD i = true := by
  rw [BitVec.getLsbD_allOnes]; exact decide_eq_true h

/-- What every lane's change leaves alone, the fold leaves alone. -/
theorem Group.each_keeps {β : Type} (p : Group → β) (m : LaneMask) (f : Group → Nat → Group) (h : ∀ g i, p (f g i) = p g) (g : Group) :
    p (g.each m f) = p g := by
  unfold Group.each
  induction lanesOf m generalizing g with
  | nil => rfl
  | cons i l ih => rw [List.foldl_cons, ih, h]

/-- A lane-wise quantity that each change maps in its own lane only. -/
theorem Group.each_lane {β : Type} (p : Group → Nat → β) (m : LaneMask) (f : Group → Nat → Group) (v : Nat → β → β)
    (h : ∀ g i j, p (f g i) j = if i = j then v i (p g i) else p g j) (g : Group) (j : Nat) :
    p (g.each m f) j = if m.getLsbD j then v j (p g j) else p g j := by
  have gen (l : List Nat) (hl : l.Nodup) (g : Group) : p (l.foldl f g) j = if j ∈ l then v j (p g j) else p g j := by
    induction l generalizing g with
    | nil => simp
    | cons i l ih =>
      rw [List.foldl_cons, ih (List.nodup_cons.1 hl).2, h]
      have hn := (List.nodup_cons.1 hl).1
      by_cases hij : i = j
      · subst hij; simp [hn]
      · have hji : ¬ j = i := fun e => hij e.symm
        simp [hij, hji]
  rw [Group.each, gen _ (lanesOf_nodup m)]
  simp only [mem_lanesOf]

/-- The same where the law holds of the 32 lanes alone. -/
theorem Group.each_lane32 {β : Type} (p : Group → Nat → β) (m : LaneMask) (f : Group → Nat → Group) (v : Nat → β → β)
    (h : ∀ g i j, i < 32 → j < 32 → p (f g i) j = if i = j then v i (p g i) else p g j) (g : Group) (j : Nat) (hj : j < 32) :
    p (g.each m f) j = if m.getLsbD j then v j (p g j) else p g j := by
  have gen (l : List Nat) (hl : l.Nodup) (h32 : ∀ i ∈ l, i < 32) (g : Group) : p (l.foldl f g) j = if j ∈ l then v j (p g j) else p g j := by
    induction l generalizing g with
    | nil => simp
    | cons i l ih =>
      rw [List.foldl_cons, ih (List.nodup_cons.1 hl).2 (fun i hi => h32 i (List.mem_cons_of_mem _ hi)), h _ _ _ (h32 i List.mem_cons_self) hj]
      have hn := (List.nodup_cons.1 hl).1
      by_cases hij : i = j
      · subst hij; simp [hn]
      · have hji : ¬ j = i := fun e => hij e.symm
        simp [hij, hji]
  rw [Group.each, gen _ (lanesOf_nodup m) (fun i hi => lt_of_mem_lanesOf hi)]
  simp only [mem_lanesOf]

/-- The lanes of a mask go to a program counter each. -/
theorem Group.pcOf_each_setPc (g : Group) (m : LaneMask) (x : Nat → DWord) (j : Nat) :
    (g.each m fun h i => h.setPc i (x i)).pcOf j = if m.getLsbD j then x j else g.pcOf j :=
  Group.each_lane Group.pcOf m _ (fun i _ => x i) (fun g i j => by simp) g j

theorem Group.retiredOf_each_addRetired (g : Group) (m : LaneMask) (j : Nat) :
    (g.each m fun h i => h.addRetired i).retiredOf j = if m.getLsbD j then g.retiredOf j + 1 else g.retiredOf j :=
  Group.each_lane Group.retiredOf m _ (fun _ n => n + 1) (fun g i j => by simp) g j

theorem Group.waitOf_each_setWait (g : Group) (m : LaneMask) (w : Nat → Wait) (j : Nat) :
    (g.each m fun h i => h.setWait i (w i)).waitOf j = if m.getLsbD j then w j else g.waitOf j :=
  Group.each_lane Group.waitOf m _ (fun i _ => w i) (fun g i j => by simp) g j

/-- A group is another but for its program counters and retired counts. -/
theorem Group.each_setPc_eq (g : Group) (m : LaneMask) (x : Nat → DWord) :
    (g.each m fun h i => h.setPc i (x i)) = { g with pc := (g.each m fun h i => h.setPc i (x i)).pc } := by
  have h := Group.each_keeps (fun g => { g with pc := [] }) m (fun h i => h.setPc i (x i)) (fun _ _ => rfl) g
  exact congrArg (fun k : Group => { k with pc := (g.each m fun h i => h.setPc i (x i)).pc }) h

theorem Group.each_addRetired_eq (g : Group) (m : LaneMask) :
    (g.each m fun h i => h.addRetired i) = { g with retired := (g.each m fun h i => h.addRetired i).retired } := by
  have h := Group.each_keeps (fun g => { g with retired := [] }) m (fun h i => h.addRetired i) (fun _ _ => rfl) g
  exact congrArg (fun k : Group => { k with retired := (g.each m fun h i => h.addRetired i).retired }) h

end Sys2Proof.Machine
end

