-- ==== Sys2Proof/Laws/Issue.lean ====
section
/-! SUPPORT. What the issue of a slot does beside its own effect: the end of a chain, the advance, the finish, and the shared operations `enter`, `vecOp` and `sclOp`. -/

namespace Sys2Proof.Machine

theorem Group.commitChain_none {g : Group} {m : LaneMask} (h : (g.ringOf m).chain = none) : g.commitChain m = g := by
  simp only [Group.commitChain, h]

theorem Group.commitChain_some {g : Group} {m : LaneMask} {c : Chain} (h : (g.ringOf m).chain = some c) :
    g.commitChain m = { g.setRing { g.ringOf m with chain := none } with status := g.status ||| c.flags } := by
  simp only [Group.commitChain, h]

/-- A chain that ends changes STATUS and the rings alone (R64, R66). -/
theorem Group.commitChain_eq (g : Group) (m : LaneMask) :
    g.commitChain m = { g with rings := (g.commitChain m).rings, status := (g.commitChain m).status } := by
  cases h : (g.ringOf m).chain with
  | none => rw [Group.commitChain_none h]
  | some c => rw [Group.commitChain_some h]; rfl

theorem Group.ringOf_mask (g : Group) (m : LaneMask) : (g.ringOf m).mask = m := by
  unfold Group.ringOf
  cases h : g.rings.find? (fun r => r.mask = m) with
  | none => rfl
  | some r => have := List.find?_some h; simpa using this

theorem Group.ringOf_setRing (g : Group) (r : Ring) : (g.setRing r).ringOf r.mask = r := by
  simp [Group.ringOf, Group.setRing]

theorem Group.ringOf_commitChain (g : Group) (m : LaneMask) : (g.commitChain m).ringOf m = { g.ringOf m with chain := none } := by
  cases h : (g.ringOf m).chain with
  | none => rw [Group.commitChain_none h, ← h]
  | some c =>
    rw [Group.commitChain_some h]
    have := Group.ringOf_setRing g { g.ringOf m with chain := none }
    rwa [Group.ringOf_mask] at this

/-- Latches keep their values when a chain ends. -/
theorem Group.rdLatch_commitChain (g : Group) (m : LaneMask) (k i : Nat) : (g.commitChain m).rdLatch m k i = g.rdLatch m k i := by
  rw [Group.rdLatch, Group.ringOf_commitChain, Group.rdLatch]

/-- A chain that has ended has no more flags to give. -/
theorem Group.commitChain_twice (g : Group) (m : LaneMask) : (g.commitChain m).commitChain m = g.commitChain m :=
  Group.commitChain_none (by rw [Group.ringOf_commitChain])

/-- The four things that the end of a slot does, one after the other (R39, R40, R88, R93). -/
def State.clearYield (s : State) (b : Bool) : State := if b then s.modG fun g => { g with yieldMark := false } else s
def State.clearIdle (s : State) : State :=
  if s.g.yieldMark || isAgent s.cur.gk then s else
    (if s.trialHeld s.curCore then s else s.modCore s.curCore fun c => { c with idle := 0 }).modTeam (teamOf s.cur.gk) fun t => { t with lastWork := s.cycle }
def State.retire (s : State) : State := if s.cur.pair.isSome then s else s.countRetired
def State.close (s : State) : State :=
  { s with cur := { s.cur with verdict := .done }, logs := s.logs.map fun e => (e.1, if e.2.gk = s.cur.gk then { e.2 with after := e.2.after + 1 } else e.2) }

theorem State.finish_eq (s : State) (b : Bool) : s.finish b = (s.clearYield b).clearIdle.retire.close := rfl

/-- Two states that differ in nothing but what a slot's end touches; `cur` stays. -/
structure State.Aside (s t : State) : Prop where
  rest : t = { s with groups := t.groups, teams := t.teams, cores := t.cores, obs := t.obs, logs := t.logs }
  groups : ∀ k, k ≠ s.cur.gk → t.grp k = s.grp k
  teams : ∀ k, { t.team k with lastWork := 0 } = { s.team k with lastWork := 0 }
  cores : ∀ c, { t.core c with idle := 0 } = { s.core c with idle := 0 }
  obs : { t.obs with counts := [] } = { s.obs with counts := [] }
  logs : t.logs = s.logs

theorem State.Aside.refl (s : State) : s.Aside s := ⟨rfl, fun _ _ => rfl, fun _ => rfl, fun _ => rfl, rfl, rfl⟩

theorem State.Aside.cur {s t : State} (h : s.Aside t) : t.cur = s.cur := by rw [h.rest]

theorem State.Aside.trans {s t u : State} (h : s.Aside t) (k : t.Aside u) : s.Aside u := by
  refine ⟨?_, fun j hj => ?_, fun j => (k.teams j).trans (h.teams j), fun j => (k.cores j).trans (h.cores j), k.obs.trans h.obs, k.logs.trans h.logs⟩
  · have hk := k.rest
    have hh := h.rest
    rw [hh] at hk
    exact hk
  · rw [k.groups j (by rw [h.cur]; exact hj), h.groups j hj]

/-- A change of the issuing group alone. -/
theorem State.Aside.setGrp (s : State) (g : Group) : s.Aside (s.setGrp s.cur.gk g) :=
  ⟨rfl, fun k hk => by rw [State.grp_setGrp, if_neg fun h => hk h.symm], fun _ => rfl, fun _ => rfl, rfl, rfl⟩

theorem State.Aside.tally (s : State) (c n : Nat) : s.Aside (s.tally c n) := ⟨rfl, fun _ _ => rfl, fun _ => rfl, fun _ => rfl, rfl, rfl⟩

theorem State.Aside.idle (s : State) (c : Nat) : s.Aside (s.modCore c fun k => { k with idle := 0 }) := by
  refine ⟨rfl, fun _ _ => rfl, fun _ => rfl, fun k => ?_, rfl, rfl⟩
  rw [State.modCore_eq, State.core_setCore]
  split_ifs with h
  · rw [h]
  · rfl

theorem State.Aside.work (s : State) (tk : Nat) (n : Nat) : s.Aside (s.modTeam tk fun t => { t with lastWork := n }) := by
  refine ⟨rfl, fun _ _ => rfl, fun k => ?_, fun _ => rfl, rfl, rfl⟩
  rw [State.modTeam_eq, State.team_setTeam]
  split_ifs with h
  · rw [h]
  · rfl

theorem State.clearYield_aside (s : State) (b : Bool) : s.Aside (s.clearYield b) := by
  cases b
  · exact .refl s
  · exact .setGrp s _

theorem State.clearIdle_aside (s : State) : s.Aside s.clearIdle := by
  unfold State.clearIdle
  split_ifs
  · exact .refl s
  · exact .work s _ _
  · exact (State.Aside.idle s _).trans (.work _ _ _)

theorem State.countRetired_aside (s : State) : s.Aside s.countRetired := (State.Aside.setGrp s _).trans (.tally _ _ _)

theorem State.retire_aside (s : State) : s.Aside s.retire := by
  unfold State.retire
  split_ifs
  · exact .refl s
  · exact s.countRetired_aside

/-- An aside and the slot's close. -/
theorem State.Aside.close {s t : State} (h : s.Aside t) : s.Beside t.close := by
  refine ⟨?_, ?_, h.groups, h.teams, h.cores, h.obs, ?_⟩
  · have hh := h.rest
    exact congrArg (fun u : State => { u with cur := t.close.cur, logs := t.close.logs }) hh
  · show ({ t.cur with verdict := .done } : Issue) = _
    rw [h.cur]
  · show List.map _ (List.map _ t.logs) = _
    rw [h.logs, List.map_map]
    refine List.map_congr_left fun e _ => ?_
    simp only [Function.comp]
    split_ifs <;> rfl

theorem State.finish_aside (s : State) (b : Bool) : s.Aside (s.clearYield b).clearIdle.retire :=
  ((s.clearYield_aside b).trans (State.clearIdle_aside _)).trans (State.retire_aside _)

/-- What the end of a slot leaves alone. -/
theorem State.Aside.finish {s t : State} (h : s.Aside t) (b : Bool) : s.Beside (t.finish b) := (h.trans (t.finish_aside b)).close

theorem State.g_congr {s t : State} (h : t.cur = s.cur) (hg : t.groups = s.groups) : t.g = s.g := by
  unfold State.g State.grp
  rw [h, hg]

theorem State.clearIdle_groups (s : State) : s.clearIdle.groups = s.groups := by
  unfold State.clearIdle
  split_ifs <;> rfl

theorem State.clearIdle_g (s : State) : s.clearIdle.g = s.g := State.g_congr (s.clearIdle_aside.cur) s.clearIdle_groups

theorem State.clearYield_g (s : State) (b : Bool) : (s.clearYield b).g = { s.g with yieldMark := s.g.yieldMark && !b } := by
  cases b
  · simp [State.clearYield]
  · simp [State.clearYield, State.g]

theorem State.retire_g (s : State) :
    s.retire.g = { s.g with retired := s.retire.g.retired } ∧
    ∀ i, s.retire.g.retiredOf i = s.g.retiredOf i + (if s.cur.mask.getLsbD i && s.cur.pair.isNone then 1 else 0) := by
  unfold State.retire
  cases hp : s.cur.pair with
  | some p => simp
  | none =>
    have hg : s.countRetired.g = s.g.each s.cur.mask fun h i => h.addRetired i := State.g_setGrp s _
    simp only [Option.isSome_none, Bool.false_eq_true, if_false, hg]
    refine ⟨Group.each_addRetired_eq _ _, fun i => ?_⟩
    rw [Group.retiredOf_each_addRetired]
    simp only [Option.isNone_none, Bool.and_true]
    split_ifs <;> rfl

/-- What the end of a slot does to its group. -/
theorem State.finish_g (s : State) (b : Bool) :
    (s.finish b).g = { s.g with yieldMark := s.g.yieldMark && !b, retired := (s.finish b).g.retired } ∧
    ∀ i, (s.finish b).g.retiredOf i = s.g.retiredOf i + (if s.cur.mask.getLsbD i && s.cur.pair.isNone then 1 else 0) := by
  have e : (s.finish b).g = ((s.clearYield b).clearIdle.retire).g := rfl
  have hc : (s.clearYield b).clearIdle.cur = s.cur := ((s.clearYield_aside b).trans (State.clearIdle_aside _)).cur
  obtain ⟨h1, h2⟩ := ((s.clearYield b).clearIdle).retire_g
  rw [State.clearIdle_g, State.clearYield_g] at h1
  rw [e]
  refine ⟨h1, fun i => ?_⟩
  rw [h2 i, State.clearIdle_g, State.clearYield_g, hc]
  rfl

/-- The advance of a path and the end of its slot. -/
theorem State.advance_finish (s : State) (b : Bool) :
    s.Beside ((s.advance s.cur.mask).finish b) ∧ s.Advanced ((s.advance s.cur.mask).finish b) ∧
    ((s.advance s.cur.mask).finish b).g = { s.g with pc := ((s.advance s.cur.mask).finish b).g.pc, yieldMark := s.g.yieldMark && !b,
                                                     retired := ((s.advance s.cur.mask).finish b).g.retired } := by
  have ha : s.Aside (s.advance s.cur.mask) := .setGrp s _
  have hg : (s.advance s.cur.mask).g = s.g.each s.cur.mask fun h i => h.setPc i (nextPc s.cur.pc) := State.g_setGrp s _
  obtain ⟨h1, h2⟩ := (s.advance s.cur.mask).finish_g b
  rw [hg] at h1 h2
  rw [Group.each_setPc_eq] at h1
  refine ⟨ha.finish b, ⟨fun i => ?_, fun i => ?_⟩, ?_⟩
  · show tabGet 0 ((s.advance s.cur.mask).finish b).g.pc i = _
    rw [h1]
    exact Group.pcOf_each_setPc _ _ _ _
  · rw [h2 i, ha.cur]
    congr 1
    exact Group.each_keeps (fun g => g.retiredOf i) s.cur.mask (fun h i => h.setPc i (nextPc s.cur.pc)) (fun _ _ => rfl) s.g
  · rw [h1]

@[simp] theorem State.finish_cur (s : State) (b : Bool) : (s.finish b).cur = { s.cur with verdict := .done } := ((State.Aside.refl s).finish b).cur

end Sys2Proof.Machine
end

