-- ==== Sys2Proof/Laws/Layouts.lean ====
section
/-! SUPPORT. Each layout's fields come back from its slot (R54, R55, R58 to R61). -/

namespace Sys2Proof

theorem vargs_raw (op : BitVec 12) (x : VArgs) : vargsOf (vargsRaw op x) = some x := by
  obtain ⟨g, d, a, b, c, ty, rnd, sat, nA, nB, aA, aB, cmp, op8⟩ := x
  have bits (n : Nat) (hn : n < 5) : ((op8 ++ cmpCode cmp ++ BitVec.ofBool aB ++ BitVec.ofBool aA ++ BitVec.ofBool nB ++ BitVec.ofBool nA ++
      BitVec.ofBool sat ++ rndCode rnd ++ tyCode ty ++ (0 : BitVec 8)).getLsbD (14 + n)) = [sat, nA, nB, aA, aB].getD n false := by
    interval_cases n <;> simp only [BitVec.getLsbD_append] <;> simp
  have hs := bits 0 (by omega); have hnA := bits 1 (by omega); have hnB := bits 2 (by omega)
  have haA := bits 3 (by omega); have haB := bits 4 (by omega)
  simp only [Nat.reduceAdd, List.getD_cons_zero, List.getD_cons_succ] at hs hnA hnB haA haB
  simp (disch := omega) only [vargsOf, vargsRaw, vmHigh, dstOf_dstCode, srcOf_srcCode, cut_low, cut_high, cut_all, Nat.reduceSub, tyOf_tyCode,
    rndOf_rndCode, cmpOf_cmpCode, guardOf_guardCode, Option.bind_eq_bind, Option.bind_some, if_true, hs, hnA, hnB, haA, haB]

/-- A number cut in two comes back. -/
theorem join_cut {w : Nat} (x : BitVec w) (k n : Nat) (h : k + n = w) : (x.extractLsb' k n ++ x.extractLsb' 0 k).setWidth w = x := by
  apply BitVec.eq_of_getLsbD_eq
  intro i hi
  simp only [BitVec.getLsbD_setWidth, BitVec.getLsbD_append, BitVec.getLsbD_extractLsb', hi, decide_true, Bool.true_and]
  split_ifs <;> rw [decide_eq_true (by omega), Bool.true_and] <;> congr 1 <;> omega

/-- The immediate of an I-form comes back from its three fields (R54). -/
theorem join_imm (x : Word) : x.extractLsb' 24 8 ++ x.extractLsb' 12 12 ++ x.extractLsb' 0 12 = x := by
  apply BitVec.eq_of_getLsbD_eq
  intro i hi
  simp only [BitVec.getLsbD_append, BitVec.getLsbD_extractLsb']
  split_ifs <;> rw [decide_eq_true (by omega), Bool.true_and] <;> congr 1 <;> omega

theorem vimm_raw (op : BitVec 12) (x : VImm) : vimmOf (vimmRaw op x) = some x := by
  obtain ⟨g, d, a, imm, ty, rnd, sat, nA, nB, aA, aB, cmp, op8⟩ := x
  have bits (n : Nat) (hn : n < 5) : ((op8 ++ cmpCode cmp ++ BitVec.ofBool aB ++ BitVec.ofBool aA ++ BitVec.ofBool nB ++ BitVec.ofBool nA ++
      BitVec.ofBool sat ++ rndCode rnd ++ tyCode ty ++ imm.extractLsb' 24 8).getLsbD (14 + n)) = [sat, nA, nB, aA, aB].getD n false := by
    interval_cases n <;> simp only [BitVec.getLsbD_append] <;> simp
  have hs := bits 0 (by omega); have hnA := bits 1 (by omega); have hnB := bits 2 (by omega)
  have haA := bits 3 (by omega); have haB := bits 4 (by omega)
  simp only [Nat.reduceAdd, List.getD_cons_zero, List.getD_cons_succ] at hs hnA hnB haA haB
  simp (disch := omega) only [vimmOf, vimmRaw, vmHigh, immOf, dstOf_dstCode, srcOf_srcCode, cut_low, cut_high, cut_all, Nat.reduceSub, tyOf_tyCode,
    rndOf_rndCode, cmpOf_cmpCode, guardOf_guardCode, Option.bind_eq_bind, Option.bind_some, if_true, hs, hnA, hnB, haA, haB, join_imm]

theorem vec_raw (op : BitVec 12) (x : VArgs) (k : VArgs → Instr) : vec (vargsRaw op x) k = some (k x, false) := by simp [vec, vargs_raw]
theorem vecI_raw (op : BitVec 12) (x : VImm) (k : VImm → Instr) : vecI (vimmRaw op x) k = some (k x, false) := by simp [vecI, vimm_raw]

theorem g0_raw (op : BitVec 12) (x : G0Args) (k : G0Args → Instr) : g0 (g0Raw op x) k = some (k x, false) := by simp [g0, g0Raw, only]

theorem bra_raw (op : BitVec 12) (x : BraArgs) (k : BraArgs → Instr) : braP (braRaw op x) k = some (k x, false) := by
  simp (disch := omega) only [braP, braRaw, braArgs, only, dOk, dNum, immOf, cut_low, cut_high, cut_all, join_imm, Nat.reduceSub]
  simp

theorem jmp_raw (op : BitVec 12) (x : JmpArgs) (k : JmpArgs → Instr) : jmpP (jmpRaw op x) k = some (k x, false) := by simp [jmpP, jmpRaw, only]

theorem join_code (x : BitVec 16) : x.extractLsb' 12 4 ++ x.extractLsb' 0 12 = x := by
  apply BitVec.eq_of_getLsbD_eq
  intro i hi
  simp only [BitVec.getLsbD_append, BitVec.getLsbD_extractLsb']
  split_ifs <;> rw [decide_eq_true (by omega), Bool.true_and] <;> congr 1 <;> omega

theorem code_raw (op : BitVec 12) (x : CodeArgs) (k : CodeArgs → Instr) : codeP (codeRaw op x) k = some (k x, false) := by
  simp (disch := omega) only [codeP, codeRaw, only, cut_low, cut_high, cut_all, join_code, Nat.reduceSub]
  simp

theorem prog_raw (x : ProgArgs) : progP (progRaw x) = some (.prog x, false) := by
  simp (disch := omega) only [progP, progRaw, only, cut_low, cut_high, cut_all, Nat.reduceSub]
  simp

theorem priv_raw (op : BitVec 12) (x : PrivArgs) (k : PrivArgs → Instr) : privP (privRaw op x) k = some (k x, false) := by
  simp [privP, privRaw, only]

theorem scl_raw (op : BitVec 12) (x : SclArgs) (k : SclArgs → Instr) : sclP (sclRaw op x) k = some (k x, false) := by
  simp (disch := omega) only [sclP, sclRaw, only, dOk, dNum, cut_low, cut_high, cut_all, Nat.reduceSub]
  simp

theorem sclI_raw (op : BitVec 12) (x : SclImm) (k : SclImm → Instr) : sclIP (sclIRaw op x) k = some (k x, false) := by
  simp (disch := omega) only [sclIP, sclIRaw, only, dOk, dNum, immOf, cut_low, cut_high, cut_all, join_imm, Nat.reduceSub]
  simp

theorem srd_raw (x : SprArgs) : srdP (srdRaw x) = some (.srd x, false) := by simp [srdP, srdRaw, only, dOk, dNum]
theorem swr_raw (x : SprArgs) : swrP (swrRaw x) = some (.swr x, false) := by
  simp (disch := omega) only [swrP, swrRaw, only, cut_low, cut_high, cut_all, Nat.reduceSub]
  simp
theorem clk_raw (x : SprArgs) (h : x.num = 0) : clkP (clkRaw x) = some (.clk x, false) := by
  obtain ⟨g, s, n⟩ := x
  obtain rfl : n = 0 := h
  simp [clkP, clkRaw, only, dOk, dNum]

theorem mem_raw (op : BitVec 12) (x : MemArgs) (uc ud : Bool) (k : MemArgs → Instr) (hc : uc || x.c = 0) (hd : ud || x.d = 0) :
    memP (memRaw op x) uc ud k = some (k x, false) := by
  obtain ⟨g, d, a, b, c, sb, n, z, off⟩ := x
  have h30 : (BitVec.ofBool sb ++ (0 : BitVec 1) ++ n ++ z ++ off).getLsbD 30 = sb := by simp only [BitVec.getLsbD_append]; simp
  have h29 : (BitVec.ofBool sb ++ (0 : BitVec 1) ++ n ++ z ++ off).getLsbD 29 = false := by simp only [BitVec.getLsbD_append]; simp
  have hc' : uc = true ∨ field c = 0 := by
    cases uc with | true => exact .inl rfl | false => simp at hc; subst hc; exact .inr rfl
  have hd' : ud = true ∨ field d = 0 := by
    cases ud with | true => exact .inl rfl | false => simp at hd; subst hd; exact .inr rfl
  simp (disch := omega) only [memP, memRaw, only, dOk, dNum, cut_low, cut_high, cut_all, h30, h29, num_field, latchBit_field,
    guardOf_guardCode, Nat.reduceSub, Bool.not_false, Bool.and_self, Bool.true_and, Bool.or_self]
  simp only [Bool.and_eq_true, Bool.or_eq_true]
  exact if_pos ⟨hc'.imp id decide_eq_true, hd'.imp id decide_eq_true⟩

theorem acq_raw (op : BitVec 12) (x : AcqArgs) (uc ud : Bool) (k : AcqArgs → Instr) (hc : uc || x.c = 0) (hd : ud || x.d = 0) :
    acqP (acqRaw op x) uc ud k = some (k x, false) := by
  obtain ⟨g, d, a, b, c, sb, w, sc, off⟩ := x
  have h30 : (BitVec.ofBool sb ++ (0 : BitVec 3) ++ BitVec.ofBool w ++ scopeCode sc ++ off).getLsbD 30 = sb := by simp only [BitVec.getLsbD_append]; simp
  have h26 : (BitVec.ofBool sb ++ (0 : BitVec 3) ++ BitVec.ofBool w ++ scopeCode sc ++ off).getLsbD 26 = w := by simp only [BitVec.getLsbD_append]; simp
  have hc' : uc = true ∨ field c = 0 := by
    cases uc with | true => exact .inl rfl | false => simp at hc; subst hc; exact .inr rfl
  have hd' : ud = true ∨ field d = 0 := by
    cases ud with | true => exact .inl rfl | false => simp at hd; subst hd; exact .inr rfl
  simp (disch := omega) only [acqP, acqRaw, only, dOk, dNum, cut_low, cut_high, cut_all, h30, h26, num_field, latchBit_field, scopeOf_scopeCode,
    guardOf_guardCode, Nat.reduceSub, Bool.not_false, Bool.and_self, Bool.true_and, Bool.or_self, decide_true]
  simp only [Bool.and_eq_true, Bool.or_eq_true]
  exact if_pos ⟨hc'.imp id decide_eq_true, hd'.imp id decide_eq_true⟩

theorem fence_raw (x : FenceArgs) : fenceP (fenceRaw x) = some (.fence x, false) := by
  simp (disch := omega) only [fenceP, fenceRaw, only, cut_low, cut_high, cut_all, Nat.reduceSub]
  simp
theorem waitc_raw (x : WaitArgs) : waitcP (waitcRaw x) = some (.waitc x, false) := by
  simp (disch := omega) only [waitcP, waitcRaw, only, cut_low, cut_high, cut_all, Nat.reduceSub]
  simp

theorem atom_raw (op : BitVec 12) (x : AtomArgs) (uc : Bool) (k : AtomArgs → Instr) (hc : uc || x.c = 0) :
    atomP (atomRaw op x) uc k = some (k x, false) := by
  obtain ⟨g, d, a, b, c, w, nr, sc, ty, off⟩ := x
  have h23 : ((0 : BitVec 7) ++ BitVec.ofBool w ++ BitVec.ofBool nr ++ scopeCode sc ++ tyCode ty ++ off).getLsbD 23 = w := by
    simp only [BitVec.getLsbD_append]; simp
  have h22 : ((0 : BitVec 7) ++ BitVec.ofBool w ++ BitVec.ofBool nr ++ scopeCode sc ++ tyCode ty ++ off).getLsbD 22 = nr := by
    simp only [BitVec.getLsbD_append]; simp
  have hc' : uc = true ∨ field c = 0 := by
    cases uc with | true => exact .inl rfl | false => simp at hc; subst hc; exact .inr rfl
  simp (disch := omega) only [atomP, atomRaw, only, dOk, dNum, cut_low, cut_high, cut_all, h23, h22, num_field, latchBit_field, scopeOf_scopeCode,
    guardOf_guardCode, tyOf_tyCode, Nat.reduceSub, Bool.not_false, Bool.and_self, Bool.true_and, Bool.or_self, decide_true, Option.bind_eq_bind, Option.bind_some]
  simp only [Bool.and_eq_true, Bool.or_eq_true]
  exact if_pos (hc'.imp id decide_eq_true)

theorem id_raw (op : BitVec 12) (x : IdArgs) (k : IdArgs → Instr) : idP (idRaw op x) k = some (k x, false) := by
  simp (disch := omega) only [idP, idRaw, only, cut_low, cut_high, cut_all, Nat.reduceSub]
  simp
theorem grow_raw (x : GrowArgs) : growP (growRaw x) = some (.grow x, false) := by simp [growP, growRaw, only, dOk, dNum]
theorem qpush_raw (x : QpushArgs) : qpushP (qpushRaw x) = some (.qpush x, false) := by simp [qpushP, qpushRaw, only, d4Ok, d4]
theorem cpy_raw (op : BitVec 12) (x : CpyArgs) (k : CpyArgs → Instr) : cpyP (cpyRaw op x) k = some (k x, false) := by
  simp [cpyP, cpyRaw, only, d4Ok, d4]

theorem mid_d4Field (n : BitVec 4) : (d4Field n).extractLsb' 4 7 = 0 := by revert n; decide
theorem hand_raw (op : BitVec 12) (x : HandArgs) (k : HandArgs → Instr) : handP (handRaw op x) k = some (k x, false) := by
  simp [handP, handRaw, only, d4Ok, d4, mid_d4Field]

theorem kpackA_raw (x : KpackArgs) : kpackP (kpackRaw 0 x) = some (.kpackA x, false) := by
  have h : ((0 : BitVec 30) ++ (0 : BitVec 1)).getLsbD 0 = false := by decide
  simp (disch := omega) only [kpackP, kpackRaw, only, dOk, dNum, cut_high, h, num_field, latchBit_field, guardOf_guardCode]
  simp [cut_all]
theorem kpackB_raw (x : KpackArgs) : kpackP (kpackRaw 1 x) = some (.kpackB x, false) := by
  have h : ((0 : BitVec 30) ++ (1 : BitVec 1)).getLsbD 0 = true := by decide
  simp (disch := omega) only [kpackP, kpackRaw, only, dOk, dNum, cut_high, h, num_field, latchBit_field, guardOf_guardCode]
  simp [cut_all]

theorem kpass_bits (mode : BitVec 3) (x : KpassArgs) (op : BitVec 12) :
    (kpassRaw op mode x).m.extractLsb' 28 3 = mode ∧ (kpassRaw op mode x).m.getLsbD 1 = false ∧
    ∀ b, kpassArgs (kpassRaw op mode x) b = { x with conv := b } := by
  obtain ⟨g, h, a, b, c, conv, dst, ss, steps, reuse⟩ := x
  have h0 : (mode ++ dst ++ ss ++ steps ++ (0 : BitVec 1) ++ BitVec.ofBool reuse).getLsbD 0 = reuse := by simp only [BitVec.getLsbD_append]; simp
  have h1 : (mode ++ dst ++ ss ++ steps ++ (0 : BitVec 1) ++ BitVec.ofBool reuse).getLsbD 1 = false := by simp only [BitVec.getLsbD_append]; simp
  refine ⟨?_, h1, fun v => ?_⟩
  · simp (disch := omega) only [kpassRaw, cut_high, cut_low, cut_all, Nat.reduceSub]
  · simp (disch := omega) only [kpassArgs, kpassRaw, cut_high, cut_low, cut_all, Nat.reduceSub, h0, num_field, d4, low_d4Field, guardOf_guardCode]

theorem kpass_raw (x : KpassArgs) : kpassP (kpassRaw 0xB01 (if x.conv then 1 else 0) x) false = some (.kpass x, false) := by
  obtain ⟨hm, h1, ha⟩ := kpass_bits (if x.conv then 1 else 0) x 0xB01
  simp only [kpassP, hm, h1, ha, only]
  obtain ⟨g, h, a, b, c, conv, dst, ss, steps, reuse⟩ := x
  cases conv <;> simp [d4Ok, kpassRaw]
theorem kwin_raw (x : KpassArgs) (hw : x.conv = false) : kpassP (kpassRaw 0xB02 2 x) true = some (.kwin x, false) := by
  obtain ⟨hm, h1, ha⟩ := kpass_bits 2 x 0xB02
  simp only [kpassP, hm, h1, ha, only]
  obtain ⟨g, h, a, b, c, conv, dst, ss, steps, reuse⟩ := x
  obtain rfl : conv = false := hw
  simp [d4Ok, kpassRaw]

theorem join_first (x : BitVec 11) : x.extractLsb' 9 2 ++ x.extractLsb' 0 9 = x := by
  apply BitVec.eq_of_getLsbD_eq
  intro i hi
  simp only [BitVec.getLsbD_append, BitVec.getLsbD_extractLsb']
  split_ifs <;> rw [decide_eq_true (by omega), Bool.true_and] <;> congr 1 <;> omega
theorem kext_raw (x : KextArgs) : kextP (kextRaw x) = some (.kext x, false) := by
  simp (disch := omega) only [kextP, kextRaw, only, dOk, dNum, cut_low, cut_high, cut_all, join_first, Nat.reduceSub]
  simp
theorem kstab_raw (x : KstabArgs) : kstabP (kstabRaw x) = some (.kstab x, false) := by
  simp (disch := omega) only [kstabP, kstabRaw, only, cut_low, cut_high, cut_all, Nat.reduceSub]
  simp
theorem fsend_raw (x : FsendArgs) : fsendP (fsendRaw x) = some (.fsend x, false) := by
  simp (disch := omega) only [fsendP, fsendRaw, only, d4Ok, d4, cut_low, cut_high, cut_all, Nat.reduceSub]
  simp
theorem ffence_raw (x : FfenceArgs) : ffenceP (ffenceRaw x) = some (.ffence x, false) := by
  simp (disch := omega) only [ffenceP, ffenceRaw, only, cut_low, cut_high, cut_all, Nat.reduceSub]
  simp
theorem fsync_raw (x : FsyncArgs) : fsyncP (fsyncRaw x) = some (.fsync x, false) := by
  simp (disch := omega) only [fsyncP, fsyncRaw, only, cut_low, cut_high, cut_all, Nat.reduceSub]
  simp
theorem pmig_raw (x : PmigArgs) : pmigP (pmigRaw x) = some (.pmig x, false) := by simp [pmigP, pmigRaw, only, d4Ok, d4]

end Sys2Proof
end

