-- ==== Sys2Proof/Laws/Memory.lean ====
section
/-! SUPPORT. Memories: reading after a write, and the canonical form (R8, R101, R379). -/

namespace Sys2Proof.Machine

/-- Every write keeps the canonical form. -/
theorem memPut_wf (t : List Host.Cell) (a x n : Nat) (h : Memory.wf t) : Memory.wf (memPut t a x n) := by
  induction n generalizing t a x with
  | zero => exact h
  | succ n ih => exact ih _ _ _ (tabWf_set _ _ h)

/-- A byte outside the bytes written reads as before. -/
theorem memPut_other (t : List Host.Cell) (a x n b : Nat) (h : b < a ∨ a + n ≤ b) :
    tabGet (0 : Byte) (memPut t a x n) b = tabGet 0 t b := by
  induction n generalizing t a x with
  | zero => rfl
  | succ n ih =>
    simp only [memPut]
    rw [ih _ _ _ (by omega), tabGet_set, if_neg (by omega)]

/-- Byte k of the bytes written reads as byte k of the number (R8). -/
theorem memPut_byte (t : List Host.Cell) (a x n k : Nat) (h : k < n) :
    tabGet (0 : Byte) (memPut t a x n) (a + k) = BitVec.ofNat 8 (x / 256 ^ k) := by
  induction n generalizing t a x k with
  | zero => omega
  | succ n ih =>
    simp only [memPut]
    cases k with
    | zero => rw [memPut_other _ _ _ _ _ (by omega), tabGet_set]; simp
    | succ k =>
      rw [show a + (k + 1) = a + 1 + k by omega, ih _ _ _ _ (by omega), Nat.div_div_eq_div_mul, Nat.pow_succ, Nat.mul_comm 256]

/-- Reading n bytes depends on those bytes alone. -/
theorem memNat_congr (t u : List Host.Cell) (a n : Nat) (h : ∀ k < n, tabGet (0 : Byte) t (a + k) = tabGet 0 u (a + k)) : memNat t a n = memNat u a n := by
  induction n generalizing a with
  | zero => rfl
  | succ n ih =>
    simp only [memNat]
    rw [show tabGet (0 : Byte) t a = tabGet 0 u a from h 0 (by omega), ih (a + 1) fun k hk => by have := h (k + 1) (by omega); rwa [show a + (k + 1) = a + 1 + k by omega] at this]

/-- A read of what a write of n bytes stored gives its low n bytes (R8). -/
theorem memNat_put (t : List Host.Cell) (a x n : Nat) : memNat (memPut t a x n) a n = x % 256 ^ n := by
  induction n generalizing t a x with
  | zero => simp [memNat, Nat.mod_one]
  | succ n ih =>
    have h0 : tabGet (0 : Byte) (memPut t a x (n + 1)) a = BitVec.ofNat 8 x := by have := memPut_byte t a x (n + 1) 0 (by omega); simpa using this
    simp only [memNat, h0]
    simp only [memPut, ih]
    rw [BitVec.toNat_ofNat, Nat.pow_succ 256, Nat.mul_comm (256 ^ n), Nat.mod_mul]

/-- A read away from the bytes written gives what it gave before. -/
theorem memNat_put_other (t : List Host.Cell) (a x n b k : Nat) (h : b + k ≤ a ∨ a + n ≤ b) : memNat (memPut t a x n) b k = memNat t b k :=
  memNat_congr _ _ _ _ fun j hj => memPut_other _ _ _ _ _ (by omega)

end Sys2Proof.Machine
end

