-- ==== Sys2Proof/Laws/PerInstr.lean ====
section
/-! SUPPORT. Per instruction: the word of a well-formed instruction decodes to it (R50 to R61, R67), and an event has no word. -/

namespace Sys2Proof.Laws.Enc

/-- The slot that the encoder gives a well-formed instruction form decodes to it; an event has no slot. -/
def Statement (i : Instr) : Prop :=
  i.wf = true → match encode i with
    | some w => decodeSlot w = .ok i
    | none => i.encoded = false

/-- A parsed layout decodes to its instruction. -/
theorem of_parse {i : Instr} {r : Raw} (he : encodeRaw i = some r) (hp : i.wf = true → parse r = some (i, false)) : Statement i := by
  intro h
  simp only [encode, he, Option.map_some, decodeSlot, unpack_pack, decodeRaw, hp h, h]
  rfl

/-- An event has no slot. -/
theorem of_event {i : Instr} (he : encodeRaw i = none) (hx : i.encoded = false) : Statement i := by
  intro _
  simp only [encode, he, Option.map_none]
  exact hx

end Sys2Proof.Laws.Enc

namespace Sys2Proof

/-- The opcode map with the opcode's two parts given. -/
def parseBy (r : Raw) (cls op : Nat) : Parsed :=
  match cls with
  | 0x0 => parse0 r op | 0x1 => parse1 r op | 0x2 => parse2 r op | 0x3 => parse3 r op | 0x4 => parse4 r op
  | 0x5 => parse5 r op | 0x6 => parse6 r op | 0x7 => parse7 r op | 0x8 => parse8 r op | 0x9 => parse9 r op
  | cls => parseHigh r cls op

theorem parse_by (r : Raw) : parse r = parseBy r (r.op.toNat / 256) (r.op.toNat % 256) := rfl

/-- Only the opcode selects the row of the map (R67). -/
theorem parse_op (op : BitVec 12) {r : Raw} (h : r.op = op) : parse r = parseBy r (op.toNat / 256) (op.toNat % 256) := by
  rw [parse_by, h]

-- fields that a well-formed instruction leaves zero
theorem MemArgs.ldOk_c {x : MemArgs} (h : x.ldOk = true) : (false || decide (x.c = 0)) = true := by simp_all [MemArgs.ldOk]
theorem MemArgs.stOk_d {x : MemArgs} (h : x.stOk = true) : (false || decide (x.d = 0)) = true := by simp_all [MemArgs.stOk]
theorem MemArgs.ldlnOk_c {x : MemArgs} (h : x.ldlnOk = true) : (false || decide (x.c = 0)) = true := by simp_all [MemArgs.ldlnOk]
theorem MemArgs.stlnOk_d {x : MemArgs} (h : x.stlnOk = true) : (false || decide (x.d = 0)) = true := by simp_all [MemArgs.stlnOk]
theorem MemArgs.prefOk_c {x : MemArgs} (h : x.prefOk = true) : (false || decide (x.c = 0)) = true := by simp_all [MemArgs.prefOk]
theorem MemArgs.prefOk_d {x : MemArgs} (h : x.prefOk = true) : (false || decide (x.d = 0)) = true := by simp_all [MemArgs.prefOk]
theorem MemArgs.sldOk_c {x : MemArgs} (h : x.sldOk = true) : (false || decide (x.c = 0)) = true := by simp_all [MemArgs.sldOk]
theorem MemArgs.sstOk_d {x : MemArgs} (h : x.sstOk = true) : (false || decide (x.d = 0)) = true := by simp_all [MemArgs.sstOk]
theorem AcqArgs.ldaqOk_c {x : AcqArgs} (h : x.ldaqOk = true) : (false || decide (x.c = 0)) = true := by simp_all [AcqArgs.ldaqOk]
theorem AcqArgs.strlOk_d {x : AcqArgs} (h : x.strlOk = true) : (false || decide (x.d = 0)) = true := by simp_all [AcqArgs.strlOk]
theorem AtomArgs.intOk_c {x : AtomArgs} (h : x.intOk = true) : (false || decide (x.c = 0)) = true := by simp_all [AtomArgs.intOk]
theorem AtomArgs.xchOk_c {x : AtomArgs} (h : x.xchOk = true) : (false || decide (x.c = 0)) = true := by simp_all [AtomArgs.xchOk, AtomArgs.intOk]
theorem AtomArgs.fltOk_c {x : AtomArgs} (h : x.fltOk = true) : (false || decide (x.c = 0)) = true := by simp_all [AtomArgs.fltOk]
theorem clk_num {x : SprArgs} (h : (x.s.toNat < 256 && x.num = 0) = true) : x.num = 0 := by simp_all
theorem kwin_conv {x : KpassArgs} (h : (x.ok && !x.conv) = true) : x.conv = false := by simp_all
theorem VSpec.moveV_op8 {x : VArgs} (h : VSpec.moveV.ok x = true) : x.op8 = 0 := by simp_all [VSpec.ok, VSpec.moveV]
theorem VSpec.moveH_op8 {x : VArgs} (h : VSpec.moveH.ok x = true) : x.op8 = 1 := by simp_all [VSpec.ok, VSpec.moveH]

/-- MOV's forms differ in the lowest of the op bits. -/
theorem mov_bit (x : VArgs) (b : Bool) (h : x.op8 = if b then 1 else 0) : (vargsRaw 0x500 x).m.getLsbD 23 = b := by
  obtain ⟨g, d, a, b', c, ty, rnd, sat, nA, nB, aA, aB, cmp, op8⟩ := x
  obtain rfl : op8 = _ := h
  simp only [vargsRaw, vmHigh, BitVec.getLsbD_append]
  cases b <;> simp

theorem Laws.Enc.nop (x : G0Args) : Laws.Enc.Statement (.nop x) := Laws.Enc.of_parse rfl (fun _ => (parse_op 0x000 rfl).trans (g0_raw _ x _))
theorem Laws.Enc.bra (x : BraArgs) : Laws.Enc.Statement (.bra x) := Laws.Enc.of_parse rfl (fun _ => (parse_op 0x001 rfl).trans (bra_raw _ x _))
theorem Laws.Enc.brx (x : JmpArgs) : Laws.Enc.Statement (.brx x) := Laws.Enc.of_parse rfl (fun _ => (parse_op 0x002 rfl).trans (jmp_raw _ x _))
theorem Laws.Enc.call (x : BraArgs) : Laws.Enc.Statement (.call x) := Laws.Enc.of_parse rfl (fun _ => (parse_op 0x003 rfl).trans (bra_raw _ x _))
theorem Laws.Enc.ret (x : JmpArgs) : Laws.Enc.Statement (.ret x) := Laws.Enc.of_parse rfl (fun _ => (parse_op 0x004 rfl).trans (jmp_raw _ x _))
theorem Laws.Enc.exit (x : G0Args) : Laws.Enc.Statement (.exit x) := Laws.Enc.of_parse rfl (fun _ => (parse_op 0x005 rfl).trans (g0_raw _ x _))
theorem Laws.Enc.rcv (x : BraArgs) : Laws.Enc.Statement (.rcv x) := Laws.Enc.of_parse rfl (fun _ => (parse_op 0x006 rfl).trans (bra_raw _ x _))
theorem Laws.Enc.rjoin (x : G0Args) : Laws.Enc.Statement (.rjoin x) := Laws.Enc.of_parse rfl (fun _ => (parse_op 0x007 rfl).trans (g0_raw _ x _))
theorem Laws.Enc.brk (x : BraArgs) : Laws.Enc.Statement (.brk x) := Laws.Enc.of_parse rfl (fun _ => (parse_op 0x008 rfl).trans (bra_raw _ x _))
theorem Laws.Enc.yield (x : G0Args) : Laws.Enc.Statement (.yield x) := Laws.Enc.of_parse rfl (fun _ => (parse_op 0x009 rfl).trans (g0_raw _ x _))
theorem Laws.Enc.trap (x : CodeArgs) : Laws.Enc.Statement (.trap x) := Laws.Enc.of_parse rfl (fun _ => (parse_op 0x00A rfl).trans (code_raw _ x _))
theorem Laws.Enc.bkpt (x : CodeArgs) : Laws.Enc.Statement (.bkpt x) := Laws.Enc.of_parse rfl (fun _ => (parse_op 0x00B rfl).trans (code_raw _ x _))
theorem Laws.Enc.prog (x : ProgArgs) : Laws.Enc.Statement (.prog x) := Laws.Enc.of_parse rfl (fun _ => (parse_op 0x00C rfl).trans (prog_raw x))
theorem Laws.Enc.rtrap (x : PrivArgs) : Laws.Enc.Statement (.rtrap x) := Laws.Enc.of_parse rfl (fun _ => (parse_op 0x00D rfl).trans (priv_raw _ x _))
theorem Laws.Enc.lnch (x : PrivArgs) : Laws.Enc.Statement (.lnch x) := Laws.Enc.of_parse rfl (fun _ => (parse_op 0x00E rfl).trans (priv_raw _ x _))
theorem Laws.Enc.prem (x : PrivArgs) : Laws.Enc.Statement (.prem x) := Laws.Enc.of_parse rfl (fun _ => (parse_op 0x00F rfl).trans (priv_raw _ x _))
theorem Laws.Enc.iadd (x : VArgs) : Laws.Enc.Statement (.iadd x) := Laws.Enc.of_parse rfl (fun _ => (parse_op 0x100 rfl).trans (vec_raw _ x _))
theorem Laws.Enc.iaddI (x : VImm) : Laws.Enc.Statement (.iaddI x) := Laws.Enc.of_parse rfl (fun _ => (parse_op 0x180 rfl).trans (vecI_raw _ x _))
theorem Laws.Enc.isub (x : VArgs) : Laws.Enc.Statement (.isub x) := Laws.Enc.of_parse rfl (fun _ => (parse_op 0x101 rfl).trans (vec_raw _ x _))
theorem Laws.Enc.isubI (x : VImm) : Laws.Enc.Statement (.isubI x) := Laws.Enc.of_parse rfl (fun _ => (parse_op 0x181 rfl).trans (vecI_raw _ x _))
theorem Laws.Enc.imul (x : VArgs) : Laws.Enc.Statement (.imul x) := Laws.Enc.of_parse rfl (fun _ => (parse_op 0x102 rfl).trans (vec_raw _ x _))
theorem Laws.Enc.imulI (x : VImm) : Laws.Enc.Statement (.imulI x) := Laws.Enc.of_parse rfl (fun _ => (parse_op 0x182 rfl).trans (vecI_raw _ x _))
theorem Laws.Enc.imulh (x : VArgs) : Laws.Enc.Statement (.imulh x) := Laws.Enc.of_parse rfl (fun _ => (parse_op 0x103 rfl).trans (vec_raw _ x _))
theorem Laws.Enc.imad (x : VArgs) : Laws.Enc.Statement (.imad x) := Laws.Enc.of_parse rfl (fun _ => (parse_op 0x104 rfl).trans (vec_raw _ x _))
theorem Laws.Enc.imin (x : VArgs) : Laws.Enc.Statement (.imin x) := Laws.Enc.of_parse rfl (fun _ => (parse_op 0x105 rfl).trans (vec_raw _ x _))
theorem Laws.Enc.iminI (x : VImm) : Laws.Enc.Statement (.iminI x) := Laws.Enc.of_parse rfl (fun _ => (parse_op 0x185 rfl).trans (vecI_raw _ x _))
theorem Laws.Enc.imax (x : VArgs) : Laws.Enc.Statement (.imax x) := Laws.Enc.of_parse rfl (fun _ => (parse_op 0x106 rfl).trans (vec_raw _ x _))
theorem Laws.Enc.imaxI (x : VImm) : Laws.Enc.Statement (.imaxI x) := Laws.Enc.of_parse rfl (fun _ => (parse_op 0x186 rfl).trans (vecI_raw _ x _))
theorem Laws.Enc.iabs (x : VArgs) : Laws.Enc.Statement (.iabs x) := Laws.Enc.of_parse rfl (fun _ => (parse_op 0x107 rfl).trans (vec_raw _ x _))
theorem Laws.Enc.ineg (x : VArgs) : Laws.Enc.Statement (.ineg x) := Laws.Enc.of_parse rfl (fun _ => (parse_op 0x108 rfl).trans (vec_raw _ x _))
theorem Laws.Enc.isetp (x : VArgs) : Laws.Enc.Statement (.isetp x) := Laws.Enc.of_parse rfl (fun _ => (parse_op 0x109 rfl).trans (vec_raw _ x _))
theorem Laws.Enc.isetpI (x : VImm) : Laws.Enc.Statement (.isetpI x) := Laws.Enc.of_parse rfl (fun _ => (parse_op 0x189 rfl).trans (vecI_raw _ x _))
theorem Laws.Enc.lea (x : VArgs) : Laws.Enc.Statement (.lea x) := Laws.Enc.of_parse rfl (fun _ => (parse_op 0x10A rfl).trans (vec_raw _ x _))
theorem Laws.Enc.leaI (x : VImm) : Laws.Enc.Statement (.leaI x) := Laws.Enc.of_parse rfl (fun _ => (parse_op 0x18A rfl).trans (vecI_raw _ x _))
theorem Laws.Enc.and (x : VArgs) : Laws.Enc.Statement (.and x) := Laws.Enc.of_parse rfl (fun _ => (parse_op 0x200 rfl).trans (vec_raw _ x _))
theorem Laws.Enc.andI (x : VImm) : Laws.Enc.Statement (.andI x) := Laws.Enc.of_parse rfl (fun _ => (parse_op 0x280 rfl).trans (vecI_raw _ x _))
theorem Laws.Enc.or (x : VArgs) : Laws.Enc.Statement (.or x) := Laws.Enc.of_parse rfl (fun _ => (parse_op 0x201 rfl).trans (vec_raw _ x _))
theorem Laws.Enc.orI (x : VImm) : Laws.Enc.Statement (.orI x) := Laws.Enc.of_parse rfl (fun _ => (parse_op 0x281 rfl).trans (vecI_raw _ x _))
theorem Laws.Enc.xor (x : VArgs) : Laws.Enc.Statement (.xor x) := Laws.Enc.of_parse rfl (fun _ => (parse_op 0x202 rfl).trans (vec_raw _ x _))
theorem Laws.Enc.xorI (x : VImm) : Laws.Enc.Statement (.xorI x) := Laws.Enc.of_parse rfl (fun _ => (parse_op 0x282 rfl).trans (vecI_raw _ x _))
theorem Laws.Enc.not (x : VArgs) : Laws.Enc.Statement (.not x) := Laws.Enc.of_parse rfl (fun _ => (parse_op 0x203 rfl).trans (vec_raw _ x _))
theorem Laws.Enc.shl (x : VArgs) : Laws.Enc.Statement (.shl x) := Laws.Enc.of_parse rfl (fun _ => (parse_op 0x204 rfl).trans (vec_raw _ x _))
theorem Laws.Enc.shlI (x : VImm) : Laws.Enc.Statement (.shlI x) := Laws.Enc.of_parse rfl (fun _ => (parse_op 0x284 rfl).trans (vecI_raw _ x _))
theorem Laws.Enc.shr (x : VArgs) : Laws.Enc.Statement (.shr x) := Laws.Enc.of_parse rfl (fun _ => (parse_op 0x205 rfl).trans (vec_raw _ x _))
theorem Laws.Enc.shrI (x : VImm) : Laws.Enc.Statement (.shrI x) := Laws.Enc.of_parse rfl (fun _ => (parse_op 0x285 rfl).trans (vecI_raw _ x _))
theorem Laws.Enc.sar (x : VArgs) : Laws.Enc.Statement (.sar x) := Laws.Enc.of_parse rfl (fun _ => (parse_op 0x206 rfl).trans (vec_raw _ x _))
theorem Laws.Enc.sarI (x : VImm) : Laws.Enc.Statement (.sarI x) := Laws.Enc.of_parse rfl (fun _ => (parse_op 0x286 rfl).trans (vecI_raw _ x _))
theorem Laws.Enc.popc (x : VArgs) : Laws.Enc.Statement (.popc x) := Laws.Enc.of_parse rfl (fun _ => (parse_op 0x207 rfl).trans (vec_raw _ x _))
theorem Laws.Enc.clz (x : VArgs) : Laws.Enc.Statement (.clz x) := Laws.Enc.of_parse rfl (fun _ => (parse_op 0x208 rfl).trans (vec_raw _ x _))
theorem Laws.Enc.brev (x : VArgs) : Laws.Enc.Statement (.brev x) := Laws.Enc.of_parse rfl (fun _ => (parse_op 0x209 rfl).trans (vec_raw _ x _))
theorem Laws.Enc.bfx (x : VArgs) : Laws.Enc.Statement (.bfx x) := Laws.Enc.of_parse rfl (fun _ => (parse_op 0x20A rfl).trans (vec_raw _ x _))
theorem Laws.Enc.bfi (x : VArgs) : Laws.Enc.Statement (.bfi x) := Laws.Enc.of_parse rfl (fun _ => (parse_op 0x20B rfl).trans (vec_raw _ x _))
theorem Laws.Enc.sel (x : VArgs) : Laws.Enc.Statement (.sel x) := Laws.Enc.of_parse rfl (fun _ => (parse_op 0x20C rfl).trans (vec_raw _ x _))
theorem Laws.Enc.prmt (x : VArgs) : Laws.Enc.Statement (.prmt x) := Laws.Enc.of_parse rfl (fun _ => (parse_op 0x20D rfl).trans (vec_raw _ x _))
theorem Laws.Enc.fadd (x : VArgs) : Laws.Enc.Statement (.fadd x) := Laws.Enc.of_parse rfl (fun _ => (parse_op 0x300 rfl).trans (vec_raw _ x _))
theorem Laws.Enc.faddI (x : VImm) : Laws.Enc.Statement (.faddI x) := Laws.Enc.of_parse rfl (fun _ => (parse_op 0x380 rfl).trans (vecI_raw _ x _))
theorem Laws.Enc.fsub (x : VArgs) : Laws.Enc.Statement (.fsub x) := Laws.Enc.of_parse rfl (fun _ => (parse_op 0x301 rfl).trans (vec_raw _ x _))
theorem Laws.Enc.fmul (x : VArgs) : Laws.Enc.Statement (.fmul x) := Laws.Enc.of_parse rfl (fun _ => (parse_op 0x302 rfl).trans (vec_raw _ x _))
theorem Laws.Enc.fmulI (x : VImm) : Laws.Enc.Statement (.fmulI x) := Laws.Enc.of_parse rfl (fun _ => (parse_op 0x382 rfl).trans (vecI_raw _ x _))
theorem Laws.Enc.ffma (x : VArgs) : Laws.Enc.Statement (.ffma x) := Laws.Enc.of_parse rfl (fun _ => (parse_op 0x303 rfl).trans (vec_raw _ x _))
theorem Laws.Enc.ffmaI (x : VImm) : Laws.Enc.Statement (.ffmaI x) := Laws.Enc.of_parse rfl (fun _ => (parse_op 0x383 rfl).trans (vecI_raw _ x _))
theorem Laws.Enc.fmin (x : VArgs) : Laws.Enc.Statement (.fmin x) := Laws.Enc.of_parse rfl (fun _ => (parse_op 0x304 rfl).trans (vec_raw _ x _))
theorem Laws.Enc.fmax (x : VArgs) : Laws.Enc.Statement (.fmax x) := Laws.Enc.of_parse rfl (fun _ => (parse_op 0x305 rfl).trans (vec_raw _ x _))
theorem Laws.Enc.fsetp (x : VArgs) : Laws.Enc.Statement (.fsetp x) := Laws.Enc.of_parse rfl (fun _ => (parse_op 0x306 rfl).trans (vec_raw _ x _))
theorem Laws.Enc.fsetpI (x : VImm) : Laws.Enc.Statement (.fsetpI x) := Laws.Enc.of_parse rfl (fun _ => (parse_op 0x386 rfl).trans (vecI_raw _ x _))
theorem Laws.Enc.fclass (x : VArgs) : Laws.Enc.Statement (.fclass x) := Laws.Enc.of_parse rfl (fun _ => (parse_op 0x307 rfl).trans (vec_raw _ x _))
theorem Laws.Enc.fcvt (x : VArgs) : Laws.Enc.Statement (.fcvt x) := Laws.Enc.of_parse rfl (fun _ => (parse_op 0x400 rfl).trans (vec_raw _ x.swapAbs _))
theorem Laws.Enc.frnd (x : VArgs) : Laws.Enc.Statement (.frnd x) := Laws.Enc.of_parse rfl (fun _ => (parse_op 0x401 rfl).trans (vec_raw _ x _))
theorem Laws.Enc.fsqrt (x : VArgs) : Laws.Enc.Statement (.fsqrt x) := Laws.Enc.of_parse rfl (fun _ => (parse_op 0x402 rfl).trans (vec_raw _ x _))
theorem Laws.Enc.frcp (x : VArgs) : Laws.Enc.Statement (.frcp x) := Laws.Enc.of_parse rfl (fun _ => (parse_op 0x403 rfl).trans (vec_raw _ x _))
theorem Laws.Enc.frsq (x : VArgs) : Laws.Enc.Statement (.frsq x) := Laws.Enc.of_parse rfl (fun _ => (parse_op 0x404 rfl).trans (vec_raw _ x _))
theorem Laws.Enc.fexp2 (x : VArgs) : Laws.Enc.Statement (.fexp2 x) := Laws.Enc.of_parse rfl (fun _ => (parse_op 0x405 rfl).trans (vec_raw _ x _))
theorem Laws.Enc.flog2 (x : VArgs) : Laws.Enc.Statement (.flog2 x) := Laws.Enc.of_parse rfl (fun _ => (parse_op 0x406 rfl).trans (vec_raw _ x _))
theorem Laws.Enc.fsin (x : VArgs) : Laws.Enc.Statement (.fsin x) := Laws.Enc.of_parse rfl (fun _ => (parse_op 0x407 rfl).trans (vec_raw _ x _))
theorem Laws.Enc.fcos (x : VArgs) : Laws.Enc.Statement (.fcos x) := Laws.Enc.of_parse rfl (fun _ => (parse_op 0x408 rfl).trans (vec_raw _ x _))
theorem Laws.Enc.mov (x : VArgs) : Laws.Enc.Statement (.mov x) := Laws.Enc.of_parse rfl fun h => by
  have hb : (vargsRaw 0x500 x).m.getLsbD 23 = false := mov_bit x _ (VSpec.moveV_op8 h)
  have hp : parse (vargsRaw 0x500 x) = if (vargsRaw 0x500 x).m.getLsbD 23 then vec (vargsRaw 0x500 x) .movH else vec (vargsRaw 0x500 x) .mov := parse_op 0x500 rfl
  rw [hp, hb]
  exact vec_raw _ x _
theorem Laws.Enc.movH (x : VArgs) : Laws.Enc.Statement (.movH x) := Laws.Enc.of_parse rfl fun h => by
  have hb : (vargsRaw 0x500 x).m.getLsbD 23 = true := mov_bit x _ (VSpec.moveH_op8 h)
  have hp : parse (vargsRaw 0x500 x) = if (vargsRaw 0x500 x).m.getLsbD 23 then vec (vargsRaw 0x500 x) .movH else vec (vargsRaw 0x500 x) .mov := parse_op 0x500 rfl
  rw [hp, hb]
  exact vec_raw _ x _
theorem Laws.Enc.movi (x : VImm) : Laws.Enc.Statement (.movi x) := Laws.Enc.of_parse rfl (fun _ => (parse_op 0x580 rfl).trans (vecI_raw _ x _))
theorem Laws.Enc.movs (x : VArgs) : Laws.Enc.Statement (.movs x) := Laws.Enc.of_parse rfl (fun _ => (parse_op 0x501 rfl).trans (vec_raw _ x _))
theorem Laws.Enc.sget (x : VArgs) : Laws.Enc.Statement (.sget x) := Laws.Enc.of_parse rfl (fun _ => (parse_op 0x502 rfl).trans (vec_raw _ x _))
theorem Laws.Enc.shfl (x : VArgs) : Laws.Enc.Statement (.shfl x) := Laws.Enc.of_parse rfl (fun _ => (parse_op 0x503 rfl).trans (vec_raw _ x _))
theorem Laws.Enc.vote (x : VArgs) : Laws.Enc.Statement (.vote x) := Laws.Enc.of_parse rfl (fun _ => (parse_op 0x504 rfl).trans (vec_raw _ x _))
theorem Laws.Enc.redux (x : VArgs) : Laws.Enc.Statement (.redux x) := Laws.Enc.of_parse rfl (fun _ => (parse_op 0x505 rfl).trans (vec_raw _ x _))
theorem Laws.Enc.pset (x : VArgs) : Laws.Enc.Statement (.pset x) := Laws.Enc.of_parse rfl (fun _ => (parse_op 0x506 rfl).trans (vec_raw _ x _))
theorem Laws.Enc.plop (x : VArgs) : Laws.Enc.Statement (.plop x) := Laws.Enc.of_parse rfl (fun _ => (parse_op 0x507 rfl).trans (vec_raw _ x _))
theorem Laws.Enc.sadd (x : SclArgs) : Laws.Enc.Statement (.sadd x) := Laws.Enc.of_parse rfl (fun _ => (parse_op 0x600 rfl).trans (scl_raw _ x _))
theorem Laws.Enc.saddI (x : SclImm) : Laws.Enc.Statement (.saddI x) := Laws.Enc.of_parse rfl (fun _ => (parse_op 0x680 rfl).trans (sclI_raw _ x _))
theorem Laws.Enc.ssub (x : SclArgs) : Laws.Enc.Statement (.ssub x) := Laws.Enc.of_parse rfl (fun _ => (parse_op 0x601 rfl).trans (scl_raw _ x _))
theorem Laws.Enc.ssubI (x : SclImm) : Laws.Enc.Statement (.ssubI x) := Laws.Enc.of_parse rfl (fun _ => (parse_op 0x681 rfl).trans (sclI_raw _ x _))
theorem Laws.Enc.smul (x : SclArgs) : Laws.Enc.Statement (.smul x) := Laws.Enc.of_parse rfl (fun _ => (parse_op 0x602 rfl).trans (scl_raw _ x _))
theorem Laws.Enc.smulI (x : SclImm) : Laws.Enc.Statement (.smulI x) := Laws.Enc.of_parse rfl (fun _ => (parse_op 0x682 rfl).trans (sclI_raw _ x _))
theorem Laws.Enc.sand (x : SclArgs) : Laws.Enc.Statement (.sand x) := Laws.Enc.of_parse rfl (fun _ => (parse_op 0x603 rfl).trans (scl_raw _ x _))
theorem Laws.Enc.sandI (x : SclImm) : Laws.Enc.Statement (.sandI x) := Laws.Enc.of_parse rfl (fun _ => (parse_op 0x683 rfl).trans (sclI_raw _ x _))
theorem Laws.Enc.sor (x : SclArgs) : Laws.Enc.Statement (.sor x) := Laws.Enc.of_parse rfl (fun _ => (parse_op 0x604 rfl).trans (scl_raw _ x _))
theorem Laws.Enc.sorI (x : SclImm) : Laws.Enc.Statement (.sorI x) := Laws.Enc.of_parse rfl (fun _ => (parse_op 0x684 rfl).trans (sclI_raw _ x _))
theorem Laws.Enc.sxor (x : SclArgs) : Laws.Enc.Statement (.sxor x) := Laws.Enc.of_parse rfl (fun _ => (parse_op 0x605 rfl).trans (scl_raw _ x _))
theorem Laws.Enc.sxorI (x : SclImm) : Laws.Enc.Statement (.sxorI x) := Laws.Enc.of_parse rfl (fun _ => (parse_op 0x685 rfl).trans (sclI_raw _ x _))
theorem Laws.Enc.sshl (x : SclArgs) : Laws.Enc.Statement (.sshl x) := Laws.Enc.of_parse rfl (fun _ => (parse_op 0x606 rfl).trans (scl_raw _ x _))
theorem Laws.Enc.sshlI (x : SclImm) : Laws.Enc.Statement (.sshlI x) := Laws.Enc.of_parse rfl (fun _ => (parse_op 0x686 rfl).trans (sclI_raw _ x _))
theorem Laws.Enc.sshr (x : SclArgs) : Laws.Enc.Statement (.sshr x) := Laws.Enc.of_parse rfl (fun _ => (parse_op 0x607 rfl).trans (scl_raw _ x _))
theorem Laws.Enc.sshrI (x : SclImm) : Laws.Enc.Statement (.sshrI x) := Laws.Enc.of_parse rfl (fun _ => (parse_op 0x687 rfl).trans (sclI_raw _ x _))
theorem Laws.Enc.smov (x : SclArgs) : Laws.Enc.Statement (.smov x) := Laws.Enc.of_parse rfl (fun _ => (parse_op 0x608 rfl).trans (scl_raw _ x _))
theorem Laws.Enc.smovi (x : SclImm) : Laws.Enc.Statement (.smovi x) := Laws.Enc.of_parse rfl (fun _ => (parse_op 0x688 rfl).trans (sclI_raw _ x _))
theorem Laws.Enc.ssetp (x : SclArgs) : Laws.Enc.Statement (.ssetp x) := Laws.Enc.of_parse rfl (fun _ => (parse_op 0x609 rfl).trans (scl_raw _ x _))
theorem Laws.Enc.srd (x : SprArgs) : Laws.Enc.Statement (.srd x) := Laws.Enc.of_parse rfl (fun _ => (parse_op 0x60A rfl).trans (srd_raw x))
theorem Laws.Enc.swr (x : SprArgs) : Laws.Enc.Statement (.swr x) := Laws.Enc.of_parse rfl (fun _ => (parse_op 0x60B rfl).trans (swr_raw x))
theorem Laws.Enc.clk (x : SprArgs) : Laws.Enc.Statement (.clk x) := Laws.Enc.of_parse rfl (fun h => (parse_op 0x60C rfl).trans (clk_raw x (clk_num h)))
theorem Laws.Enc.ld (x : MemArgs) : Laws.Enc.Statement (.ld x) := Laws.Enc.of_parse rfl (fun h => (parse_op 0x700 rfl).trans (mem_raw _ x false true _ (MemArgs.ldOk_c h) rfl))
theorem Laws.Enc.st (x : MemArgs) : Laws.Enc.Statement (.st x) := Laws.Enc.of_parse rfl (fun h => (parse_op 0x701 rfl).trans (mem_raw _ x true false _ rfl (MemArgs.stOk_d h)))
theorem Laws.Enc.ldaq (x : AcqArgs) : Laws.Enc.Statement (.ldaq x) := Laws.Enc.of_parse rfl (fun h => (parse_op 0x702 rfl).trans (acq_raw _ x false true _ (AcqArgs.ldaqOk_c h) rfl))
theorem Laws.Enc.strl (x : AcqArgs) : Laws.Enc.Statement (.strl x) := Laws.Enc.of_parse rfl (fun h => (parse_op 0x703 rfl).trans (acq_raw _ x true false _ rfl (AcqArgs.strlOk_d h)))
theorem Laws.Enc.ldln (x : MemArgs) : Laws.Enc.Statement (.ldln x) := Laws.Enc.of_parse rfl (fun h => (parse_op 0x704 rfl).trans (mem_raw _ x false true _ (MemArgs.ldlnOk_c h) rfl))
theorem Laws.Enc.stln (x : MemArgs) : Laws.Enc.Statement (.stln x) := Laws.Enc.of_parse rfl (fun h => (parse_op 0x705 rfl).trans (mem_raw _ x true false _ rfl (MemArgs.stlnOk_d h)))
theorem Laws.Enc.pref (x : MemArgs) : Laws.Enc.Statement (.pref x) := Laws.Enc.of_parse rfl (fun h => (parse_op 0x706 rfl).trans (mem_raw _ x false false _ (MemArgs.prefOk_c h) (MemArgs.prefOk_d h)))
theorem Laws.Enc.sld (x : MemArgs) : Laws.Enc.Statement (.sld x) := Laws.Enc.of_parse rfl (fun h => (parse_op 0x707 rfl).trans (mem_raw _ x false true _ (MemArgs.sldOk_c h) rfl))
theorem Laws.Enc.sst (x : MemArgs) : Laws.Enc.Statement (.sst x) := Laws.Enc.of_parse rfl (fun h => (parse_op 0x708 rfl).trans (mem_raw _ x true false _ rfl (MemArgs.sstOk_d h)))
theorem Laws.Enc.fence (x : FenceArgs) : Laws.Enc.Statement (.fence x) := Laws.Enc.of_parse rfl (fun _ => (parse_op 0x709 rfl).trans (fence_raw x))
theorem Laws.Enc.waitc (x : WaitArgs) : Laws.Enc.Statement (.waitc x) := Laws.Enc.of_parse rfl (fun _ => (parse_op 0x70A rfl).trans (waitc_raw x))
theorem Laws.Enc.aadd (x : AtomArgs) : Laws.Enc.Statement (.aadd x) := Laws.Enc.of_parse rfl (fun h => (parse_op 0x800 rfl).trans (atom_raw _ x false _ (AtomArgs.intOk_c h)))
theorem Laws.Enc.amin (x : AtomArgs) : Laws.Enc.Statement (.amin x) := Laws.Enc.of_parse rfl (fun h => (parse_op 0x801 rfl).trans (atom_raw _ x false _ (AtomArgs.intOk_c h)))
theorem Laws.Enc.amax (x : AtomArgs) : Laws.Enc.Statement (.amax x) := Laws.Enc.of_parse rfl (fun h => (parse_op 0x802 rfl).trans (atom_raw _ x false _ (AtomArgs.intOk_c h)))
theorem Laws.Enc.aand (x : AtomArgs) : Laws.Enc.Statement (.aand x) := Laws.Enc.of_parse rfl (fun h => (parse_op 0x803 rfl).trans (atom_raw _ x false _ (AtomArgs.intOk_c h)))
theorem Laws.Enc.aor (x : AtomArgs) : Laws.Enc.Statement (.aor x) := Laws.Enc.of_parse rfl (fun h => (parse_op 0x804 rfl).trans (atom_raw _ x false _ (AtomArgs.intOk_c h)))
theorem Laws.Enc.axor (x : AtomArgs) : Laws.Enc.Statement (.axor x) := Laws.Enc.of_parse rfl (fun h => (parse_op 0x805 rfl).trans (atom_raw _ x false _ (AtomArgs.intOk_c h)))
theorem Laws.Enc.axch (x : AtomArgs) : Laws.Enc.Statement (.axch x) := Laws.Enc.of_parse rfl (fun h => (parse_op 0x806 rfl).trans (atom_raw _ x false _ (AtomArgs.xchOk_c h)))
theorem Laws.Enc.acas (x : AtomArgs) : Laws.Enc.Statement (.acas x) := Laws.Enc.of_parse rfl (fun h => (parse_op 0x807 rfl).trans (atom_raw _ x true _ rfl))
theorem Laws.Enc.afadd (x : AtomArgs) : Laws.Enc.Statement (.afadd x) := Laws.Enc.of_parse rfl (fun h => (parse_op 0x808 rfl).trans (atom_raw _ x false _ (AtomArgs.fltOk_c h)))
theorem Laws.Enc.afmin (x : AtomArgs) : Laws.Enc.Statement (.afmin x) := Laws.Enc.of_parse rfl (fun h => (parse_op 0x809 rfl).trans (atom_raw _ x false _ (AtomArgs.fltOk_c h)))
theorem Laws.Enc.afmax (x : AtomArgs) : Laws.Enc.Statement (.afmax x) := Laws.Enc.of_parse rfl (fun h => (parse_op 0x80A rfl).trans (atom_raw _ x false _ (AtomArgs.fltOk_c h)))
theorem Laws.Enc.bar (x : IdArgs) : Laws.Enc.Statement (.bar x) := Laws.Enc.of_parse rfl (fun _ => (parse_op 0x900 rfl).trans (id_raw _ x _))
theorem Laws.Enc.bara (x : IdArgs) : Laws.Enc.Statement (.bara x) := Laws.Enc.of_parse rfl (fun _ => (parse_op 0x901 rfl).trans (id_raw _ x _))
theorem Laws.Enc.barw (x : IdArgs) : Laws.Enc.Statement (.barw x) := Laws.Enc.of_parse rfl (fun _ => (parse_op 0x902 rfl).trans (id_raw _ x _))
theorem Laws.Enc.cbar (x : IdArgs) : Laws.Enc.Statement (.cbar x) := Laws.Enc.of_parse rfl (fun _ => (parse_op 0x903 rfl).trans (id_raw _ x _))
theorem Laws.Enc.ordw (x : IdArgs) : Laws.Enc.Statement (.ordw x) := Laws.Enc.of_parse rfl (fun _ => (parse_op 0x904 rfl).trans (id_raw _ x _))
theorem Laws.Enc.ords (x : IdArgs) : Laws.Enc.Statement (.ords x) := Laws.Enc.of_parse rfl (fun _ => (parse_op 0x905 rfl).trans (id_raw _ x _))
theorem Laws.Enc.grow (x : GrowArgs) : Laws.Enc.Statement (.grow x) := Laws.Enc.of_parse rfl (fun _ => (parse_op 0x906 rfl).trans (grow_raw x))
theorem Laws.Enc.qpush (x : QpushArgs) : Laws.Enc.Statement (.qpush x) := Laws.Enc.of_parse rfl (fun _ => (parse_op 0x907 rfl).trans (qpush_raw x))
theorem Laws.Enc.cpy (x : CpyArgs) : Laws.Enc.Statement (.cpy x) := Laws.Enc.of_parse rfl (fun _ => (parse_op 0xA00 rfl).trans (cpy_raw _ x _))
theorem Laws.Enc.cpyh (x : CpyArgs) : Laws.Enc.Statement (.cpyh x) := Laws.Enc.of_parse rfl (fun _ => (parse_op 0xA01 rfl).trans (cpy_raw _ x _))
theorem Laws.Enc.htst (x : HandArgs) : Laws.Enc.Statement (.htst x) := Laws.Enc.of_parse rfl (fun _ => (parse_op 0xA02 rfl).trans (hand_raw _ x _))
theorem Laws.Enc.hcan (x : HandArgs) : Laws.Enc.Statement (.hcan x) := Laws.Enc.of_parse rfl (fun _ => (parse_op 0xA03 rfl).trans (hand_raw _ x _))
theorem Laws.Enc.hmov (x : HandArgs) : Laws.Enc.Statement (.hmov x) := Laws.Enc.of_parse rfl (fun _ => (parse_op 0xA04 rfl).trans (hand_raw _ x _))
theorem Laws.Enc.kpackA (x : KpackArgs) : Laws.Enc.Statement (.kpackA x) := Laws.Enc.of_parse rfl (fun _ => (parse_op 0xB00 rfl).trans (kpackA_raw x))
theorem Laws.Enc.kpackB (x : KpackArgs) : Laws.Enc.Statement (.kpackB x) := Laws.Enc.of_parse rfl (fun _ => (parse_op 0xB00 rfl).trans (kpackB_raw x))
theorem Laws.Enc.kpass (x : KpassArgs) : Laws.Enc.Statement (.kpass x) := Laws.Enc.of_parse rfl (fun _ => (parse_op 0xB01 rfl).trans (kpass_raw x))
theorem Laws.Enc.kwin (x : KpassArgs) : Laws.Enc.Statement (.kwin x) := Laws.Enc.of_parse rfl (fun h => (parse_op 0xB02 rfl).trans (kwin_raw x (kwin_conv h)))
theorem Laws.Enc.kext (x : KextArgs) : Laws.Enc.Statement (.kext x) := Laws.Enc.of_parse rfl (fun _ => (parse_op 0xB03 rfl).trans (kext_raw x))
theorem Laws.Enc.kstab (x : KstabArgs) : Laws.Enc.Statement (.kstab x) := Laws.Enc.of_parse rfl (fun _ => (parse_op 0xB04 rfl).trans (kstab_raw x))
theorem Laws.Enc.fsend (x : FsendArgs) : Laws.Enc.Statement (.fsend x) := Laws.Enc.of_parse rfl (fun _ => (parse_op 0xC00 rfl).trans (fsend_raw x))
theorem Laws.Enc.ffence (x : FfenceArgs) : Laws.Enc.Statement (.ffence x) := Laws.Enc.of_parse rfl (fun _ => (parse_op 0xC01 rfl).trans (ffence_raw x))
theorem Laws.Enc.fsync (x : FsyncArgs) : Laws.Enc.Statement (.fsync x) := Laws.Enc.of_parse rfl (fun _ => (parse_op 0xC02 rfl).trans (fsync_raw x))
theorem Laws.Enc.pmig (x : PmigArgs) : Laws.Enc.Statement (.pmig x) := Laws.Enc.of_parse rfl (fun _ => (parse_op 0xC03 rfl).trans (pmig_raw x))
theorem Laws.Enc.lineFetch (core asid va : Nat) (glitch : BitVec 512) : Laws.Enc.Statement (.lineFetch core asid va glitch) := Laws.Enc.of_event rfl rfl
theorem Laws.Enc.barstall (team b : Nat) (clus : Bool) : Laws.Enc.Statement (.barstall team b clus) := Laws.Enc.of_event rfl rfl
theorem Laws.Enc.frontierRetire (grid team : Nat) : Laws.Enc.Statement (.frontierRetire grid team) := Laws.Enc.of_event rfl rfl
theorem Laws.Enc.trapTaken (gk cause sub : Nat) (mask : LaneMask) (pc : DWord) (detail : Nat) (addr : DWord) : Laws.Enc.Statement (.trapTaken gk cause sub mask pc detail addr) := Laws.Enc.of_event rfl rfl
theorem Laws.Enc.loadReturn (entry : Nat) : Laws.Enc.Statement (.loadReturn entry) := Laws.Enc.of_event rfl rfl
theorem Laws.Enc.storePerformed (entry lane : Nat) : Laws.Enc.Statement (.storePerformed entry lane) := Laws.Enc.of_event rfl rfl
theorem Laws.Enc.homeRead (core pa : Nat) (row1 : Bool) : Laws.Enc.Statement (.homeRead core pa row1) := Laws.Enc.of_event rfl rfl
theorem Laws.Enc.homeAtomic (entry lane : Nat) : Laws.Enc.Statement (.homeAtomic entry lane) := Laws.Enc.of_event rfl rfl
theorem Laws.Enc.atomicResponse (entry : Nat) : Laws.Enc.Statement (.atomicResponse entry) := Laws.Enc.of_event rfl rfl
theorem Laws.Enc.sliceEvictWait (slice line : Nat) : Laws.Enc.Statement (.sliceEvictWait slice line) := Laws.Enc.of_event rfl rfl
theorem Laws.Enc.operandLogReplay (entry : Nat) : Laws.Enc.Statement (.operandLogReplay entry) := Laws.Enc.of_event rfl rfl
theorem Laws.Enc.faultService (core asid va : Nat) : Laws.Enc.Statement (.faultService core asid va) := Laws.Enc.of_event rfl rfl
theorem Laws.Enc.tableWalk (core asid va : Nat) : Laws.Enc.Statement (.tableWalk core asid va) := Laws.Enc.of_event rfl rfl
theorem Laws.Enc.invalidate (asid lo hi : Nat) : Laws.Enc.Statement (.invalidate asid lo hi) := Laws.Enc.of_event rfl rfl
theorem Laws.Enc.frameEvict (asid va pa : Nat) (peer : Option Nat) (payload : Nat) : Laws.Enc.Statement (.frameEvict asid va pa peer payload) := Laws.Enc.of_event rfl rfl
theorem Laws.Enc.copyLineWrite (op line : Nat) : Laws.Enc.Statement (.copyLineWrite op line) := Laws.Enc.of_event rfl rfl
theorem Laws.Enc.copyComplete (op : Nat) : Laws.Enc.Statement (.copyComplete op) := Laws.Enc.of_event rfl rfl
theorem Laws.Enc.ownerCacheQuery (asid vpn : Nat) (answer : Option (Nat × Nat)) : Laws.Enc.Statement (.ownerCacheQuery asid vpn answer) := Laws.Enc.of_event rfl rfl
theorem Laws.Enc.redirect (asid vpn owner gen : Nat) : Laws.Enc.Statement (.redirect asid vpn owner gen) := Laws.Enc.of_event rfl rfl
theorem Laws.Enc.pendingDrain (asid vpn : Nat) : Laws.Enc.Statement (.pendingDrain asid vpn) := Laws.Enc.of_event rfl rfl
theorem Laws.Enc.stubRelay (p : Pkt) : Laws.Enc.Statement (.stubRelay p) := Laws.Enc.of_event rfl rfl
theorem Laws.Enc.stale (asid vpn : Nat) : Laws.Enc.Statement (.stale asid vpn) := Laws.Enc.of_event rfl rfl
theorem Laws.Enc.migrateGrant (asid vpn : Nat) : Laws.Enc.Statement (.migrateGrant asid vpn) := Laws.Enc.of_event rfl rfl
theorem Laws.Enc.migrateCopy (asid vpn line : Nat) : Laws.Enc.Statement (.migrateCopy asid vpn line) := Laws.Enc.of_event rfl rfl
theorem Laws.Enc.switchover (asid vpn : Nat) : Laws.Enc.Statement (.switchover asid vpn) := Laws.Enc.of_event rfl rfl
theorem Laws.Enc.install (asid vpn : Nat) : Laws.Enc.Statement (.install asid vpn) := Laws.Enc.of_event rfl rfl
theorem Laws.Enc.done (asid vpn : Nat) : Laws.Enc.Statement (.done asid vpn) := Laws.Enc.of_event rfl rfl
theorem Laws.Enc.repoint (asid vpn : Nat) (dest : Nat × Nat) : Laws.Enc.Statement (.repoint asid vpn dest) := Laws.Enc.of_event rfl rfl
theorem Laws.Enc.abort (asid vpn : Nat) : Laws.Enc.Statement (.abort asid vpn) := Laws.Enc.of_event rfl rfl
theorem Laws.Enc.reclaim (asid vpn : Nat) : Laws.Enc.Statement (.reclaim asid vpn) := Laws.Enc.of_event rfl rfl
theorem Laws.Enc.reclaimOk (asid vpn : Nat) : Laws.Enc.Statement (.reclaimOk asid vpn) := Laws.Enc.of_event rfl rfl
theorem Laws.Enc.remoteAccess (p : Pkt) : Laws.Enc.Statement (.remoteAccess p) := Laws.Enc.of_event rfl rfl
theorem Laws.Enc.nackRetry (acc : Nat) : Laws.Enc.Statement (.nackRetry acc) := Laws.Enc.of_event rfl rfl
theorem Laws.Enc.transportReceive (p : Pkt) : Laws.Enc.Statement (.transportReceive p) := Laws.Enc.of_event rfl rfl
theorem Laws.Enc.transportAck (peer cls seq : Nat) : Laws.Enc.Statement (.transportAck peer cls seq) := Laws.Enc.of_event rfl rfl
theorem Laws.Enc.retransmit (peer cls seq : Nat) : Laws.Enc.Statement (.retransmit peer cls seq) := Laws.Enc.of_event rfl rfl
theorem Laws.Enc.slothdr (fibre : Nat) (h : Option SlotHdr) : Laws.Enc.Statement (.slothdr fibre h) := Laws.Enc.of_event rfl rfl
theorem Laws.Enc.flitReceive (fibre : Nat) (f : Flit) : Laws.Enc.Statement (.flitReceive fibre f) := Laws.Enc.of_event rfl rfl
theorem Laws.Enc.linkctl (fibre seq : Nat) : Laws.Enc.Statement (.linkctl fibre seq) := Laws.Enc.of_event rfl rfl
theorem Laws.Enc.relayForward (p : Pkt) : Laws.Enc.Statement (.relayForward p) := Laws.Enc.of_event rfl rfl
theorem Laws.Enc.poison (fibre : Nat) : Laws.Enc.Statement (.poison fibre) := Laws.Enc.of_event rfl rfl
theorem Laws.Enc.parkWake (fibre : Nat) (wake : Bool) : Laws.Enc.Statement (.parkWake fibre wake) := Laws.Enc.of_event rfl rfl
theorem Laws.Enc.ringTune (port w : Nat) (up : Bool) : Laws.Enc.Statement (.ringTune port w up) := Laws.Enc.of_event rfl rfl
theorem Laws.Enc.rekey (key : Nat × Nat) (peer : List Byte × List Byte) : Laws.Enc.Statement (.rekey key peer) := Laws.Enc.of_event rfl rfl
theorem Laws.Enc.keystop (peer fibre : Nat) : Laws.Enc.Statement (.keystop peer fibre) := Laws.Enc.of_event rfl rfl
theorem Laws.Enc.linkTraining (n slotNs epoch : Nat) (phases : List Nat) (ends : List Bool × List (List Byte × List Byte)) : Laws.Enc.Statement (.linkTraining n slotNs epoch phases ends) := Laws.Enc.of_event rfl rfl
theorem Laws.Enc.healthWrite (port w : Nat) : Laws.Enc.Statement (.healthWrite port w) := Laws.Enc.of_event rfl rfl
theorem Laws.Enc.flowBlockSend (flow block slot : Nat) : Laws.Enc.Statement (.flowBlockSend flow block slot) := Laws.Enc.of_event rfl rfl
theorem Laws.Enc.flowBlockReceive (p : Pkt) : Laws.Enc.Statement (.flowBlockReceive p) := Laws.Enc.of_event rfl rfl
theorem Laws.Enc.flowAck (flow block slot gen : Nat) : Laws.Enc.Statement (.flowAck flow block slot gen) := Laws.Enc.of_event rfl rfl
theorem Laws.Enc.resyncRequest (flow block slot : Nat) : Laws.Enc.Statement (.resyncRequest flow block slot) := Laws.Enc.of_event rfl rfl
theorem Laws.Enc.flowTimeout (flow block : Nat) : Laws.Enc.Statement (.flowTimeout flow block) := Laws.Enc.of_event rfl rfl
theorem Laws.Enc.multicastAck (flow block slot gen : Nat) : Laws.Enc.Statement (.multicastAck flow block slot gen) := Laws.Enc.of_event rfl rfl
theorem Laws.Enc.kick (q : Nat) (w : DWord) : Laws.Enc.Statement (.kick q w) := Laws.Enc.of_event rfl rfl
theorem Laws.Enc.abortQueue (q : Nat) : Laws.Enc.Statement (.abortQueue q) := Laws.Enc.of_event rfl rfl
theorem Laws.Enc.suspend (q : Nat) (on : Bool) : Laws.Enc.Statement (.suspend q on) := Laws.Enc.of_event rfl rfl
theorem Laws.Enc.packetClaim (core q : Nat) : Laws.Enc.Statement (.packetClaim core q) := Laws.Enc.of_event rfl rfl
theorem Laws.Enc.launch (q seq : Nat) (body : List Byte) : Laws.Enc.Statement (.launch q seq body) := Laws.Enc.of_event rfl rfl
theorem Laws.Enc.wait (q seq : Nat) (body : List Byte) : Laws.Enc.Statement (.wait q seq body) := Laws.Enc.of_event rfl rfl
theorem Laws.Enc.set (q seq : Nat) (body : List Byte) : Laws.Enc.Statement (.set q seq body) := Laws.Enc.of_event rfl rfl
theorem Laws.Enc.migrate (q seq : Nat) (body : List Byte) : Laws.Enc.Statement (.migrate q seq body) := Laws.Enc.of_event rfl rfl
theorem Laws.Enc.flow (q seq : Nat) (body : List Byte) : Laws.Enc.Statement (.flow q seq body) := Laws.Enc.of_event rfl rfl
theorem Laws.Enc.packetComplete (q seq status errSeq : Nat) : Laws.Enc.Statement (.packetComplete q seq status errSeq) := Laws.Enc.of_event rfl rfl
theorem Laws.Enc.teamTicket (core grid : Nat) : Laws.Enc.Statement (.teamTicket core grid) := Laws.Enc.of_event rfl rfl
theorem Laws.Enc.clusterReserve (core grid : Nat) : Laws.Enc.Statement (.clusterReserve core grid) := Laws.Enc.of_event rfl rfl
theorem Laws.Enc.clusterRetry (core grid : Nat) : Laws.Enc.Statement (.clusterRetry core grid) := Laws.Enc.of_event rfl rfl
theorem Laws.Enc.spillMove (grid : Nat) : Laws.Enc.Statement (.spillMove grid) := Laws.Enc.of_event rfl rfl
theorem Laws.Enc.teamRetire (team : Nat) : Laws.Enc.Statement (.teamRetire team) := Laws.Enc.of_event rfl rfl
theorem Laws.Enc.preemptionRequest (core : Nat) : Laws.Enc.Statement (.preemptionRequest core) := Laws.Enc.of_event rfl rfl
theorem Laws.Enc.contextSwitch (team : Nat) : Laws.Enc.Statement (.contextSwitch team) := Laws.Enc.of_event rfl rfl
theorem Laws.Enc.recordComplete (rec : Nat) : Laws.Enc.Statement (.recordComplete rec) := Laws.Enc.of_event rfl rfl
theorem Laws.Enc.resume (core rec : Nat) : Laws.Enc.Statement (.resume core rec) := Laws.Enc.of_event rfl rfl
theorem Laws.Enc.kilnEligible (req : Nat) : Laws.Enc.Statement (.kilnEligible req) := Laws.Enc.of_event rfl rfl
theorem Laws.Enc.kilnFire (chamber : Nat) : Laws.Enc.Statement (.kilnFire chamber) := Laws.Enc.of_event rfl rfl
theorem Laws.Enc.kilnOutput (req lane : Nat) : Laws.Enc.Statement (.kilnOutput req lane) := Laws.Enc.of_event rfl rfl
theorem Laws.Enc.boot (header body signature : List Byte) (windows : List (Nat × Nat)) : Laws.Enc.Statement (.boot header body signature windows) := Laws.Enc.of_event rfl rfl
theorem Laws.Enc.warmStart (spared : List (Nat × Nat)) : Laws.Enc.Statement (.warmStart spared) := Laws.Enc.of_event rfl rfl
theorem Laws.Enc.backgroundZero (pa : Nat) : Laws.Enc.Statement (.backgroundZero pa) := Laws.Enc.of_event rfl rfl
theorem Laws.Enc.powerClamp (die watts junction : Nat) : Laws.Enc.Statement (.powerClamp die watts junction) := Laws.Enc.of_event rfl rfl
theorem Laws.Enc.cxlMemAccess (pa : Nat) (data : Option (List Byte)) : Laws.Enc.Statement (.cxlMemAccess pa data) := Laws.Enc.of_event rfl rfl
theorem Laws.Enc.kernelBoundary (grid : Nat) : Laws.Enc.Statement (.kernelBoundary grid) := Laws.Enc.of_event rfl rfl
theorem Laws.Enc.geyserEnable (v : DWord) : Laws.Enc.Statement (.geyserEnable v) := Laws.Enc.of_event rfl rfl
theorem Laws.Enc.trialEnable (v : DWord) : Laws.Enc.Statement (.trialEnable v) := Laws.Enc.of_event rfl rfl
theorem Laws.Enc.replayEnable (v : DWord) : Laws.Enc.Statement (.replayEnable v) := Laws.Enc.of_event rfl rfl
theorem Laws.Enc.checkpoint (grid : Nat) : Laws.Enc.Statement (.checkpoint grid) := Laws.Enc.of_event rfl rfl
theorem Laws.Enc.journalEntry (asid va pa : Nat) : Laws.Enc.Statement (.journalEntry asid va pa) := Laws.Enc.of_event rfl rfl
theorem Laws.Enc.registerWrite (blk : RegBlock) (off : Nat) (v : DWord) (agent : Bool) : Laws.Enc.Statement (.registerWrite blk off v agent) := Laws.Enc.of_event rfl rfl
theorem Laws.Enc.queueCreate (q : Nat) (desc : List Byte) : Laws.Enc.Statement (.queueCreate q desc) := Laws.Enc.of_event rfl rfl
theorem Laws.Enc.spdmRequest (r : SpdmReq) (arg : Nat) : Laws.Enc.Statement (.spdmRequest r arg) := Laws.Enc.of_event rfl rfl
theorem Laws.Enc.ffenceFlagStore (op : Nat) : Laws.Enc.Statement (.ffenceFlagStore op) := Laws.Enc.of_event rfl rfl
theorem Laws.Enc.pageRetire (pa : Nat) : Laws.Enc.Statement (.pageRetire pa) := Laws.Enc.of_event rfl rfl
theorem Laws.Enc.groupSelect : Laws.Enc.Statement (.groupSelect) := Laws.Enc.of_event rfl rfl
theorem Laws.Enc.yieldExpiry : Laws.Enc.Statement (.yieldExpiry) := Laws.Enc.of_event rfl rfl
theorem Laws.Enc.spinSwap : Laws.Enc.Statement (.spinSwap) := Laws.Enc.of_event rfl rfl
theorem Laws.Enc.sweeperStep : Laws.Enc.Statement (.sweeperStep) := Laws.Enc.of_event rfl rfl
theorem Laws.Enc.ownerCacheExpiry : Laws.Enc.Statement (.ownerCacheExpiry) := Laws.Enc.of_event rfl rfl
theorem Laws.Enc.keepWaiting : Laws.Enc.Statement (.keepWaiting) := Laws.Enc.of_event rfl rfl
theorem Laws.Enc.responseTimeout : Laws.Enc.Statement (.responseTimeout) := Laws.Enc.of_event rfl rfl
theorem Laws.Enc.slotBoundary : Laws.Enc.Statement (.slotBoundary) := Laws.Enc.of_event rfl rfl
theorem Laws.Enc.slotEnd : Laws.Enc.Statement (.slotEnd) := Laws.Enc.of_event rfl rfl
theorem Laws.Enc.reassemblyTimeout : Laws.Enc.Statement (.reassemblyTimeout) := Laws.Enc.of_event rfl rfl
theorem Laws.Enc.waitRecheck : Laws.Enc.Statement (.waitRecheck) := Laws.Enc.of_event rfl rfl
theorem Laws.Enc.coreHalted : Laws.Enc.Statement (.coreHalted) := Laws.Enc.of_event rfl rfl
theorem Laws.Enc.watchdog : Laws.Enc.Statement (.watchdog) := Laws.Enc.of_event rfl rfl
theorem Laws.Enc.coldStart : Laws.Enc.Statement (.coldStart) := Laws.Enc.of_event rfl rfl
theorem Laws.Enc.geyserSample : Laws.Enc.Statement (.geyserSample) := Laws.Enc.of_event rfl rfl
theorem Laws.Enc.trialQuantum : Laws.Enc.Statement (.trialQuantum) := Laws.Enc.of_event rfl rfl
theorem Laws.Enc.stop : Laws.Enc.Statement (.stop) := Laws.Enc.of_event rfl rfl

end Sys2Proof
end

