-- ==== Sys2Proof/Laws/Vector.lean ====
section
/-! SUPPORT. Everything that `vecOp` can do when it goes through (R51 to R53, R57, R62 to R66, R89). -/

namespace Sys2Proof.Machine

/-- An aside before a slot's end counts with it. -/
theorem State.Aside.beside {s t u : State} (h : s.Aside t) (k : t.Beside u) : s.Beside u := by
  refine ⟨?_, by rw [k.cur, h.cur], fun j hj => ?_, fun j => (k.teams j).trans (h.teams j), fun j => (k.cores j).trans (h.cores j), k.obs.trans h.obs, ?_⟩
  · have hk := k.rest
    have hh := h.rest
    rw [hh] at hk
    exact hk
  · rw [k.groups j (by rw [h.cur]; exact hj), h.groups j hj]
  · rw [k.logs, h.logs]

/-- What a slot makes beyond undoing concerns the operand log alone. -/
theorem State.Aside.outdoes {s t : State} (h : s.Aside t) (k : DKind) (d : Dst) (m : LaneMask) (f : DWord) :
    (s.outdoes k d m f).Aside (t.outdoes k d m f) := by
  refine ⟨?_, h.groups, h.teams, h.cores, h.obs, ?_⟩
  · exact congrArg (fun u : State => { u with logs := (t.outdoes k d m f).logs }) h.rest
  · show List.map _ t.logs = List.map _ s.logs
    rw [h.logs, h.cur]

/-- Register r of a lane whose destination takes x. -/
def dstV (k : DKind) (d : Dst) (x : DWord) (r : Nat) (old : Word) : Word :=
  match d with
  | .nw => old
  | .reg n => match k with
    | .word => if r = n.toNat then x.setWidth 32 else old
    | .pair => if r = n.toNat + 1 then x.extractLsb' 32 32 else if r = n.toNat then x.extractLsb' 0 32 else old
    | .pred => old
/-- Predicate r of a lane whose destination takes x. -/
def dstP (k : DKind) (d : Dst) (x : DWord) (r : Nat) (old : Bool) : Bool :=
  match d with
  | .nw => old
  | .reg n => if k = .pred ∧ r = n.toNat ∧ n.toNat < 15 then x.getLsbD 0 else old

theorem Group.rdV_wrDst (g : Group) (k : DKind) (d : Dst) (x : DWord) (r i j : Nat) (hi : i < 32) (hj : j < 32) :
    (g.wrDst k d i x).rdV r j = if i = j then dstV k d x r (g.rdV r j) else g.rdV r j := by
  have key (n : Nat) : (32 * n + i = 32 * r + j) ↔ (i = j ∧ r = n) := by omega
  cases d with
  | nw => simp [Group.wrDst, dstV]
  | reg n =>
    cases k with
    | word =>
      simp only [Group.wrDst, dstV, Group.rdV_wrV, key]
      by_cases h1 : i = j <;> by_cases h2 : r = n.toNat <;> simp [h1, h2]
    | pair =>
      simp only [Group.wrDst, dstV, Group.wrPair, Group.rdV_wrV, key]
      by_cases h1 : i = j <;> by_cases h2 : r = n.toNat <;> by_cases h3 : r = n.toNat + 1 <;> simp [h1, h2, h3]
    | pred =>
      have : (g.wrP n.toNat i (x.getLsbD 0)).rdV r j = g.rdV r j := by unfold Group.rdV; rw [Group.wrP_v]
      simp only [Group.wrDst, dstV, this, ite_self]

theorem Group.rdP_wrDst (g : Group) (k : DKind) (d : Dst) (x : DWord) (r i j : Nat) :
    (g.wrDst k d i x).rdP r j = if i = j then dstP k d x r (g.rdP r j) else g.rdP r j := by
  cases d with
  | nw => simp [Group.wrDst, dstP]
  | reg n =>
    cases k with
    | word => simp [Group.wrDst, dstP, Group.rdP]
    | pair => simp [Group.wrDst, dstP, Group.rdP]
    | pred =>
      simp only [Group.wrDst, dstP, Group.rdP_wrP]
      by_cases h1 : i = j <;> by_cases h2 : r = n.toNat <;> by_cases h3 : n.toNat < 15 <;> simp [h1, h2, h3]

theorem Group.wrDst_eq (g : Group) (k : DKind) (d : Dst) (i : Nat) (x : DWord) :
    g.wrDst k d i x = { g with v := (g.wrDst k d i x).v, p := (g.wrDst k d i x).p } := by
  cases d with
  | nw => rfl
  | reg n =>
    cases k with
    | word => rfl
    | pair => rfl
    | pred => unfold Group.wrDst Group.wrP; dsimp only; split <;> rfl

/-- The registers after a vector-class result is written. -/
def State.wrote (s : State) (x : VForm) (f : Nat → LaneOut) : Group :=
  s.g.each s.cur.mask fun g i => if (s.trueLanes x.guard).getLsbD i then g.wrDst x.kind x.dst i (f i).1 else g

theorem State.wrote_eq (s : State) (x : VForm) (f : Nat → LaneOut) : s.wrote x f = { s.g with v := (s.wrote x f).v, p := (s.wrote x f).p } := by
  have h := Group.each_keeps (fun g => { g with v := [], p := [] }) s.cur.mask
    (fun g i => if (s.trueLanes x.guard).getLsbD i then g.wrDst x.kind x.dst i (f i).1 else g)
    (fun g i => by
      split_ifs
      · exact congrArg (fun k : Group => { k with v := [], p := [] }) (Group.wrDst_eq g _ _ _ _)
      · rfl) s.g
  exact congrArg (fun k : Group => { k with v := (s.wrote x f).v, p := (s.wrote x f).p }) h

theorem State.wrote_rdV (s : State) (x : VForm) (f : Nat → LaneOut) (r j : Nat) (hj : j < 32) :
    (s.wrote x f).rdV r j = if (s.active x.guard).getLsbD j then dstV x.kind x.dst (f j).1 r (s.g.rdV r j) else s.g.rdV r j := by
  have h := Group.each_lane32 (fun g j => g.rdV r j) s.cur.mask
    (fun g i => if (s.trueLanes x.guard).getLsbD i then g.wrDst x.kind x.dst i (f i).1 else g)
    (fun i old => if (s.trueLanes x.guard).getLsbD i then dstV x.kind x.dst (f i).1 r old else old)
    (fun g i j hi hj => by
      by_cases ht : (s.trueLanes x.guard).getLsbD i
      · simp only [ht, if_true]
        rw [Group.rdV_wrDst _ _ _ _ _ _ _ hi hj]
        by_cases h : i = j
        · subst h; simp
        · simp [h]
      · simp only [ht, Bool.false_eq_true, if_false]
        by_cases h : i = j
        · subst h; simp
        · simp [h]) s.g j hj
  unfold State.wrote
  rw [h]
  simp only [State.active, BitVec.getLsbD_and]
  by_cases h1 : s.cur.mask.getLsbD j <;> by_cases h2 : (s.trueLanes x.guard).getLsbD j <;> simp [h1, h2]

theorem State.wrote_rdP (s : State) (x : VForm) (f : Nat → LaneOut) (r j : Nat) :
    (s.wrote x f).rdP r j = if (s.active x.guard).getLsbD j then dstP x.kind x.dst (f j).1 r (s.g.rdP r j) else s.g.rdP r j := by
  have h := Group.each_lane (fun g j => g.rdP r j) s.cur.mask
    (fun g i => if (s.trueLanes x.guard).getLsbD i then g.wrDst x.kind x.dst i (f i).1 else g)
    (fun i old => if (s.trueLanes x.guard).getLsbD i then dstP x.kind x.dst (f i).1 r old else old)
    (fun g i j => by
      by_cases ht : (s.trueLanes x.guard).getLsbD i
      · simp only [ht, if_true]
        rw [Group.rdP_wrDst]
        by_cases h : i = j
        · subst h; simp
        · simp [h]
      · simp only [ht, Bool.false_eq_true, if_false]
        by_cases h : i = j
        · subst h; simp
        · simp [h]) s.g j
  unfold State.wrote
  rw [h]
  simp only [State.active, BitVec.getLsbD_and]
  by_cases h1 : s.cur.mask.getLsbD j <;> by_cases h2 : (s.trueLanes x.guard).getLsbD j <;> simp [h1, h2]

/-- Flags join in the lanes' order, zeros of other lanes apart. -/
theorem or_active (m t : LaneMask) (f : Nat → DWord) (a : DWord) :
    (lanesOf m).foldl (fun x i => x ||| if t.getLsbD i then f i else 0) a = (lanesOf (m &&& t)).foldl (fun x i => x ||| f i) a := by
  rw [lanesOf_and]
  induction lanesOf m generalizing a with
  | nil => rfl
  | cons i l ih =>
    rw [List.foldl_cons, ih, List.filter_cons]
    split_ifs with h
    · rfl
    · simp

theorem or_from (l : List Nat) (f : Nat → DWord) (a : DWord) : l.foldl (fun x i => x ||| f i) a = a ||| l.foldl (fun x i => x ||| f i) 0 := by
  induction l generalizing a with
  | nil => simp
  | cons i l ih =>
    rw [List.foldl_cons, List.foldl_cons, ih, ih (0 ||| f i)]
    rw [show (0 : DWord) ||| f i = f i from BitVec.zero_or, BitVec.or_assoc]

/-- The flags of a slot's results. -/
def State.newFlags (s : State) (x : VForm) (f : Nat → LaneOut) : DWord := (lanesOf (s.active x.guard)).foldl (fun a i => a ||| (f i).2) 0

/-- Flags that a chain still holds. -/
def heldFlags (c : Option Chain) : DWord := match c with | some c => c.flags | none => 0

/-- A slot's flags join STATUS or its chain. -/
theorem chainAfter_flags (before : Option Chain) (cont start : Bool) (first : DWord) (uv : List (Nat × Word)) (up : List (Nat × BitVec 16)) (fl : DWord) :
    (State.chainAfter before cont start first uv up fl).2 ||| heldFlags (State.chainAfter before cont start first uv up fl).1 =
      (if cont then heldFlags before else 0) ||| fl := by
  unfold State.chainAfter
  cases cont with
  | true =>
    cases before with
    | none => simp [heldFlags]
    | some c =>
      simp only [if_true, Option.map_some]
      split_ifs <;> simp [heldFlags]
  | false => cases start <;> simp [heldFlags]

theorem tabGet_foldl_set (k : DKind) (l : List (Nat × LaneOut)) (t : Tab DWord) (j : Nat) (h : j ∉ l.map (·.1)) :
    tabGet 0 (l.foldl (fun t e => tabSet 0 t e.1 (State.latched k e.2.1)) t) j = tabGet 0 t j := by
  induction l generalizing t with
  | nil => rfl
  | cons e l ih =>
    simp only [List.map_cons, List.mem_cons, not_or] at h
    rw [List.foldl_cons, ih _ h.2, tabGet_set, if_neg (fun e => h.1 e.symm)]

theorem tabGet_foldl_in (k : DKind) (l : List (Nat × LaneOut)) (t : Tab DWord) (e : Nat × LaneOut) (hn : (l.map (·.1)).Nodup) (h : e ∈ l) :
    tabGet 0 (l.foldl (fun t e => tabSet 0 t e.1 (State.latched k e.2.1)) t) e.1 = State.latched k e.2.1 := by
  induction l generalizing t with
  | nil => simp at h
  | cons a l ih =>
    simp only [List.map_cons, List.nodup_cons] at hn
    rw [List.foldl_cons]
    rcases List.mem_cons.1 h with rfl | h
    · rw [tabGet_foldl_set _ _ _ _ hn.1, tabGet_set, if_pos rfl]
    · exact ih _ hn.2 h

theorem tabGet_moved (t : Tab DWord) (j : Nat) (h : j < 96) : tabGet 0 ((t.filter fun e => e.1 < 96).map fun e => (e.1 + 32, e.2)) (j + 32) = tabGet 0 t j := by
  induction t with
  | nil => rfl
  | cons e t ih =>
    rw [List.filter_cons]
    split_ifs with he
    · simp only [List.map_cons, tabGet, ih]
      by_cases hj : e.1 = j <;> simp [hj]
    · rw [ih]
      simp only [decide_eq_true_eq] at he
      simp only [tabGet]
      rw [if_neg (by omega)]

/-- l0 takes the results and the older latches move on (R63). -/
theorem shifted_latch (s : State) (x : Guard) (d : DKind) (r : Ring) (f : Nat → LaneOut) :
    (∀ i, s.cur.mask.getLsbD i → tabGet 0 (State.shifted d r (s.laneOuts x f)).vals i = if (s.active x).getLsbD i then State.latched d (f i).1 else 0) ∧
    ∀ k i, k < 3 → i < 32 → tabGet 0 (State.shifted d r (s.laneOuts x f)).vals (32 * (k + 1) + i) = tabGet 0 r.vals (32 * k + i) := by
  have hkeys : (s.laneOuts x f).map (·.1) = lanesOf s.cur.mask := by
    unfold State.laneOuts
    rw [List.map_map]
    exact List.map_id _
  unfold State.shifted
  refine ⟨fun i hi => ?_, fun k i hk hi => ?_⟩
  · have hm : (i, if (s.trueLanes x).getLsbD i then f i else (0, 0)) ∈ s.laneOuts x f := by
      unfold State.laneOuts
      exact List.mem_map.2 ⟨i, mem_lanesOf.2 hi, rfl⟩
    have := tabGet_foldl_in d (s.laneOuts x f) (((r.vals.filter fun e => e.1 < 96).map fun e => (e.1 + 32, e.2))) _ (by rw [hkeys]; exact lanesOf_nodup _) hm
    dsimp only at this ⊢
    rw [this]
    unfold State.active
    rw [BitVec.getLsbD_and, hi, Bool.true_and]
    split_ifs
    · rfl
    · cases d <;> rfl
  · dsimp only
    rw [tabGet_foldl_set _ _ _ _ (by rw [hkeys]; intro h; have := lt_of_mem_lanesOf h; omega), show 32 * (k + 1) + i = 32 * k + i + 32 by omega]
    exact tabGet_moved _ _ (by omega)

theorem State.flags_laneOuts (s : State) (x : VForm) (f : Nat → LaneOut) :
    (s.laneOuts x.guard f).foldl (fun a e => a ||| e.2.2) 0 = s.newFlags x f := by
  unfold State.laneOuts State.newFlags State.active
  rw [List.foldl_map, ← or_active]
  congr 1
  funext a i
  split_ifs <;> rfl

/-- What a vector-class write leaves: registers, a ring whose chain and STATUS together hold the flags. -/
theorem State.writeVec_eq (s : State) (x : VForm) (cont : Bool) (f : Nat → LaneOut) :
    ∃ (r : Ring) (now : DWord), r.mask = s.cur.mask ∧ r.vals = (State.shifted x.kind (s.g.ringOf s.cur.mask) (s.laneOuts x.guard f)).vals ∧
      s.writeVec x.guard x.kind x.dst x.member cont f = s.setGrp s.cur.gk { (s.wrote x f).setRing r with status := s.g.status ||| now } ∧
      now ||| heldFlags r.chain = (if cont then heldFlags (s.g.openChain s.cur.mask) else 0) ||| s.newFlags x f := by
  have hout : (s.laneOuts x.guard f).foldl (fun g e => if (s.trueLanes x.guard).getLsbD e.1 then g.wrDst x.kind x.dst e.1 e.2.1 else g) s.g = s.wrote x f := by
    unfold State.laneOuts State.wrote Group.each
    rw [List.foldl_map]
    congr 1
    funext g i
    split_ifs <;> rfl
  have hfl := s.flags_laneOuts x f
  have hst : (s.wrote x f).status = s.g.status := by rw [s.wrote_eq]
  unfold State.writeVec
  simp only [hout, hfl]
  generalize he : State.chainAfter _ _ _ _ _ _ _ = e
  refine ⟨{ State.shifted x.kind (s.g.ringOf s.cur.mask) (s.laneOuts x.guard f) with chain := e.1 }, e.2, Group.ringOf_mask _ _, rfl, ?_, ?_⟩
  · simp only [Group.setRing, hst]
  · rw [← he]
    exact chainAfter_flags ..

/-- A VECTOR-CLASS SLOT THAT GOES THROUGH (R53, R62 to R66): `vecOp` answers a next state, which holds everything that `VDone` says. -/
theorem State.vecOp_done (s : State) (x : VForm) (f : State → Nat → LaneOut) (h : s.VReady x) :
    ∃ t, s.vecOp x.guard x.kind x.dst x.vr x.sr x.latches x.member f = .next t ∧
      s.VDone t x (f (if s.continues x.member x.latches then s else s.endChain)) := by
  obtain ⟨⟨hp, hr⟩, hl⟩ := h
  have hcont : ∀ s0 : State, (s0 = if s.continues x.member x.latches then s else s.endChain) → s.Aside s0 := by
    rintro s0 rfl
    split_ifs
    · exact .refl s
    · rw [State.endChain_eq]; exact .setGrp s _
  generalize hs0 : (if s.continues x.member x.latches then s else s.endChain) = s0
  have ha := hcont s0 hs0.symm
  have hcur := ha.cur
  -- the group before the results are written, and its flags
  have hg0 : s0.g = { s.g with rings := s0.g.rings, status := s0.g.status } ∧
      s0.g.status ||| (if s.continues x.member x.latches then heldFlags (s0.g.openChain s0.cur.mask) else 0) = s.flags := by
    subst hs0
    split_ifs with hc
    · refine ⟨rfl, ?_⟩
      have hopen : (s.g.openChain s.cur.mask).isSome = true := by
        simp only [State.continues, Bool.and_eq_true] at hc
        exact hc.2
      unfold State.flags
      unfold Group.openChain at hopen ⊢
      cases hch : (s.g.ringOf s.cur.mask).chain with
      | none => rw [hch] at hopen; simp at hopen
      | some c =>
        rw [Group.commitChain_some hch]
        rw [hch] at hopen
        by_cases hm : c.members < 16
        · simp [Option.filter, hm, heldFlags]
        · simp [Option.filter, hm] at hopen
    · have hg : s.endChain.g = s.g.commitChain s.cur.mask := by rw [State.endChain_eq, State.g_setGrp]
      rw [hg]
      refine ⟨Group.commitChain_eq _ _, ?_⟩
      simp [State.flags]
  obtain ⟨hg0, hfl0⟩ := hg0
  -- guards are read as before
  have htrue : s0.trueLanes x.guard = s.trueLanes x.guard := by
    unfold State.trueLanes
    rw [hcur]
    have : ∀ n i, s0.g.rdP n i = s.g.rdP n i := fun n i => by rw [hg0]; rfl
    simp only [this]
  have hact : s0.active x.guard = s.active x.guard := by unfold State.active; rw [htrue, hcur]
  obtain ⟨r, now, hmask, hvals, hw, hflags⟩ := s0.writeVec_eq x (s.continues x.member x.latches) (f s0)
  set s1 := s0.writeVec x.guard x.kind x.dst x.member (s.continues x.member x.latches) (f s0) with hs1
  have ha1 : s0.Aside s1 := by rw [hw]; exact .setGrp s0 _
  have ha2 : s.Aside s1 := ha.trans ha1
  have hcur1 : s1.cur = s.cur := ha2.cur
  have hg1 : s1.g = { (s0.wrote x (f s0)).setRing r with status := s0.g.status ||| now } := by rw [hw, State.g_setGrp]
  have hout : s.outdone x (f s0) = s.outdoes x.kind x.dst (s0.trueLanes x.guard) (s0.newFlags x (f s0)) := by
    unfold State.outdone State.newFlags
    rw [htrue, hact]
  set s2 := s1.outdoes x.kind x.dst (s0.trueLanes x.guard) (s0.newFlags x (f s0)) with hs2
  have ha3 : (s.outdone x (f s0)).Aside s2 := by rw [hout]; exact ha2.outdoes _ _ _ _
  have hg2 : s2.g = s1.g := rfl
  have hcur2 : s2.cur = s.cur := hcur1
  obtain ⟨hb, hadv, hgt⟩ := s2.advance_finish false
  rw [hcur2] at hb hadv hgt
  rw [hg2] at hgt
  refine ⟨(s2.advance s.cur.mask).finish false, ?_, ?_⟩
  · unfold State.vecOp
    simp only [hp, hr, hl, hs0, Bool.false_eq_true, if_false, State.flags_laneOuts]
    rfl
  set t := (s2.advance s.cur.mask).finish false with ht
  have hwv : s0.wrote x (f s0) = { s.g with v := (s0.wrote x (f s0)).v, p := (s0.wrote x (f s0)).p, rings := s0.g.rings, status := s0.g.status } := by
    conv_lhs => rw [s0.wrote_eq, hg0]
  have hrings : t.g.rings = ((s0.wrote x (f s0)).setRing r).rings := by rw [hgt, hg1]
  have hstat : t.g.status = s0.g.status ||| now := by rw [hgt, hg1]
  have hv : ∀ k i, t.g.rdV k i = (s0.wrote x (f s0)).rdV k i := fun k i => by
    unfold Group.rdV
    rw [hgt, hg1]
    rfl
  have hpd : ∀ k i, t.g.rdP k i = (s0.wrote x (f s0)).rdP k i := fun k i => by
    unfold Group.rdP
    rw [hgt, hg1]
    rfl
  have hr1 : t.g.ringOf s.cur.mask = r := by
    have : t.g.ringOf s.cur.mask = ((s0.wrote x (f s0)).setRing r).ringOf r.mask := by
      rw [hmask, hcur]
      unfold Group.ringOf
      rw [hrings]
    rw [this, Group.ringOf_setRing]
  have hold : ∀ k i, tabGet 0 (s0.g.ringOf s0.cur.mask).vals (32 * k + i) = s.g.rdLatch s.cur.mask k i := by
    intro k i
    rw [hcur]
    subst hs0
    split_ifs
    · rfl
    · have hg : s.endChain.g = s.g.commitChain s.cur.mask := by rw [State.endChain_eq, State.g_setGrp]
      rw [hg]
      exact Group.rdLatch_commitChain _ _ _ _
  obtain ⟨hl0, hl1⟩ := shifted_latch s0 x.guard x.kind (s0.g.ringOf s0.cur.mask) (f s0)
  rw [← hvals, hact, hcur] at hl0
  rw [← hvals] at hl1
  refine ⟨ha3.beside hb, ?_, ?_, ?_, ?_, ?_, fun i hi => ?_, fun k i hk hi => ?_, ?_⟩
  · obtain ⟨h1, h2⟩ := hadv
    have hpc : ∀ i, s1.g.pcOf i = s.g.pcOf i := fun i => by
      unfold Group.pcOf
      rw [hg1, hwv]
      rfl
    have hret : ∀ i, s1.g.retiredOf i = s.g.retiredOf i := fun i => by
      unfold Group.retiredOf
      rw [hg1, hwv]
      rfl
    refine ⟨fun i => ?_, fun i => ?_⟩
    · rw [h1 i, hcur2, hg2, hpc]
    · rw [h2 i, hcur2, hg2, hret]
  · intro i hi
    have h32 : i < 32 := by
      by_contra hge
      rw [BitVec.getLsbD_of_ge _ i (by omega)] at hi
      exact absurd hi (by simp)
    have hv' : ∀ k, t.g.rdV k i = dstV x.kind x.dst (f s0 i).1 k (s0.g.rdV k i) := fun k => by
      rw [hv, s0.wrote_rdV x (f s0) k i h32, hact, if_pos hi]
    have hp' : ∀ k, t.g.rdP k i = dstP x.kind x.dst (f s0 i).1 k (s0.g.rdP k i) := fun k => by
      rw [hpd, s0.wrote_rdP x (f s0) k i, hact, if_pos hi]
    unfold Group.holds
    cases hd : x.dst with
    | nw => trivial
    | reg n =>
      rw [hd] at hv' hp'
      cases hk : x.kind with
      | word => dsimp only; rw [hv', hk]; simp [dstV]
      | pair =>
        dsimp only
        unfold Group.rdPair
        rw [hv', hv', hk]
        simp only [dstV, if_true]
        rw [if_neg (by omega)]
        apply BitVec.eq_of_getLsbD_eq
        intro b hb
        simp only [BitVec.getLsbD_append, BitVec.getLsbD_extractLsb']
        split_ifs <;> rw [decide_eq_true (by omega), Bool.true_and] <;> congr 1 <;> omega
      | pred =>
        dsimp only
        intro hn
        rw [hp', hk]
        simp [dstP, hn]
  · intro k i hi hno
    rw [hv, s0.wrote_rdV x (f s0) k i hi, hact]
    have hold : s0.g.rdV k i = s.g.rdV k i := by rw [hg0]; rfl
    by_cases ha : (s.active x.guard).getLsbD i
    · rw [if_pos ha]
      have hnn : ¬ x.namesV k := fun h => hno ⟨h, ha⟩
      unfold VForm.namesV at hnn
      unfold dstV
      cases hd : x.dst with
      | nw => exact hold
      | reg n =>
        rw [hd] at hnn
        cases hk : x.kind with
        | word => rw [hk] at hnn; dsimp only at hnn ⊢; rw [if_neg hnn, hold]
        | pair => rw [hk] at hnn; dsimp only at hnn ⊢; rw [if_neg (fun h => hnn (.inr h)), if_neg (fun h => hnn (.inl h)), hold]
        | pred => exact hold
    · rw [if_neg ha, hold]
  · intro k i hno
    rw [hpd, s0.wrote_rdP x (f s0) k i, hact]
    have hold : s0.g.rdP k i = s.g.rdP k i := by rw [hg0]; rfl
    by_cases ha : (s.active x.guard).getLsbD i
    · rw [if_pos ha]
      have hnn : ¬ x.namesP k := fun h => hno ⟨h, ha⟩
      unfold VForm.namesP at hnn
      unfold dstP
      cases hd : x.dst with
      | nw => exact hold
      | reg n =>
        rw [hd] at hnn
        dsimp only at hnn ⊢
        rw [if_neg (fun h => hnn ⟨h.1, h.2.1, by omega⟩), hold]
    · rw [if_neg ha, hold]
  · have hy : s1.g.yieldMark = s.g.yieldMark := by rw [hg1, hwv]; rfl
    have e1 : t.g = { s1.g with pc := t.g.pc, yieldMark := s1.g.yieldMark, retired := t.g.retired } := by
      conv_lhs => rw [hgt]
      simp
    have e2 : t.g = { s.g with v := (s0.wrote x (f s0)).v, p := (s0.wrote x (f s0)).p, pc := t.g.pc,
                               rings := ((s0.wrote x (f s0)).setRing r).rings, status := s0.g.status ||| now, retired := t.g.retired } := by
      conv_lhs => rw [e1, hg1, hwv]
      conv_rhs => rw [hwv]
      rfl
    rw [e2]
  · unfold Group.rdLatch
    rw [hr1, Nat.mul_zero, Nat.zero_add]
    exact hl0 i hi
  · rw [← hold k i, Group.rdLatch, hr1]
    exact hl1 k i hk hi
  · have hcurt : t.cur.mask = s.cur.mask := by
      have := hb.cur
      rw [this, hcur2]
    have e : t.flags = (s0.g.status ||| now) ||| heldFlags r.chain := by
      unfold State.flags
      rw [hcurt]
      cases hc : r.chain with
      | none => rw [Group.commitChain_none (by rw [hr1, hc]), hstat]; simp [heldFlags]
      | some c => rw [Group.commitChain_some (by rw [hr1, hc])]; simp only [hstat, heldFlags]
    rw [e, BitVec.or_assoc, hflags, ← BitVec.or_assoc, hfl0]
    unfold State.newFlags
    rw [hact, ← or_from]

end Sys2Proof.Machine
end

