-- ==== Sys2Proof/Laws/Simple.lean ====
section
/-! SUPPORT. Slots without a destination in the vector file: `enter`, `sclOp`, and reading a source after a chain has ended. -/

namespace Sys2Proof.Machine

/-- A slot whose registers are free goes on, its chain ended (R64, R96). -/
theorem State.enter_ok (s : State) (vr sr : List Run) (k : State → Out) (h : s.Ready vr sr) : s.enter vr sr k = k s.endChain := by
  unfold State.enter
  rw [h.1, h.2]
  rfl

theorem State.endChain_g (s : State) : s.endChain.g = s.g.commitChain s.cur.mask := by rw [State.endChain_eq, State.g_setGrp]

theorem State.endChain_aside (s : State) : s.Aside s.endChain := by rw [State.endChain_eq]; exact .setGrp s _

theorem State.endChain_cur (s : State) : s.endChain.cur = s.cur := s.endChain_aside.cur

/-- Guards read as before. -/
theorem State.trueLanes_endChain (s : State) (x : Guard) : s.endChain.trueLanes x = s.trueLanes x := by
  unfold State.trueLanes
  rw [State.endChain_cur]
  have : ∀ n i, s.endChain.g.rdP n i = s.g.rdP n i := fun n i => by rw [State.endChain_g, Group.commitChain_eq]; rfl
  simp only [this]

/-- A change of the issuing group that leaves program counters and retired counts, then the end of the slot. -/
theorem State.done_of (s : State) (b : Bool) (change : Group → Group) (hpc : ∀ g, (change g).pc = g.pc) (hret : ∀ g, (change g).retired = g.retired) :
    s.Done (((s.endChain.setGrp s.cur.gk (change (s.g.commitChain s.cur.mask))).advance s.cur.mask).finish b) change := by
  set s1 := s.endChain.setGrp s.cur.gk (change (s.g.commitChain s.cur.mask)) with hs1
  have ha : s.Aside s1 := by
    refine s.endChain_aside.trans ?_
    have := State.Aside.setGrp s.endChain (change (s.g.commitChain s.cur.mask))
    rwa [State.endChain_cur] at this
  have hcur : s1.cur = s.cur := ha.cur
  have hg : s1.g = change (s.g.commitChain s.cur.mask) := by
    have := State.g_setGrp s.endChain (change (s.g.commitChain s.cur.mask))
    rwa [State.endChain_cur] at this
  obtain ⟨hb, ⟨h1, h2⟩, hgt⟩ := s1.advance_finish b
  rw [hcur] at hb h1 h2 hgt
  refine ⟨ha.beside hb, ⟨fun i => ?_, fun i => ?_⟩, ?_⟩
  · rw [h1 i]
    congr 1
    show tabGet 0 s1.g.pc i = tabGet 0 s.g.pc i
    rw [hg, hpc, Group.commitChain_eq]
  · rw [h2 i]
    congr 1
    show tabGet 0 s1.g.retired i = tabGet 0 s.g.retired i
    rw [hg, hret, Group.commitChain_eq]
  · have hy : ((s1.advance s.cur.mask).finish b).g.yieldMark = (s1.g.yieldMark && !b) := by rw [hgt]
    rw [hy, ← hg]
    exact hgt

/-- A scalar-class slot that goes through (R53): one change of the group, made when some lane's guard is true. -/
theorem State.sclOp_done (s : State) (x : Guard) (sr : List Run) (f : State → State) (change : Group → Group) (h : s.Ready [] sr)
    (hf : f s.endChain = s.endChain.setGrp s.cur.gk (change (s.g.commitChain s.cur.mask)))
    (hpc : ∀ g, (change g).pc = g.pc) (hret : ∀ g, (change g).retired = g.retired) :
    ∃ t, s.sclOp x sr f = .next t ∧ s.Done t (if s.trueLanes x = 0 then id else change) := by
  refine ⟨_, by unfold State.sclOp; rw [s.enter_ok _ _ _ h], ?_⟩
  split_ifs with h0
  · have := s.done_of false id (fun _ => rfl) (fun _ => rfl)
    have e : s.endChain.setGrp s.cur.gk (id (s.g.commitChain s.cur.mask)) = s.endChain := by
      rw [id, State.endChain_eq]
      unfold State.setGrp
      dsimp only
      congr 1
      exact tabPut_twice ..
    rwa [e] at this
  · rw [hf]
    exact s.done_of false change hpc hret

/-- A vector source reads as before a chain's end. -/
theorem State.rdSrc_endChain (s : State) (w : Bool) (x : Src) (i : Nat) : s.endChain.rdSrc w x i = s.rdSrc w x i := by
  cases x with
  | reg n =>
    unfold State.rdSrc Group.rdPair Group.rdV
    rw [State.endChain_g, Group.commitChain_eq]
  | latch k =>
    unfold State.rdSrc
    dsimp only
    rw [State.endChain_g, State.endChain_cur, Group.rdLatch_commitChain]

/-- Whatever a chain's end leaves alone, a vector-class slot reads as it stood. -/
theorem State.rdSrc_before (s : State) (m : Bool) (l : List Nat) (w : Bool) (x : Src) (i : Nat) :
    (if s.continues m l then s else s.endChain).rdSrc w x i = s.rdSrc w x i := by
  split_ifs
  · rfl
  · exact s.rdSrc_endChain w x i

/-- `vecOp` with results that do not depend on the chain's end. -/
theorem State.vecOp_out (s : State) (x : VForm) (f : State → Nat → LaneOut) (h : s.VReady x) (hf : ∀ i, f s.endChain i = f s i) :
    ∃ t, s.vecOp x.guard x.kind x.dst x.vr x.sr x.latches x.member f = .next t ∧ s.VDone t x (f s) := by
  have := s.vecOp_done x f h
  have e : f (if s.continues x.member x.latches then s else s.endChain) = f s := by
    split_ifs
    · rfl
    · exact funext hf
  rwa [e] at this

end Sys2Proof.Machine
end

