-- ==== Sys2Proof/Tests/Slice0.lean ====
section
/-! SUPPORT. Tests: words written out from the spec's encodings, ill-formed terms that the checks refuse, single steps whose results the spec gives, and for each statement a state and operands that meet its hypotheses. -/

namespace Sys2Proof.Machine
open Sys2Proof
set_option Elab.async false

/-- A slot from its seven fields at their places (R50): op [11:0], guard [16:12], D [28:17], A [40:29], B [52:41], C [64:53], M [95:65]. -/
def word (op g d a b c m : Nat) : SlotWord :=
  BitVec.ofNat 96 (op + 2 ^ 12 * g + 2 ^ 17 * d + 2 ^ 29 * a + 2 ^ 41 * b + 2 ^ 53 * c + 2 ^ 65 * m)

/-- The guard pt, which is always true. -/
def pt : Guard := ⟨false, 15⟩
/-- Vector operands: D v2, A v4, B v6, C v8, of a type, with all else zero. -/
def vx (ty : Ty) : VArgs := ⟨pt, .reg 2, .reg 4, .reg 6, .reg 8, ty, .rne, false, false, false, false, false, .eq, 0⟩
/-- An I-form: D v2, A v4, immediate. -/
def vi (ty : Ty) (imm : Word) : VImm := ⟨pt, .reg 2, .reg 4, imm, ty, .rne, false, false, false, false, false, .eq, 0⟩
/-- A memory access: D v4, A v2, no scalar, 32 bits of one register, byte offset 16. -/
def mx : MemArgs := ⟨pt, 4, 2, 0, 0, false, 0, 2, 16⟩
def ax : AtomArgs := ⟨pt, 4, 2, 6, 0, false, false, .dev, .z32, 16⟩

/- Decoding. Each word is written out from the layouts of R50 to R61 and the opcodes of R67. -/

theorem test_decode_control :
    (∀ e ∈ ([(0x000, .nop), (0x005, .exit), (0x007, .rjoin), (0x009, .yield)] : List (Nat × (G0Args → Instr))), decodeSlot (word e.1 0x13 0 0 0 0 0) = .ok (e.2 ⟨⟨true, 3⟩⟩)) ∧
    -- an offset of -1 lines fills bits [72:41] with ones, and M[75:73] holds the slot
    (∀ e ∈ ([(0x001, .bra), (0x006, .rcv)] : List (Nat × (BraArgs → Instr))), decodeSlot (word e.1 15 0 0 0xFFF 0xFFF 0x4FF) = .ok (e.2 ⟨pt, 0, 4, 0xFFFFFFFF, 0⟩)) ∧
    decodeSlot (word 0x003 15 6 0 2 0 0x100) = .ok (.call ⟨pt, 6, 1, 2, 0⟩) ∧
    decodeSlot (word 0x008 15 0 0 2 0 0x1A00) = .ok (.brk ⟨pt, 0, 2, 2, 3⟩) ∧
    (∀ e ∈ ([(0x002, .brx), (0x004, .ret)] : List (Nat × (JmpArgs → Instr))), decodeSlot (word e.1 15 0 6 0 0 0) = .ok (e.2 ⟨pt, 6⟩)) ∧
    (∀ e ∈ ([(0x00A, .trap), (0x00B, .bkpt)] : List (Nat × (CodeArgs → Instr))), decodeSlot (word e.1 15 0 0 0x234 1 0) = .ok (e.2 ⟨pt, 0x1234⟩)) ∧
    decodeSlot (word 0x00C 15 0 0 9 0 0) = .ok (.prog ⟨pt, 9⟩) ∧
    ∀ e ∈ ([(0x00D, .rtrap), (0x00E, .lnch), (0x00F, .prem)] : List (Nat × (PrivArgs → Instr))), decodeSlot (word e.1 15 0 7 8 0 0) = .ok (e.2 ⟨pt, 7, 8⟩) := by decide +kernel

theorem test_decode_integer :
    (∀ e ∈ ([(0x100, .iadd), (0x101, .isub), (0x102, .imul), (0x103, .imulh), (0x105, .imin), (0x106, .imax)] : List (Nat × (VArgs → Instr))),
      decodeSlot (word e.1 15 2 4 6 0 0x200) = .ok (e.2 { vx .s32 with c := .reg 0 })) ∧
    decodeSlot (word 0x104 15 2 4 6 8 0x0700) = .ok (.imad (vx .z64)) ∧
    -- saturating, with both negations and both absolute values
    decodeSlot (word 0x100 15 2 4 6 0 0x7C200) = .ok (.iadd { vx .s32 with c := .reg 0, sat := true, negA := true, negB := true, absA := true, absB := true }) ∧
    (∀ e ∈ ([(0x107, .iabs), (0x108, .ineg)] : List (Nat × (VArgs → Instr))), decodeSlot (word e.1 15 0x800 0x803 0 0 0x4200) =
      .ok (e.2 { vx .s32 with d := .nw, a := .latch 3, b := .reg 0, c := .reg 0, sat := true })) ∧
    decodeSlot (word 0x109 15 5 4 6 0 0x280200) = .ok (.isetp { vx .s32 with d := .reg 5, c := .reg 0, cmp := .ge }) ∧
    decodeSlot (word 0x10A 15 2 4 6 0 0x3800600) = .ok (.lea { vx .z32 with c := .reg 0, op8 := 7 }) ∧
    (∀ e ∈ ([(0x180, .iaddI), (0x181, .isubI), (0x182, .imulI), (0x185, .iminI), (0x186, .imaxI)] : List (Nat × (VImm → Instr))),
      decodeSlot (word e.1 15 2 4 0x678 0x345 0x212) = .ok (e.2 (vi .s32 0x12345678))) ∧
    decodeSlot (word 0x189 15 5 4 1 0 0x80200) = .ok (.isetpI { vi .s32 1 with d := .reg 5, cmp := .ne }) ∧
    decodeSlot (word 0x18A 15 2 4 1 0 0x1000200) = .ok (.leaI { vi .s32 1 with op8 := 2 }) := by decide +kernel

theorem test_decode_logic :
    (∀ e ∈ ([(0x200, .and), (0x201, .or), (0x202, .xor), (0x204, .shl), (0x205, .shr), (0x206, .sar), (0x20A, .bfx)] : List (Nat × (VArgs → Instr))),
      decodeSlot (word e.1 15 2 4 6 0 0x600) = .ok (e.2 { vx .z32 with c := .reg 0 })) ∧
    (∀ e ∈ ([(0x203, .not), (0x207, .popc), (0x208, .clz), (0x209, .brev)] : List (Nat × (VArgs → Instr))),
      decodeSlot (word e.1 15 2 4 0 0 0x600) = .ok (e.2 { vx .z32 with b := .reg 0, c := .reg 0 })) ∧
    decodeSlot (word 0x20B 15 2 4 6 8 0x600) = .ok (.bfi (vx .z32)) ∧
    decodeSlot (word 0x20C 15 2 4 6 0 0x9800600) = .ok (.sel { vx .z32 with c := .reg 0, op8 := 0x13 }) ∧
    decodeSlot (word 0x20D 15 2 4 6 8 0x800600) = .ok (.prmt { vx .z32 with op8 := 1 }) ∧
    ∀ e ∈ ([(0x280, .andI), (0x281, .orI), (0x282, .xorI), (0x284, .shlI), (0x285, .shrI), (0x286, .sarI)] : List (Nat × (VImm → Instr))),
      decodeSlot (word e.1 15 2 4 0x678 0x345 0x612) = .ok (e.2 (vi .z32 0x12345678)) := by decide +kernel

theorem test_decode_float :
    (∀ e ∈ ([(0x300, .fadd), (0x301, .fsub), (0x302, .fmul)] : List (Nat × (VArgs → Instr))),
      decodeSlot (word e.1 15 2 4 6 0 0x3A00) = .ok (e.2 { vx .f32 with c := .reg 0, rnd := .rdn })) ∧
    decodeSlot (word 0x303 15 2 4 6 8 0x801A00) = .ok (.ffma { vx .f32 with rnd := .rz, op8 := 1 }) ∧
    (∀ e ∈ ([(0x304, .fmin), (0x305, .fmax)] : List (Nat × (VArgs → Instr))), decodeSlot (word e.1 15 2 4 6 0 0xD00) = .ok (e.2 { vx .f16x2 with c := .reg 0 })) ∧
    decodeSlot (word 0x306 15 5 4 6 0 0x680A00) = .ok (.fsetp { vx .f32 with d := .reg 5, c := .reg 0, cmp := .geu }) ∧
    decodeSlot (word 0x307 15 2 4 0 0 0xB00) = .ok (.fclass { vx .f64 with b := .reg 0, c := .reg 0 }) ∧
    (∀ e ∈ ([(0x380, .faddI), (0x382, .fmulI), (0x383, .ffmaI)] : List (Nat × (VImm → Instr))), decodeSlot (word e.1 15 2 4 0 0x800 0xA3F) = .ok (e.2 (vi .f32 0x3F800000))) ∧
    decodeSlot (word 0x386 15 5 4 0 0x800 0x300A3F) = .ok (.fsetpI { vi .f32 0x3F800000 with d := .reg 5, cmp := .num }) := by decide +kernel

theorem test_decode_conversion :
    -- op8 holds the destination format in its upper half and the source format in its lower
    decodeSlot (word 0x400 15 2 4 0 0 0x51002000) = .ok (.fcvt { vx .s8 with b := .reg 0, c := .reg 0, rnd := .rup, op8 := 0xA2 }) ∧
    (∀ e ∈ ([(0x401, .frnd), (0x402, .fsqrt)] : List (Nat × (VArgs → Instr))), decodeSlot (word e.1 15 2 4 0 0 0x1A00) = .ok (e.2 { vx .f32 with b := .reg 0, c := .reg 0, rnd := .rz })) ∧
    ∀ e ∈ ([(0x403, .frcp), (0x404, .frsq), (0x405, .fexp2), (0x406, .flog2), (0x407, .fsin), (0x408, .fcos)] : List (Nat × (VArgs → Instr))),
      decodeSlot (word e.1 15 2 4 0 0 0x8A00) = .ok (e.2 { vx .f32 with b := .reg 0, c := .reg 0, negA := true }) ∧
    -- FCVT's absolute value is slot bit 83 (R162)
    decodeSlot (word 0x400 15 2 4 0 0 0x15042000) = .ok (.fcvt { vx .s8 with b := .reg 0, c := .reg 0, rnd := .rup, absA := true, op8 := 0x2A }) := by decide +kernel

theorem test_decode_moves :
    decodeSlot (word 0x500 15 2 4 0 0 0x600) = .ok (.mov { vx .z32 with b := .reg 0, c := .reg 0 }) ∧
    decodeSlot (word 0x500 15 2 4 0 0 0x800600) = .ok (.movH { vx .z32 with b := .reg 0, c := .reg 0, op8 := 1 }) ∧
    decodeSlot (word 0x501 15 2 255 0 0 0x600) = .ok (.movs { vx .z32 with a := .reg 255, b := .reg 0, c := .reg 0 }) ∧
    decodeSlot (word 0x502 15 2 0x10 0 0 0x700) = .ok (.sget { vx .z64 with a := .reg 0x10, b := .reg 0, c := .reg 0 }) ∧
    decodeSlot (word 0x503 15 2 4 6 0 0x1800600) = .ok (.shfl { vx .z32 with c := .reg 0, op8 := 3 }) ∧
    decodeSlot (word 0x504 15 2 4 0 0 0x1000600) = .ok (.vote { vx .z32 with b := .reg 0, c := .reg 0, op8 := 2 }) ∧
    decodeSlot (word 0x505 15 2 4 0 0 0x1000A00) = .ok (.redux { vx .f32 with b := .reg 0, c := .reg 0, op8 := 2 }) ∧
    decodeSlot (word 0x506 15 5 4 0 0 0xF800600) = .ok (.pset { vx .z32 with d := .reg 5, b := .reg 0, c := .reg 0, op8 := 31 }) ∧
    decodeSlot (word 0x507 15 5 1 2 3 0x7F800600) = .ok (.plop { vx .z32 with d := .reg 5, a := .reg 1, b := .reg 2, c := .reg 3, op8 := 255 }) ∧
    decodeSlot (word 0x580 15 2 0 0x678 0x345 0x612) = .ok (.movi { vi .z32 0x12345678 with a := .reg 0 }) := by decide +kernel

theorem test_decode_scalar :
    (∀ e ∈ ([(0x600, .sadd), (0x601, .ssub), (0x602, .smul), (0x603, .sand), (0x604, .sor), (0x605, .sxor), (0x606, .sshl), (0x607, .sshr)] : List (Nat × (SclArgs → Instr))),
      decodeSlot (word e.1 15 1 2 3 0 0x300) = .ok (e.2 ⟨pt, 1, 2, 3, .s64, .eq⟩)) ∧
    decodeSlot (word 0x608 15 1 2 0 0 0x300) = .ok (.smov ⟨pt, 1, 2, 0, .s64, .eq⟩) ∧
    decodeSlot (word 0x609 15 1 2 3 0 0x100300) = .ok (.ssetp ⟨pt, 1, 2, 3, .s64, .lt⟩) ∧
    decodeSlot (word 0x60A 15 1 0x10 0 0 0) = .ok (.srd ⟨pt, 1, 0x10⟩) ∧
    decodeSlot (word 0x60B 15 0 1 0 0 0x10) = .ok (.swr ⟨pt, 1, 0x10⟩) ∧
    decodeSlot (word 0x60C 15 1 0 0 0 0) = .ok (.clk ⟨pt, 1, 0⟩) ∧
    (∀ e ∈ ([(0x680, .saddI), (0x681, .ssubI), (0x682, .smulI), (0x683, .sandI), (0x684, .sorI), (0x685, .sxorI), (0x686, .sshlI), (0x687, .sshrI)] : List (Nat × (SclImm → Instr))),
      decodeSlot (word e.1 15 1 2 0x678 0x345 0x312) = .ok (e.2 ⟨pt, 1, 2, 0x12345678, .s64⟩)) ∧
    decodeSlot (word 0x688 15 1 0 0x678 0x345 0x312) = .ok (.smovi ⟨pt, 1, 0, 0x12345678, .s64⟩) := by decide +kernel

theorem test_decode_memory :
    (∀ e ∈ ([(0x700, .ld), (0x704, .ldln)] : List (Nat × (MemArgs → Instr))), decodeSlot (word e.1 15 4 2 0 0 0x2000010) = .ok (e.2 mx)) ∧
    (∀ e ∈ ([(0x701, .st), (0x705, .stln)] : List (Nat × (MemArgs → Instr))), decodeSlot (word e.1 15 0 2 0 4 0x2000010) = .ok (e.2 { mx with d := 0, c := 4 })) ∧
    decodeSlot (word 0x700 15 8 2 3 0 0x3CFFFFFF) = .illegal ∧
    -- four 128-bit units of eight registers, from a scalar base, at offset -1
    decodeSlot (word 0x700 15 8 2 3 0 0x5CFFFFFF) = .ok (.ld ⟨pt, 8, 2, 3, 0, true, 3, 4, 0xFFFFFF⟩) ∧
    decodeSlot (word 0x706 15 0 2 0 0 0x2000010) = .ok (.pref { mx with d := 0 }) ∧
    decodeSlot (word 0x707 15 4 2 0 0 0x42000010) = .ok (.sld { mx with sbase := true }) ∧
    decodeSlot (word 0x708 15 0 2 0 4 0x42000010) = .ok (.sst { mx with sbase := true, d := 0, c := 4 }) ∧
    decodeSlot (word 0x702 15 4 2 0 0 0x6000010) = .ok (.ldaq ⟨pt, 4, 2, 0, 0, false, true, .dev, 16⟩) ∧
    decodeSlot (word 0x703 15 0 2 0 4 0x7000010) = .ok (.strl ⟨pt, 0, 2, 0, 4, false, true, .sys, 16⟩) ∧
    decodeSlot (word 0x709 15 0 0 0 0 0x1000000) = .ok (.fence ⟨pt, .clus⟩) ∧
    decodeSlot (word 0x70A 15 0 0 0 0 0x3FE) = .ok (.waitc ⟨pt, .atomnr, 255⟩) := by decide +kernel

theorem test_decode_atomics :
    (∀ e ∈ ([(0x800, .aadd), (0x801, .amin), (0x802, .amax), (0x803, .aand), (0x804, .aor), (0x805, .axor), (0x806, .axch)] : List (Nat × (AtomArgs → Instr))),
      decodeSlot (word e.1 15 4 2 6 0 0x260010) = .ok (e.2 ax)) ∧
    decodeSlot (word 0x807 15 4 2 8 12 0xA30010) = .ok (.acas { ax with b := 8, c := 12, wide := true, ty := .s64 }) ∧
    ∀ e ∈ ([(0x808, .afadd), (0x809, .afmin), (0x80A, .afmax)] : List (Nat × (AtomArgs → Instr))),
      decodeSlot (word e.1 15 0 2 6 0 0x6A0010) = .ok (e.2 { ax with d := 0, nr := true, ty := .f32 }) := by decide +kernel

theorem test_decode_sync_and_engines :
    (∀ e ∈ ([(0x900, .bar), (0x901, .bara), (0x902, .barw), (0x903, .cbar), (0x904, .ordw), (0x905, .ords)] : List (Nat × (IdArgs → Instr))),
      decodeSlot (word e.1 15 0 0 0 0 3) = .ok (e.2 ⟨pt, 3⟩)) ∧
    decodeSlot (word 0x906 15 1 2 0 0 0) = .ok (.grow ⟨pt, 1, 2⟩) ∧
    decodeSlot (word 0x907 15 5 2 7 0 0) = .ok (.qpush ⟨pt, 5, 2, 7⟩) ∧
    (∀ e ∈ ([(0xA00, .cpy), (0xA01, .cpyh)] : List (Nat × (CpyArgs → Instr))), decodeSlot (word e.1 15 5 2 6 8 0) = .ok (e.2 ⟨pt, 5, 2, 6, 8⟩)) ∧
    (∀ e ∈ ([(0xA02, .htst), (0xA04, .hmov)] : List (Nat × (HandArgs → Instr))), decodeSlot (word e.1 15 5 3 0 0 0) = .ok (e.2 ⟨pt, 5, 3⟩)) ∧
    decodeSlot (word 0xA03 15 0 3 0 0 0) = .ok (.hcan ⟨pt, 0, 3⟩) ∧
    decodeSlot (word 0xB00 15 4 8 0 12 0) = .ok (.kpackA ⟨pt, 4, 8, 12⟩) ∧ decodeSlot (word 0xB00 15 4 8 0 12 1) = .ok (.kpackB ⟨pt, 4, 8, 12⟩) ∧
    decodeSlot (word 0xB01 15 5 8 10 12 0x101C0FFD) = .ok (.kpass ⟨pt, 5, 8, 10, 12, true, 14, 7, 127, true⟩) ∧
    decodeSlot (word 0xB02 15 5 8 10 12 0x201C0FFC) = .ok (.kwin ⟨pt, 5, 8, 10, 12, false, 14, 7, 127, false⟩) ∧
    decodeSlot (word 0xB03 15 4 8 0 12 0x46FF00) = .ok (.kext ⟨pt, 4, 8, 12, 0x2FF, 3⟩) ∧
    decodeSlot (word 0xB04 15 0 8 0 0 200) = .ok (.kstab ⟨pt, 8, 200⟩) ∧
    decodeSlot (word 0xC00 15 5 2 6 0 0xABC) = .ok (.fsend ⟨pt, 5, 2, 6, 0xABC⟩) ∧
    decodeSlot (word 0xC01 15 0 2 0 6 0x7F000) = .ok (.ffence ⟨pt, 2, 6, 127⟩) ∧
    decodeSlot (word 0xC02 15 0 0 0 0 0xABC) = .ok (.fsync ⟨pt, 0xABC⟩) ∧
    decodeSlot (word 0xC03 15 5 2 0 0 0) = .ok (.pmig ⟨pt, 5, 2⟩) := by decide +kernel

/- Refused slots: unmapped classes and opcodes, fields that must be zero, and latch select bits (R52, R67, R68, R282). -/

theorem test_decode_refuses :
    (decodeSlot (word 0xD00 15 0 0 0 0 0) = .illegal ∧ decodeSlot (word 0x10B 15 2 4 6 0 0x200) = .illegal ∧ decodeSlot (word 0x000 15 1 0 0 0 0) = .illegal ∧
      decodeSlot (word 0x100 15 2 4 6 0 0xF00) = .illegal ∧ decodeSlot (word 0x100 15 2 4 6 8 0x200) = .illegal ∧ decodeSlot (word 0x100 15 2 4 6 0 0x40000200) = .illegal ∧
      decodeSlot (word 0x100 15 0x801 4 6 0 0x200) = .illegal ∧ decodeSlot (word 0x100 15 2 0x804 6 0 0x200) = .illegal ∧ decodeSlot (word 0x001 15 0 0 0 0 0x500) = .illegal ∧
      decodeSlot (word 0x600 15 0x801 2 3 0 0x300) = .illegal) ∧
    decodeSlot (word 0x600 15 1 0x802 3 0 0x300) = .latched (.sadd ⟨pt, 1, 2, 3, .s64, .eq⟩) ∧
    decodeTableWord 96 0x00000000000000000000F000 = some (.nop ⟨pt⟩) ∧ decodeTableWord 12 0xF000 = some (.nop ⟨⟨false, 0⟩⟩) := by decide +kernel

/- Ill-formed terms, one for each check of WellFormed. -/

theorem test_ill_formed_vector : ∀ i ∈ ([
    .iadd { vx .s64 with a := .reg 5 },            -- a pair is even (R51)
    .iadd { vx .f32 with c := .reg 0 },            -- a floating type (R57)
    .iadd (vx .s32),                               -- C is unused (R282)
    .iadd { vx .s32 with c := .reg 0, rnd := .rz }, .iadd { vx .s32 with c := .reg 0, cmp := .ne }, .iadd { vx .s32 with c := .reg 0, op8 := 1 },
    .imulh { vx .s32 with c := .reg 0, sat := true }, .iabs { vx .s32 with b := .reg 0, c := .reg 0, negA := true },
    .not { vx .z32 with b := .reg 0, c := .reg 0, negB := true },
    .isetp { vx .s32 with d := .reg 16, c := .reg 0 }, .isetp { vx .s32 with d := .reg 5, c := .reg 0, cmp := .nan }, .isetpI { vi .s32 0 with d := .reg 5, cmp := .geu },
    .lea { vx .s32 with c := .reg 0, op8 := 8 }, .lea { vx .s64 with c := .reg 0 }, .leaI { vi .z32 0 with op8 := 0 },
    .popc { vx .z16 with b := .reg 0, c := .reg 0 }, .brev { vx .s8 with b := .reg 0, c := .reg 0 }, .bfx { vx .s8 with c := .reg 0 }, .bfi (vx .s8),
    .sel { vx .s32 with c := .reg 0, op8 := 32 }, .prmt { vx .s32 with op8 := 2 }, .fadd { vx .s32 with c := .reg 0 }, .ffma { vx .f32 with op8 := 2 },
    .ffmaI { vi .f32 0 with d := .nw }, .fmin { vx .f32 with c := .reg 0, sat := true }, .fsetp { vx .f16x2 with d := .reg 5, c := .reg 0 }, .fclass { vx .f16x2 with b := .reg 0, c := .reg 0 },
    .fcvt { vx .s8 with b := .reg 0, c := .reg 0, op8 := 0x0C }, .fcvt { vx .s8 with b := .reg 0, c := .reg 0, op8 := 0xC0 }, .fcvt { vx .s8 with b := .reg 0, c := .reg 0, op8 := 0x20, negA := true },
    .fcvt { vx .s16 with b := .reg 0, c := .reg 0 }, .frnd { vx .f64 with a := .reg 5, b := .reg 0, c := .reg 0 }, .fsqrt { vx .f16x2 with b := .reg 0, c := .reg 0 },
    .frcp { vx .f64 with b := .reg 0, c := .reg 0 }, .mov { vx .s16 with b := .reg 0, c := .reg 0 }, .movH { vx .z32 with a := .reg 16, b := .reg 0, c := .reg 0, op8 := 1 },
    .movs { vx .z32 with a := .reg 256, b := .reg 0, c := .reg 0 }, .movs { vx .z32 with a := .latch 0, b := .reg 0, c := .reg 0 },
    .sget { vx .z64 with a := .reg 0x0B, b := .reg 0, c := .reg 0 }, .shfl { vx .z32 with c := .reg 0, op8 := 4 }, .vote { vx .z32 with b := .reg 0, c := .reg 0, op8 := 4 },
    .redux { vx .f32x2 with b := .reg 0, c := .reg 0 }, .redux { vx .f32 with b := .reg 0, c := .reg 0, op8 := 3 }, .pset { vx .z32 with d := .reg 5, b := .reg 0, c := .reg 0, op8 := 32 },
    .plop { vx .z32 with d := .reg 5, a := .reg 16, b := .reg 2, c := .reg 3 }, .movi (vi .z32 0)] : List Instr), i.wf = false := by decide +kernel

theorem test_ill_formed_other : ∀ i ∈ ([
    .bra ⟨pt, 0, 5, 0, 0⟩, .bra ⟨pt, 2, 0, 0, 0⟩, .rcv ⟨pt, 0, 0, 0, 1⟩, .call ⟨pt, 3, 0, 0, 0⟩, .brk ⟨pt, 0, 0, 0, 0⟩, .brx ⟨pt, 3⟩, .ret ⟨pt, 3⟩, .lnch ⟨pt, 256, 0⟩,
    .sadd ⟨pt, 256, 0, 0, .s64, .eq⟩, .sadd ⟨pt, 0, 0, 0, .s16, .eq⟩, .smov ⟨pt, 0, 0, 1, .s64, .eq⟩, .ssetp ⟨pt, 16, 0, 0, .s64, .eq⟩, .ssetp ⟨pt, 0, 0, 0, .s64, .nan⟩,
    .saddI ⟨pt, 0, 256, 0, .s64⟩, .smovi ⟨pt, 0, 1, 0, .s64⟩, .srd ⟨pt, 0, 0x0B⟩, .swr ⟨pt, 0, 0x00⟩, .clk ⟨pt, 0, 1⟩,
    .ld { mx with size := 5 }, .ld { mx with size := 3 }, .ld { mx with size := 4, count := 1 }, .ld { mx with size := 0, count := 1 }, .ld { mx with a := 3 }, .ld { mx with sbase := true, a := 256 },
    .ld { mx with d := 5, count := 1 }, .ld { mx with d := 6, count := 2 }, .ld { mx with c := 4 }, .st mx, .pref mx, .sld mx, .sst { mx with sbase := true, c := 4 },
    .ldln { mx with sbase := true }, .stln { mx with size := 1, d := 0 }, .ldaq ⟨pt, 5, 2, 0, 0, false, true, .dev, 0⟩, .strl ⟨pt, 4, 2, 0, 4, false, false, .dev, 0⟩,
    .aadd { ax with ty := .z16 }, .aadd { ax with wide := true }, .aadd { ax with c := 2 }, .aadd { ax with nr := true }, .axch { ax with nr := true, d := 0 },
    .acas { ax with wide := true }, .acas { ax with wide := true, ty := .z64, b := 6, c := 12 }, .afadd ax, .cbar ⟨pt, 4⟩, .grow ⟨pt, 256, 0⟩, .qpush ⟨pt, 0, 3, 0⟩, .qpush ⟨pt, 0, 2, 256⟩,
    .cpy ⟨pt, 0, 3, 0, 0⟩, .cpyh ⟨pt, 0, 2, 4, 6⟩, .hcan ⟨pt, 1, 0⟩, .kpackB ⟨pt, 2, 0, 0⟩, .kpass ⟨pt, 0, 0, 1, 0, false, 0, 0, 0, false⟩, .kwin ⟨pt, 0, 0, 0, 0, true, 0, 0, 0, false⟩,
    .kext ⟨pt, 0, 1, 0, 0, 0⟩, .kstab ⟨pt, 1, 0⟩, .fsend ⟨pt, 0, 2, 255, 0⟩, .ffence ⟨pt, 1, 0, 0⟩, .pmig ⟨pt, 0, 1⟩,
    .packetClaim 576 0, .packetClaim 0 4096, .poison 64, .ringTune 128 0 true, .transportAck 0 3 (0, 0), .rekey (512, 0) ([], []), .launch 0 1 [], .powerClamp Config.dies 0 0, .boot (List.replicate 63 0) [] (List.replicate 114 0) [], .boot (List.replicate 64 0) [] [] [], .boot (List.replicate 64 0) [] (List.replicate 114 0) (List.replicate 17 (0, 64)), .lineFetch 0 65537 0 0, .frameEvict 65536 0 0 none 0,
    .linkTraining 1 2000 0 (List.replicate 64 0) (List.replicate 64 true, [])] : List Instr), i.wf = false := by decide +kernel

/- One step on a small state. Each expected value is worked out from the rule named. -/

/-- Group 0 of the one team of grid 1 is issuing, with all 32 lanes, from the slot at 65540 of core 0; its page stands at physical 131072. -/
def bench : State :=
  { State.reset.withFetchWord 96 0 with issue := [], cur := { Issue.none with gk := 0, mask := BitVec.allOnes 32, pc := 65540 } }
def benchG (f : Group → Group) : State := bench.modG f
/-- v4 and v6 of lane 1 hold two words. -/
def two (a b : Word) : State := benchG fun g => (g.wrV 4 1 a).wrV 6 1 b
/-- A change to the issuing team's grid. -/
def benchR (f : Grid → Grid) (s : State := bench) : State := s.setGrid 1 (f s.gr)
/-- Does the machine go on, into a state with this property? -/
def goes (o : Host.Outcome State Fault Refusal) (p : State → Bool) : Bool := match o with | .next t => p t | _ => false
/-- Is the first error record's cause this one, with this cause mask? -/
def trapped (t : State) (cause : Nat) (m : LaneMask) : Bool := t.cur.verdict = .trapped && (t.errors.map fun e => (e.cause, e.causeMask)) = [(cause, m)]
def ab (ty : Ty) : VArgs := { vx ty with c := .reg 0 }
def only_a (ty : Ty) : VArgs := { vx ty with b := .reg 0, c := .reg 0 }
/-- Lane 1's v2 after an instruction. -/
def lane1 (i : Instr) (s : State) (x : Word) : Bool := goes (exec i s) fun t => t.g.rdV 2 1 = x

-- R45, R332, R333
theorem test_iadd_wraps : goes (exec (.iadd (ab .s32)) (two 0xFFFFFFFF 2)) (fun t => t.g.rdV 2 1 = 1 && t.g.pcOf 1 = 65552 && t.g.retiredOf 1 = 1) = true := by decide +kernel
theorem test_iadd_saturates : goes (exec (.iadd { ab .s32 with sat := true }) (two 0x7FFFFFFF 2)) (fun t => t.g.rdV 2 1 = 0x7FFFFFFF && t.flags = 1) = true := by decide +kernel
theorem test_integer_arithmetic :
    lane1 (.isub (ab .z32)) (two 1 2) 0xFFFFFFFF ∧ lane1 (.imulh (ab .s32)) (two 0xFFFFFFFF 1) 0xFFFFFFFF ∧ lane1 (.imulh (ab .z32)) (two 0xFFFFFFFF 2) 1 ∧
    lane1 (.imad (vx .s8)) (two 0x7F 2) 0xFFFFFFFE ∧ lane1 (.imin (ab .s32)) (two 0xFFFFFFFF 1) 0xFFFFFFFF ∧ lane1 (.imax (ab .z8)) (two 0x1FF 1) 0xFF ∧
    lane1 (.iabs (only_a .s32)) (two 0x80000000 0) 0x80000000 ∧ lane1 (.ineg { only_a .s16 with sat := true }) (two 0x8000 0) 0x7FFF ∧
    lane1 (.iaddI (vi .s32 0xFFFFFFFF)) (two 0 0) 0xFFFFFFFF ∧ lane1 (.iadd { ab .s32 with negB := true, absA := true }) (two 0xFFFFFFFB 2) 3 := by decide +kernel
-- R334; a lane whose guard is false is left alone (R53)
theorem test_isetp_under_a_guard : goes (exec (.isetp { ab .s32 with d := .reg 5, cmp := .lt, guard := ⟨true, 1⟩ }) ((two 0xFFFFFFFF 0).modG fun g => g.wrP 1 0 true))
    (fun t => t.g.rdP 5 1 && !t.g.rdP 5 0 && !t.g.rdP 5 2) = true := by decide +kernel
-- R350: B is sign-extended for s32
theorem test_lea : goes (exec (.lea { ab .s32 with op8 := 2 }) (benchG fun g => (g.wrPair 4 1 0x100000000).wrV 6 1 0xFFFFFFFF)) (fun t => t.g.rdPair 2 1 = 0xFFFFFFFC) = true := by decide +kernel
-- R290, R297, R357, R358, R372
theorem test_logic :
    lane1 (.shl (ab .z32)) (two 1 32) 0 ∧ lane1 (.sar (ab .s32)) (two 0x80000000 40) 0xFFFFFFFF ∧ lane1 (.shr (ab .z32)) (two 0x80000000 31) 1 ∧ lane1 (.not (only_a .z8)) (two 0x0F 0) 0xF0 ∧
    lane1 (.popc (only_a .z32)) (two 0xF0F0 0) 8 ∧ lane1 (.clz (only_a .z32)) (two 0 0) 32 ∧ lane1 (.brev (only_a .z32)) (two 1 0) 0x80000000 ∧
    lane1 (.bfx (ab .s32)) (two 0xF00 0x0408) 0xFFFFFFFF ∧ lane1 (.bfi (vx .z32)) (two 0x0F 0x0808) 0x0F00 ∧ lane1 (.sel { ab .z32 with op8 := 0x1F }) (two 7 9) 9 ∧
    lane1 (.prmt (vx .z32)) ((two 0x83828180 0x87868584).modG fun g => g.wrV 8 1 0x8870) 0xFFFF8780 := by decide +kernel
-- R308 to R312: 1 + 2, the product of zero and infinity, the examples of R310, a signalling NaN
theorem test_float_arithmetic :
    lane1 (.fadd (ab .f32)) (two 0x3F800000 0x40000000) 0x40400000 ∧ lane1 (.fmin (ab .f32)) (two 0x80000000 0) 0x80000000 ∧ lane1 (.fmax (ab .f32)) (two 0x7FC00000 0x40400000) 0x40400000 ∧
    lane1 (.fclass (only_a .f32)) (two 0x7F800001 0) 0x100 ∧ lane1 (.ffma (vx .f32)) ((two 0x40000000 0x40400000).modG fun g => g.wrV 8 1 0xC0C00000) 0 := by decide +kernel
theorem test_fmul_invalid : goes (exec (.fmul (ab .f32)) (two 0 0x7F800000)) (fun t => t.g.rdV 2 1 = 0x7FC00000 && t.flags.getLsbD 2) = true := by decide +kernel
-- R311
theorem test_fsetp_ltu : goes (exec (.fsetp { ab .f32 with d := .reg 5, cmp := .ltu }) ((two 0x3F800000 0x3F800000).modG fun g => g.wrV 4 2 0x7FC00000)) (fun t => !t.g.rdP 5 1 && t.g.rdP 5 2) = true := by decide +kernel
-- R162, R314, R315: 2.5 to s32 under ties to even, 65536 to f16, 2.5 rounded up, the root of 2
theorem test_conversions :
    lane1 (.fcvt { only_a .s8 with op8 := 0x2A }) (two 0x40200000 0) 2 ∧ lane1 (.fcvt { only_a .s8 with op8 := 0x8A }) (two 0x47800000 0) 0x7C00 ∧
    lane1 (.frnd { only_a .f32 with rnd := .rup }) (two 0x40200000 0) 0x40400000 ∧ lane1 (.fsqrt (only_a .f32)) (two 0x40000000 0) 0x3FB504F3 := by decide +kernel
-- R88, R355, R362, R368, R369
theorem test_moves :
    lane1 (.movi { vi .z32 77 with a := .reg 0 }) bench 77 ∧ lane1 (.movs { only_a .z32 with a := .reg 9 }) (benchG fun g => g.wrS 9 0x100000005) 5 ∧
    lane1 (.shfl { ab .z32 with op8 := 3 }) (benchG fun g => (g.wrV 4 3 0xAB).wrV 6 1 2) 0xAB ∧ lane1 (.shfl { ab .z32 with op8 := 1 }) (benchG fun g => (g.wrV 4 1 0xCD).wrV 6 1 2) 0xCD ∧
    lane1 (.vote { only_a .z32 with a := .reg 1, op8 := 3 }) (benchG fun g => (g.wrP 1 0 true).wrP 1 5 true) 0x21 ∧
    lane1 (.redux (only_a .s32)) (two 0xFFFFFFFF 0) 0xFFFFFFFF ∧ lane1 (.redux { only_a .z32 with op8 := 2 }) (two 9 0) 9 := by decide +kernel
theorem test_plop : goes (exec (.plop { vx .z32 with d := .reg 5, a := .reg 1, b := .reg 2, c := .reg 3, op8 := 0x20 }) (benchG fun g => (g.wrP 1 1 true).wrP 3 1 true)) (fun t => t.g.rdP 5 1 && !t.g.rdP 5 2) = true := by decide +kernel
-- R63, R64: the result is in l0 of the next slot, and NW writes no register
theorem test_latch : goes (exec (.iadd { ab .s32 with d := .nw }) (two 3 4)) (fun t => t.g.rdLatch t.cur.mask 0 1 = 7 && t.g.rdV 2 1 = 0) = true := by decide +kernel
theorem test_latch_without_chain : goes (exec (.iadd { ab .s32 with a := .latch 0 }) bench) (fun t => trapped t 0x07 0xFFFFFFFF) = true := by decide +kernel
-- R371: the result is extended by the type's signedness
theorem test_scalar :
    goes (exec (.sadd ⟨pt, 1, 2, 3, .s32, .eq⟩) (benchG fun g => (g.wrS 2 0x7FFFFFFF).wrS 3 1)) (fun t => t.g.rdS 1 = 0xFFFFFFFF80000000) ∧
    goes (exec (.ssubI ⟨pt, 1, 2, 1, .z32⟩) bench) (fun t => t.g.rdS 1 = 0xFFFFFFFF) ∧ goes (exec (.sshl ⟨pt, 1, 2, 3, .z64, .eq⟩) (benchG fun g => (g.wrS 2 1).wrS 3 64)) (fun t => t.g.rdS 1 = 0) ∧
    goes (exec (.sshrI ⟨pt, 1, 2, 70, .s64⟩) (benchG fun g => g.wrS 2 0x8000000000000000)) (fun t => t.g.rdS 1 = 0xFFFFFFFFFFFFFFFF) ∧
    goes (exec (.saddI ⟨⟨false, 0⟩, 1, 2, 5, .s64⟩) bench) (fun t => t.g.rdS 1 = 0 && t.g.pcOf 0 = 65552) := by decide +kernel
theorem test_ssetp : goes (exec (.ssetp ⟨pt, 5, 2, 3, .s64, .lt⟩) (benchG fun g => g.wrS 2 0xFFFFFFFFFFFFFFFF)) (fun t => t.g.rdP 5 0 && t.g.rdP 5 31) = true := by decide +kernel
-- R88, R89
theorem test_status : goes (exec (.swr ⟨pt, 1, 0x10⟩) (benchG fun g => g.wrS 1 0xFFFF)) (fun t => t.g.status = 63) ∧ goes (exec (.srd ⟨pt, 1, 0x10⟩) (benchG fun g => { g with status := 5 })) (fun t => t.g.rdS 1 = 5) ∧
    goes (exec (.swr ⟨pt, 1, 0x20⟩) bench) (fun t => trapped t 0x04 0xFFFFFFFF) := by decide +kernel
-- R60: 64 × offset from the line, slot 0; R299: CALL saves the next slot's PC; R298: BRX under a guard
theorem test_branch : goes (exec (.bra ⟨⟨false, 1⟩, 0, 0, 0, 0⟩) (benchG fun g => g.wrP 1 3 true)) (fun t => t.g.pcOf 3 = 65540 && t.g.pcOf 4 = 65552) ∧
    goes (exec (.call ⟨pt, 6, 0, 0, 0⟩) bench) (fun t => t.g.rdPair 6 0 = 65552 && t.g.pcOf 0 = 65540) ∧
    goes (exec (.bra ⟨pt, 0, 1, 0, 0⟩) bench) (fun t => trapped t 0x02 0xFFFFFFFF) := by decide +kernel
-- R27, R29: the entry is taken, and all lanes pass its RJOIN together
theorem test_reconvergence : goes (exec (.rcv ⟨pt, 0, 0, 0, 0⟩) bench) (fun t => t.liveCount = 1 && t.g.innerOf 7 ≠ 0 &&
    goes (exec (.rjoin ⟨pt⟩) { t with cur := bench.cur, groups := (t.modG fun g => { g with pc := bench.g.pc }).groups }) (fun u => u.liveCount = 0 && u.g.innerOf 7 = 0 && u.g.pcOf 7 = 65552)) = true := by decide +kernel
-- R32, R264
theorem test_exit : goes (exec (.exit ⟨pt⟩) bench) (fun t => t.g.waitOf 0 = .exited && t.agenda = [.teamRetire 0]) = true := by decide +kernel
-- R92, R93, R295
theorem test_trap : goes (exec (.trap ⟨⟨false, 1⟩, 0x1234⟩) (benchG fun g => g.wrP 1 2 true)) (fun t => trapped t 0x10 4 && t.g.waitOf 0 = .held && (t.errors.map fun e => (e.detail, e.restart)) = [(0x1234, 65552)]) = true := by decide +kernel
theorem test_regrange : goes (exec (.mov { only_a .z32 with a := .reg 2047 }) bench) (fun t => trapped t 0x05 0xFFFFFFFF && (t.errors.map (·.detail)) = [2047]) = true := by decide +kernel
-- R33, R41, R38, R39, R277
theorem test_barrier : goes (exec (.bar ⟨⟨false, 1⟩, 3⟩) (benchG fun g => g.wrP 1 2 true)) (fun t => t.g.waitOf 2 = .bar 3 && t.g.pcOf 2 = 65540 && t.g.pcOf 0 = 65552 && (t.bar 0 3 false).arrived = 4) ∧
    goes (exec (.bar ⟨pt, 3⟩) bench) (fun t => t.g.waitOf 2 = .run && t.g.pcOf 2 = 65552 && (t.bar 0 3 false).arrived = 0 && (t.bar 0 3 false).phase) := by decide +kernel
theorem test_ordered : goes (exec (.ordw ⟨pt, 2⟩) { bench with teams := tabPut bench.teams 0 { bench.tm with index := 1 } }) (fun t => t.g.waitOf 0 = .ordw 2) ∧
    goes (exec (.ords ⟨pt, 2⟩) bench) (fun t => (t.grid 1).signalled.map (·.1) = [2]) := by decide +kernel
theorem test_grow : goes (exec (.grow ⟨pt, 1, 2⟩) (benchG fun g => g.wrS 2 5)) (fun t => t.g.rdS 1 = 1 && (t.grid 1).count = 6) ∧
    goes (exec (.grow ⟨pt, 1, 2⟩) (benchG fun g => g.wrS 2 0xFFFFFFFF)) (fun t => t.g.rdS 1 = 1 && (t.grid 1).count = 4294967296) ∧
    goes (exec (.grow ⟨pt, 1, 2⟩) (benchG fun g => g.wrS 2 0x100000000)) (fun t => t.g.rdS 1 = BitVec.allOnes 64 && (t.grid 1).count = 1) := by decide +kernel
theorem test_hints : goes (exec (.prog ⟨pt, 9⟩) bench) (fun t => tabGet 0 t.obs.counts 25 = 1) ∧ goes (exec (.yield ⟨pt⟩) bench) (fun t => t.g.yieldUntil = 33 && t.g.yieldMark) := by decide +kernel

/-- Lane 0's access to VA 65664 is logged, and the word there is 0xAABBCCDD. -/
def logged (kind : LogKind) (e : Log) : State :=
  { bench with logs := [(1, { e with kind, mask := 1, lanes := 1, width := 4, unit := 4, addr := [(0, 65664)], dst := 4, cnt := 1 })], nextLog := 2,
               mem := { bench.mem with dram := memPut bench.mem.dram 131200 0xAABBCCDD 4 } }
/-- A base pair at 65536 + 128·k in every lane. -/
def based : State := benchG fun g => g.each (BitVec.allOnes 32) fun h i => h.wrPair 2 i (BitVec.ofNat 64 (65536 + 128 * i))

-- R94: the entry holds the base plus the offset; R342: a misaligned lane traps alone; R102: an address that is not canonical
theorem test_load_issue : goes (exec (.ld mx) based) (fun t => (tabFind t.logs 1).map (fun e => (e.kind, tabGet 0 e.addr 3)) = some (.load, 65936) && t.agenda = [.loadReturn 1] && t.g.pcOf 3 = 65552) ∧
    goes (exec (.ld mx) (based.modG fun g => g.wrPair 2 5 65537)) (fun t => trapped t 0x08 0x20 && t.logs = []) ∧
    goes (exec (.st { mx with d := 0, c := 4 }) (based.modG fun g => g.wrPair 2 5 0x0100000000000000)) (fun t => trapped t 0x0B 0x20) := by decide +kernel
-- R343, R345: little-endian bytes, the register is written when all has returned
theorem test_load_return : goes (exec (.loadReturn 1) (logged .load Log.empty)) (fun t => t.g.rdV 4 0 = 0xAABBCCDD && t.logs = []) = true := by decide +kernel
theorem test_store : goes (exec (.storePerformed 1 0) (logged .store { Log.empty with data := [(0, 0x11223344)] })) (fun t => memNat t.mem.dram 131200 4 = 0x11223344 && memNat t.mem.dram 131204 4 = 0 && t.logs = []) = true := by decide +kernel
-- R148: the old value is kept for D
theorem test_atomic : goes (exec (.homeAtomic 1 0) (logged .atomic { Log.empty with atom := some (.aadd ax), data := [(0, 1)] }))
    (fun t => memNat t.mem.dram 131200 4 = 0xAABBCCDE && (tabFind t.logs 1).map (fun e => tabGet 0 e.got 0) = some 0xAABBCCDD && t.agenda = [.atomicResponse 1]) ∧
    (atomOp (.acas ax) 7 5).new 5 = 7 ∧ (atomOp (.acas ax) 7 5).new 6 = 6 ∧ (atomOp (.amin { ax with ty := .s32 }) 0xFFFFFFFF 0).new 1 = 0xFFFFFFFF := by decide +kernel
-- R319: an outstanding store holds the fence
theorem test_fence : goes (exec (.fence ⟨pt, .team⟩) (logged .store Log.empty)) (fun t => t.cur.verdict = .stalled) ∧ goes (exec (.fence ⟨pt, .team⟩) bench) (fun t => t.g.pcOf 0 = 65552) := by decide +kernel
-- R329, R330
theorem test_handles : goes (exec (.htst ⟨pt, 5, 3⟩) { benchG (fun g => g.wrH 3 1 1) with ops := [(1, { Op.none with st := .pending })] }) (fun t => t.g.rdP 5 0 && !t.g.rdP 5 1) ∧
    goes (exec (.hcan ⟨pt, 0, 3⟩) { benchG (fun g => g.wrH 3 1 1) with ops := [(1, { Op.none with st := .pending })] }) (fun t => (t.op 1).st = .complete && (t.op 1).result = 0x80) := by decide +kernel
-- R22, R136: two thirds of a nanosecond a cycle, and the group's path is selected again
theorem test_cycle : goes (exec .groupSelect bench) (fun t => t.cycle = 1 && t.third = 2 && t.issue.map (fun q => (q.gk, q.pc, q.mask)) = [(0, 65540, 0xFFFFFFFF)]) = true := by decide +kernel
-- R44, R45: the placed slot is fetched, decoded and issued
theorem test_step_runs_a_placed_slot : goes (step (State.reset.withFetchWord 96 (word 0x688 15 1 0 7 0 0x300).toNat)) (fun t => t.g.rdS 1 = 7 && t.g.pcOf 0 = 65552) = true := by decide +kernel
-- R269: a header that is too short
theorem test_boot : goes (exec (.boot [] [] [] []) State.reset) (fun t => t.sys.boot = .bootfail) = true := by decide +kernel
/-- A list of bytes from one big-endian number. -/
def bytesBE (n k : Nat) : List Nat := (Crypto.toLE n k).reverse
-- FIPS 202: the digest of the empty message
theorem test_shake256 : Crypto.shake256 [] 8 = bytesBE 0x46b9dd2b0ba88d13 8 := by decide +kernel
-- RFC 8032, 7.4: the public key and the signature of the blank message
theorem test_ed448 : Crypto.edVerify (Crypto.ofLE (bytesBE 0x5fd7449b59b461fd2ce787ec616ad46a1da1342485a70e1f8a0ea75d80e96778edf124769b46c7061bd6783df1e50f6cd1fa1abeafe8256180 57)) []
    (bytesBE 0x533a37f6bbe457251f023c0d88f976ae2dfb504a843e34d2074fd823d41a591f2b233f034f628281f2fd7a22ddd47d7828c59bd0a21bfd3980ff0d2028d4b18a9df63e006c5d1c2d345b925d8dc00b4104852db99ac5c7cdda8530a113a0f4dbb61149f05a7363268c71d95808ff2e652600 114) = true := by decide +kernel
-- R138: leases of 256 ns and of 32 ns; a quiet line and one just stored to
theorem test_lease : goes (exec (.homeRead 0 131072 true) bench) (fun t => (tabFind (t.core 0).l1 1024).map (fun l => l.row1) = some true) = true := by decide +kernel
-- R2, R379
theorem test_cxl_write : goes (exec (.cxlMemAccess 4096 (some [1, 2])) State.reset) (fun t => memNat t.mem.dram 4096 4 = 0x0201) = true := by decide +kernel

/- WITNESSES. For each statement with hypotheses, a state and operands that meet them, clause by clause. -/

theorem on_lanes {m : LaneMask} {p : Nat → Prop} (h : ∀ i < 32, m.getLsbD i = true → p i) : ∀ i, m.getLsbD i = true → p i := fun i hi =>
  if hl : i < 32 then h i hl hi else by rw [BitVec.getLsbD_of_ge m i (Nat.le_of_not_lt hl)] at hi; cases hi
theorem on_slot {r : Found} {p : Line → Nat → State → Bool} (h : (match r with | .slot l k t => p l k t | .out _ => false) = true) : ∃ l k t, r = .slot l k t ∧ p l k t = true := by
  cases r with
  | slot l k t => exact ⟨l, k, t, rfl, h⟩
  | out t => cases h
theorem on_fst {α β : Type} {p : α × β} {a : α} (h : p.1 = a) : ∃ b, p = (a, b) := ⟨p.2, by rw [← h]⟩
theorem on_target {r : State.Target} (h : (match r with | .ok _ => true | _ => false) = true) : ∃ u, r = .ok u := by cases r with | ok u => exact ⟨u, rfl⟩ | _ => cases h
theorem on_two {α β γ : Type} {p : α × β × γ} {a : α} {b : β} (h : p.1 = a ∧ p.2.1 = b) : ∃ c, p = (a, b, c) := ⟨p.2.2, by rw [← h.1, ← h.2]⟩
theorem on_acc {r : Machine.Acc} (h : (match r with | .ok .. => true | _ => false) = true) : ∃ x p u, r = .ok x p u := by cases r with | ok x p u => exact ⟨x, p, u, rfl⟩ | _ => cases h
theorem on_ready {s : State} {v r : List Run} (h : s.hitsPending v r = false ∧ s.rangeTrap v = none) : s.Ready v r := h
theorem on_vready {s : State} {x : VForm} (h : (s.hitsPending x.vr x.sr = false ∧ s.rangeTrap x.vr = none) ∧ s.latchTrap x.member x.latches = none) : s.VReady x := h
theorem on_path {s : State} (h : s.cur.pair = none ∧ ∀ i < 32, s.cur.mask.getLsbD i = true → s.g.waitOf i = .run ∧ s.g.pcOf i = s.cur.pc) : s.OnPath := ⟨h.1, on_lanes h.2⟩

/-- A state inside a chain: l0 holds the last result. -/
def inChain : State := match exec (.iadd { ab .s32 with d := .nw }) (two 3 4) with | .next t => { t with cur := { t.cur with pc := 65552 } } | _ => bench
/-- The agent of core 0 is issuing. -/
def agent : State := { bench with cur := { bench.cur with gk := 294912 }, groups := tabPut bench.groups 294912 bench.g }
/-- Every lane is inside entry 0, whose reconvergence PC is the current slot. -/
def inEntry : State := benchG fun g => (g.each (BitVec.allOnes 32) fun h i => h.setInner i 1).wrEntry 2048 16 0 ⟨127, rcvBits 65536 65540, BitVec.allOnes 32⟩
/-- v2:v3 of each lane holds the address of the current slot. -/
def aimed : State := benchG fun g => g.each (BitVec.allOnes 32) fun h i => h.wrPair 2 i 65540

theorem witness_RoundTrip : ∀ i ∈ ([.iadd (ab .s32), .ld mx, .bra ⟨pt, 0, 4, 0xFFFFFFFF, 0⟩, .kwin ⟨pt, 15, 2047, 2046, 2047, false, 2046, 255, 127, true⟩] : List Instr), i.wf = true ∧ i.encoded = true := by decide +kernel
theorem witness_DecodeSound : (∃ w i, decodeSlot w = .ok i) ∧ (13 ≤ ((word 0xD00 15 0 0 0 0 0).extractLsb' 0 12).toNat / 256) ∧ (∃ u w i, decodeSlot u = .ok i ∧ decodeSlot w = .ok i) ∧ Instr.encoded .groupSelect = false :=
  ⟨⟨word 0 15 0 0 0 0 0, .nop ⟨pt⟩, by decide +kernel⟩, by decide +kernel, ⟨word 0 15 0 0 0 0 0, word 0 15 0 0 0 0 0, .nop ⟨pt⟩, by decide +kernel, by decide +kernel⟩, by decide +kernel⟩
/-- The slot is a NOP, and a path of another group is the cycle's next candidate. -/
def candidates : State := { State.reset.withFetchWord 96 0xF000 with issue := (State.reset.withFetchWord 96 0xF000).issue ++ [{ bench.cur with gk := 1 }] }
theorem witness_StepRunsDecoded :
    (∃ q rest, candidates.issue = q :: rest ∧ rest ≠ [] ∧ q.mask2 = 0 ∧ (∀ b, rest.head? = some b → b.gk ≠ q.gk ∨ (({ candidates with issue := rest } : State).modGrp q.gk Group.settle).joins q b = false) ∧
      q.mask &&& (candidates.grp q.gk).pathAt q.pc ≠ 0 ∧ candidates.selectable q.gk (candidates.grp q.gk) = true ∧
      ∃ l k t, State.findSlot { (({ candidates with issue := rest } : State).modGrp q.gk Group.settle) with
        cur := { q with mask := q.mask &&& (candidates.grp q.gk).pathAt q.pc, pc2 := 0, mask2 := 0, verdict := .stalled, pair := none } } = .slot l k t ∧
        (!pairAt l k && decide (decodeSlot (slotOf l k) = .ok (.nop ⟨pt⟩))) = true) ∧
    (∃ q, (State.reset.withFetchWord 96 0xF000).issue = [q] ∧ q.mask2 = 0 ∧ q.mask &&& ((State.reset.withFetchWord 96 0xF000).grp q.gk).pathAt q.pc ≠ 0 ∧
      ∃ l k t, State.findSlot { (({ State.reset.withFetchWord 96 0xF000 with issue := [] } : State).modGrp q.gk Group.settle) with
        cur := { q with mask := q.mask &&& ((State.reset.withFetchWord 96 0xF000).grp q.gk).pathAt q.pc, pc2 := 0, mask2 := 0, verdict := .stalled, pair := none } } = .slot l k t ∧
        (!pairAt l k && decide (decodeSlot (slotOf l k) = .ok (.nop ⟨pt⟩))) = true) ∧
    (∃ q, ({ bench with issue := [{ bench.cur with pc := 64 }] } : State).issue = [q] ∧ q.mask &&& (bench.grp q.gk).pathAt q.pc = 0) ∧ bench.issue = [] :=
  ⟨⟨_, _, rfl, by decide +kernel, by decide +kernel, fun b h => by cases h; exact .inl (by decide +kernel), by decide +kernel, by decide +kernel, on_slot (by decide +kernel)⟩,
    ⟨_, rfl, by decide +kernel, by decide +kernel, on_slot (by decide +kernel)⟩, ⟨_, rfl, by decide +kernel⟩, rfl⟩
theorem witness_StepKeepsMemory : (Memory.wf bench.mem.dram ∧ Memory.wf bench.mem.vault ∧ Memory.wf bench.mem.scratch ∧ Memory.wf bench.mem.host) ∧ goes (step bench) (fun _ => true) = true := by decide +kernel
theorem witness_vector_forms : ∀ e ∈ ([(.intArith, .s32), (.intArith, .s64), (.intNoSat, .s8), (.intMad, .z64), (.intUnary, .s16), (.logic, .z32), (.logicNot, .z64), (.select, .s32), (.shift, .z64), (.count, .z64),
      (.reverse, .z32), (.field, .s64), (.insert, .z64), (.permute, .z32), (.float2, .f32), (.float3, .f64), (.floatMin, .f16x2), (.floatClass, .f32), (.floatRound, .f64), (.floatSqrt, .f32), (.function, .f16),
      (.moveV, .z64), (.moveS, .z32), (.getSpr, .z64), (.leaR, .s32), (.shuffle, .z64), (.reduce, .f64)] : List (VSpec × Ty)),
    bench.VReady (e.1.form (vx e.2) (.ofTy e.2) true) ∧ bench.VReady (e.1.form (vx e.2) (.ofTy e.2) false) ∧ bench.VReady (e.1.formI (vi e.2 7) (.ofTy e.2)) := by
  have h : ∀ e ∈ ([(.intArith, .s32), (.intArith, .s64), (.intNoSat, .s8), (.intMad, .z64), (.intUnary, .s16), (.logic, .z32), (.logicNot, .z64), (.select, .s32), (.shift, .z64), (.count, .z64),
      (.reverse, .z32), (.field, .s64), (.insert, .z64), (.permute, .z32), (.float2, .f32), (.float3, .f64), (.floatMin, .f16x2), (.floatClass, .f32), (.floatRound, .f64), (.floatSqrt, .f32), (.function, .f16),
      (.moveV, .z64), (.moveS, .z32), (.getSpr, .z64), (.leaR, .s32), (.shuffle, .z64), (.reduce, .f64)] : List (VSpec × Ty)), ∀ x ∈ [e.1.form (vx e.2) (.ofTy e.2) true, e.1.form (vx e.2) (.ofTy e.2) false, e.1.formI (vi e.2 7) (.ofTy e.2)],
      (bench.hitsPending x.vr x.sr = false ∧ bench.rangeTrap x.vr = none) ∧ bench.latchTrap x.member x.latches = none := by decide +kernel
  exact fun e he => ⟨on_vready (h e he _ (by simp)), on_vready (h e he _ (by simp)), on_vready (h e he _ (by simp))⟩
theorem witness_vector_latch : inChain.VReady (VSpec.intArith.form { ab .s32 with a := .latch 0, b := .reg 2046 } .word true) ∧ inChain.OnPath := ⟨on_vready (by decide +kernel), on_path (by decide +kernel)⟩
theorem witness_IntegerWriteBack : Ty.s8 ∈ Ty.ints ∧ (intLo .s8 ≤ -128 ∧ (-128 : Int) ≤ intHi .s8) ∧ (intLo .s8 ≤ 127 ∧ 127 ≤ intHi .s8) ∧ -129 < intLo .s8 ∧ intHi .s8 < 128 ∧ Ty.s8.bits < 32 := by decide +kernel
theorem witness_PredicateResults : bench.VReady (VSpec.intSetp.form { ab .s32 with d := .reg 15 } .pred true) ∧ bench.VReady (VSpec.intSetp.formI (vi .s32 0) .pred) ∧ bench.VReady (VSpec.floatSetp.form (ab .f64) .pred true) ∧
    bench.VReady (VSpec.floatSetp.formI (vi .f32 0) .pred) ∧ bench.VReady (VSpec.setBit.form (only_a .z32) .pred true) ∧ bench.VReady ⟨pt, .pred, .reg 5, [], [], [], true⟩ ∧
    ((vx .z32).a = .reg 4 ∧ (vx .z32).b = .reg 6 ∧ (vx .z32).c = .reg 8) :=
  ⟨on_vready (by decide +kernel), on_vready (by decide +kernel), on_vready (by decide +kernel), on_vready (by decide +kernel), on_vready (by decide +kernel), on_vready (by decide +kernel), rfl, rfl, rfl⟩
theorem witness_LogicResults : (0 < 8 ∧ 0x80 < 2 ^ 8 ∧ 7 < 8) ∧ 0 < 64 := by decide
theorem witness_BitResults : (0x0F : Nat) < 2 ^ 32 ∧ (0xFFFFFFFF : Nat) < 2 ^ 32 ∧ 31 < 32 := by decide
theorem witness_FloatResults : (vi .f32 0).d = .reg 2 ∧ bench.VReady (VSpec.float2.formI (vi .f32 0) .word) := ⟨rfl, on_vready (by decide +kernel)⟩
theorem witness_ConversionResults : bench.VReady ⟨pt, .ofTy (cvtDst { only_a .s8 with op8 := 0xBA }).regTy, .reg 2, cvtRuns { only_a .s8 with op8 := 0xBA }, [], [], true⟩ := on_vready (by decide +kernel)
theorem witness_MoveResults : (only_a .z32).a = .reg 4 ∧ bench.VReady ⟨pt, .word, .reg 2, VSpec.moveS.runs (only_a .z32), [(4, 1)], [], true⟩ := ⟨rfl, on_vready (by decide +kernel)⟩
theorem witness_CrossLaneResults : ((only_a .z32).a = .reg 4 ∧ (2 : BitVec 8).toNat < 3 ∧ bench.VReady ⟨pt, .pred, .reg 5, [], [], [], false⟩) ∧
    3 ≤ (3 : BitVec 8).toNat ∧ 3 ≤ (7 : BitVec 8).toNat ∧ bench.VReady ⟨pt, .word, .reg 2, VSpec.voteM.runs (only_a .z32), [], [], false⟩ :=
  ⟨⟨rfl, by decide, on_vready (by decide +kernel)⟩, by decide, by decide, on_vready (by decide +kernel)⟩
/-- Every lane's handle 3 follows an operation that is complete. -/
def finished : State := { benchG (fun g => g.each (BitVec.allOnes 32) fun h i => h.wrH 3 i 1) with ops := [(1, { Op.none with perf := 5, kind := .copy })], nextOp := 2 }
theorem witness_HandleMove : finished.OnPath ∧ finished.Ready (VSpec.moveH.runs { only_a .z32 with a := .reg 3, op8 := 1 }) [] ∧ finished.HandleFree (finished.trueLanes pt) ((3 : BitVec 11).toNat % 16) := ⟨on_path (by decide +kernel), on_ready (by decide +kernel), by decide +kernel, by decide +kernel⟩
theorem witness_ScalarResults : bench.Ready [] [(255, 1), (0, 1), (3, 1)] ∧ bench.Ready [] [(255, 1), (0, 1)] ∧ bench.trueLanes pt ≠ 0 ∧ bench.trueLanes ⟨false, 0⟩ = 0 ∧ Ty.z64 ∈ Ty.ints :=
  ⟨on_ready (by decide +kernel), on_ready (by decide +kernel), by decide +kernel, by decide +kernel, by decide⟩
theorem witness_ScalarRegisters : (bench.Ready [] [(255, 1), (0, 1)] ∧ bench.Ready [] [(255, 1)] ∧ bench.trueLanes pt ≠ 0 ∧ (⟨pt, 1, 0x010⟩ : SprArgs).num = 0x010) ∧
    (agent.Ready [] [(255, 1)] ∧ agent.trueLanes pt ≠ 0 ∧ isAgent agent.cur.gk = true ∧ agent.teamsOn agent.curCore = [0] ∧ (⟨pt, 1, 0x020⟩ : SprArgs).num = 0x020) ∧
    (⟨pt, 1, 0x021⟩ : SprArgs).num ≠ 0x010 ∧ isAgent bench.cur.gk = false :=
  ⟨⟨on_ready (by decide +kernel), on_ready (by decide +kernel), by decide +kernel, rfl⟩, ⟨on_ready (by decide +kernel), by decide +kernel, by decide, by decide +kernel, rfl⟩, by decide, by decide⟩
theorem witness_Transfers : (bench.OnPath ∧ bench.Ready [] [] ∧ bench.Ready [(2044, 2)] [] ∧ ∃ u, bench.endChain.checkTarget (braTarget bench.cur.pc ⟨pt, 6, 0, 0, 0⟩) = .ok u) ∧
    aimed.OnPath ∧ aimed.Ready [(2, 2)] [] ∧ ∃ u, State.checkLanes (fun i => aimed.g.rdPair 2 i) (lanesOf (aimed.trueLanes pt)) aimed.endChain = ([], false, u) :=
  ⟨⟨on_path (by decide +kernel), on_ready (by decide +kernel), on_ready (by decide +kernel), on_target (by decide +kernel)⟩, on_path (by decide +kernel), on_ready (by decide +kernel),
    on_two (by decide +kernel)⟩

/-- The team has one reconvergence entry at most. -/
def shallow : State := { bench with teams := tabPut bench.teams 0 { bench.tm with depth := 1 } }
/-- Lane 0 waits at the RJOIN of entry 0, the others issue it. -/
def lastOnes : State := { inEntry.modG (fun g => g.setWait 0 (.rjoin 0)) with cur := { bench.cur with mask := 0xFFFFFFFE } }
/-- Only lane 0 issues; the others of entry 0 have not come. -/
def firstOne : State := { inEntry with cur := { bench.cur with mask := 1 } }
/-- The reconvergence PC of the entry is another slot. -/
def elsewhere : State := inEntry.modG fun g => g.wrEntry 2048 16 0 ⟨127, rcvBits 65536 65552, BitVec.allOnes 32⟩
theorem witness_ReconvergencePush : (bench.OnPath ∧ bench.Ready [] [] ∧ bench.liveCount + (pushGroups bench.g (bench.trueLanes pt)).length ≤ bench.tm.depth) ∧
    (shallow.OnPath ∧ shallow.Ready [] [] ∧ shallow.liveCount + (pushGroups shallow.g (shallow.trueLanes pt)).length = shallow.tm.depth) ∧
    0 ∈ inEntry.g.liveEntries inEntry.tm.regs inEntry.tm.depth :=
  ⟨⟨on_path (by decide +kernel), on_ready (by decide +kernel), by decide +kernel⟩, ⟨on_path (by decide +kernel), on_ready (by decide +kernel), by decide +kernel⟩, by decide +kernel⟩
theorem witness_ReconvergenceJoin :
    (firstOne.OnPath ∧ firstOne.Ready [] [] ∧ firstOne.waitsHere pt 0 ∧ ¬ firstOne.completes pt 0) ∧ (elsewhere.OnPath ∧ elsewhere.Ready [] [] ∧ elsewhere.cur.mask.getLsbD 31 ∧ ¬ elsewhere.waitsHere pt 31) ∧
    (lastOnes.OnPath ∧ lastOnes.Ready [] [] ∧ lastOnes.completes pt 0 ∧ ¬ lastOnes.cur.mask.getLsbD 0) ∧
    (inEntry.OnPath ∧ inEntry.Ready [] [] ∧ 0 < (1 : BitVec 4).toNat ∧ (∃ u, inEntry.endChain.checkTarget (braTarget inEntry.cur.pc ⟨pt, 0, 0, 0, 1⟩) = .ok u) ∧ (∀ i < 32, inEntry.g.innerOf i ≤ 128) ∧
      ∀ i, (inEntry.trueLanes pt).getLsbD i → (1 : BitVec 4).toNat ≤ (inEntry.g.chainOf inEntry.tm.regs inEntry.tm.depth 64 (inEntry.g.innerOf i)).length) := by
  refine ⟨⟨on_path (by decide +kernel), on_ready (by decide +kernel), ?_, ?_⟩, ⟨on_path (by decide +kernel), on_ready (by decide +kernel), by decide +kernel, ?_⟩,
    ⟨on_path (by decide +kernel), on_ready (by decide +kernel), ?_, by decide +kernel⟩, on_path (by decide +kernel), on_ready (by decide +kernel), by decide, on_target (by decide +kernel), by decide +kernel, on_lanes (by decide +kernel)⟩
  · unfold State.waitsHere; decide +kernel
  · have h : ¬ ((firstOne.g.rdEntry firstOne.tm.regs firstOne.tm.depth 0).expected.getLsbD 1 = true → firstOne.cur.mask.getLsbD 1 = true ∨ firstOne.g.waitOf 1 = .rjoin 0) := by decide +kernel
    exact fun hc => h fun he => (hc.2.2 1 he).imp (fun w => (show (firstOne.trueLanes pt).getLsbD 1 = true → firstOne.cur.mask.getLsbD 1 = true by decide +kernel) w.1.1) And.right
  · unfold State.waitsHere; decide +kernel
  · refine ⟨by decide +kernel, by decide +kernel, on_lanes ?_⟩
    unfold State.waitsHere; decide +kernel
theorem witness_ExitResults : bench.OnPath ∧ bench.Ready [] [] ∧ bench.trueLanes pt ≠ 0 := ⟨on_path (by decide +kernel), on_ready (by decide +kernel), by decide +kernel⟩
theorem witness_TrapEntry : isAgent bench.cur.gk = false ∧ bench.gr.policy = 1 ∧ ({ cause := 1, mask := 1 } : Trap).moved = none ∧ bench.cur.mask.getLsbD 31 ∧ bench.g.waitOf 31 ≠ .exited ∧
    isAgent (benchR fun r => { r with policy := 0 }).cur.gk = false ∧ (benchR fun r => { r with policy := 0 }).gr.policy ≠ 1 := by decide +kernel
theorem witness_TrapInstructions : bench.Ready [] [] ∧ bench.trueLanes pt ≠ 0 ∧ bench.trueLanes ⟨false, 0⟩ = 0 := ⟨on_ready (by decide +kernel), by decide +kernel, by decide +kernel⟩
theorem witness_ChainRollback : bench.OnPath ∧ bench.VReady (VSpec.intArith.form (ab .s32) .word true) ∧ bench.VReady (VSpec.intSetp.form (ab .s32) .pred true) ∧ latchNo (ab .s32).a ++ latchNo (ab .s32).b ++ latchNo (ab .s32).c = [] :=
  ⟨on_path (by decide +kernel), on_vready (by decide +kernel), on_vready (by decide +kernel), by decide⟩
/-- v4 is pending: a load that will write it is logged. -/
def pendingV4 : State := { bench with logs := [(1, { Log.empty with dst := 4, cnt := 1, mask := 1, lanes := 1 })], nextLog := 2 }
theorem witness_RegisterChecks : pendingV4.hitsPending (VSpec.intArith.runs (ab .s32)) [] = true ∧ bench.hitsPending (VSpec.moveV.runs { only_a .z32 with a := .reg 2047 }) [] = false ∧
    bench.rangeTrap (VSpec.moveV.runs { only_a .z32 with a := .reg 2047 }) = some 2047 ∧ bench.rangeTrap (VSpec.moveV.runs { only_a .z64 with a := .reg 2046 }) = some 2047 ∧
    latchNo (.reg 4) ++ latchNo (.reg 0) ++ latchNo (.reg 0) = [] := by decide +kernel
def someLanes : Guard := ⟨false, 1⟩
/-- Guard p1 holds in lane 2 alone. -/
def lane2 : State := benchG fun g => g.wrP 1 2 true
/-- Lane 2's thread has arrived at barrier 3 already. -/
def arrived : State := lane2.setBar 0 3 false { Barrier.empty with arrived := 4, marks := 4 }
theorem witness_BarrierResults :
    (lane2.OnPath ∧ lane2.Ready [] [] ∧ lane2.trueLanes someLanes ≠ 0 ∧ isAgent lane2.cur.gk = false ∧ (∀ e ∈ [Scope.team, .clus], lane2.fencePassed lane2.cur.gk (lane2.trueLanes someLanes) e = true) ∧
      ∀ clus ∈ [false, true], State.within (lane2.expectedThreads 0 clus) (lane2.threadBit 0 2 clus) = false) ∧
    (arrived.OnPath ∧ arrived.Ready [] [] ∧ (arrived.bar 0 3 false).arrived &&& arrived.threadBit 0 2 false ≠ 0 ∧ State.within (arrived.expectedThreads 0 false) (arrived.bar 0 3 false).arrived = false) ∧
    (bench.OnPath ∧ bench.Ready [] [] ∧ ∀ clus ∈ [false, true], bench.expectedThreads 0 clus ≠ 0 ∧
      State.within (bench.expectedThreads 0 clus) ((lanesOf (bench.trueLanes pt)).foldl (fun m i => m ||| bench.threadBit 0 i clus) (bench.bar 0 3 clus).arrived) = true ∧ 0 ∈ bench.members 0 ∧
      bench.againList 0 3 clus = [] ∧ ∀ i < 32, (bench.bar 0 3 clus).arrived &&& bench.threadBit 0 i clus = 0) ∧
    ((arrived.bar 0 3 false).marks &&& arrived.threadBit 0 2 false ≠ 0 ∧ (arrived.bar 0 3 false).markOpen &&& arrived.threadBit 0 2 false = 0) :=
  ⟨⟨on_path (by decide +kernel), on_ready (by decide +kernel), by decide +kernel, by decide, by decide +kernel, by decide +kernel⟩,
    ⟨on_path (by decide +kernel), on_ready (by decide +kernel), by decide +kernel, by decide +kernel⟩, ⟨on_path (by decide +kernel), on_ready (by decide +kernel), by decide +kernel⟩, by decide +kernel⟩
/-- The team is the second of its grid. -/
def second : State := { bench with teams := tabPut bench.teams 0 { bench.tm with index := 1 } }
theorem witness_OrderedSections : (bench.OnPath ∧ bench.Ready [] [] ∧ bench.tm.index ≤ bench.frontier bench.curCore bench.tm.grid 2) ∧
    (second.OnPath ∧ second.Ready [] [] ∧ second.frontier second.curCore second.tm.grid 2 < second.tm.index) ∧
    bench.fencePassed bench.cur.gk (bench.trueLanes pt) .dev = true ∧ bench.liveThreads (teamOf bench.cur.gk) ≠ 0 ∧
      State.within (bench.liveThreads (teamOf bench.cur.gk)) (tabGet 0 bench.gr.ords 2 ||| ((bench.trueLanes pt).toNat * 2 ^ (32 * gidOf bench.cur.gk))) = true ∧ tabFind bench.gr.signalled 2 = none ∧
    lane2.OnPath ∧ lane2.fencePassed lane2.cur.gk (lane2.trueLanes someLanes) .dev = true ∧
      State.within (lane2.liveThreads (teamOf lane2.cur.gk)) (tabGet 0 lane2.gr.ords 2 ||| ((lane2.trueLanes someLanes).toNat * 2 ^ (32 * gidOf lane2.cur.gk))) = false :=
  ⟨⟨on_path (by decide +kernel), on_ready (by decide +kernel), by decide +kernel⟩, ⟨on_path (by decide +kernel), on_ready (by decide +kernel), by decide +kernel⟩,
    by decide +kernel, by decide +kernel, by decide +kernel, by decide +kernel, on_path (by decide +kernel), by decide +kernel, by decide +kernel⟩
/-- s2 asks for n more teams. -/
def grows (n : DWord) : State := benchG fun g => g.wrS 2 n
theorem witness_GrowResults : (bench.Ready [] [(1, 1), (2, 1)] ∧ bench.trueLanes pt ≠ 0 ∧ bench.fencePassed bench.cur.gk (bench.trueLanes pt) .dev = true ∧ (bench.g.rdS 2).toNat = 0) ∧
    ((grows 0xFFFFFFFF).Ready [] [(1, 1), (2, 1)] ∧ (grows 0xFFFFFFFF).fencePassed 0 (bench.trueLanes pt) .dev = true ∧ ((grows 0xFFFFFFFF).g.rdS 2).toNat = 0xFFFFFFFF ∧ bench.gr.ny * bench.gr.nz = 1 ∧
      bench.gr.kernel.cn = 0 ∧ bench.gr.count + 0xFFFFFFFF ≤ 2 ^ 32) ∧
    ((grows 0x100000000).Ready [] [(1, 1), (2, 1)] ∧ (grows 0x100000000).fencePassed 0 (bench.trueLanes pt) .dev = true ∧ 2 ^ 32 < bench.gr.count + ((grows 0x100000000).g.rdS 2).toNat) :=
  ⟨⟨on_ready (by decide +kernel), by decide +kernel, by decide +kernel, by decide +kernel⟩, ⟨on_ready (by decide +kernel), by decide +kernel, by decide +kernel, by decide +kernel, by decide +kernel, by decide +kernel⟩,
    on_ready (by decide +kernel), by decide +kernel, by decide +kernel⟩
/-- Lane 3 has stored at time 0, and GTIME is 2 ns. -/
def stored : State := { benchG fun g => { g with storeP := [(3, 1)] } with third := 9 }
/-- Lane 3's store has been performed later than that. -/
def storedLate : State := { benchG fun g => { g with storeP := [(3, 2)] } with third := 9 }
theorem witness_FenceResults : (stored.Ready [] [] ∧ stored.trueLanes pt ≠ 0 ∧ ¬ ((∃ e ∈ stored.logs, e.2.gk = stored.cur.gk ∧ e.2.kind ≠ .prefetch) ∨ stored.ctrValue stored.cur.gk 2 ≠ 0 ∨ ∃ i p, (stored.trueLanes pt).getLsbD i = true ∧
      ((tabFind stored.g.storeP i = some p ∧ stored.gtime stored.curCore < p + 2) ∨ (tabFind stored.g.atomP i = some p ∧ stored.gtime stored.curCore < p)))) ∧
    (stored.trueLanes ⟨false, 0⟩ = 0) ∧ (pendingV4.Ready [] [] ∧ pendingV4.trueLanes pt ≠ 0 ∧ ∃ e ∈ pendingV4.logs, e.2.gk = pendingV4.cur.gk ∧ e.2.kind ≠ .prefetch) ∧
    (storedLate.Ready [] [] ∧ (storedLate.trueLanes pt).getLsbD 3 = true ∧ tabFind storedLate.g.storeP 3 = some 2 ∧ storedLate.gtime storedLate.curCore < 2 + 20) := by
  have h3 : stored.now = 3 ∧ storedLate.now = 3 := by decide +kernel
  refine ⟨⟨on_ready (by decide +kernel), by decide +kernel, ?_⟩, by decide +kernel, ⟨on_ready (by decide +kernel), by decide +kernel, by decide +kernel⟩, on_ready (by decide +kernel), by decide +kernel, by decide +kernel, ?_⟩
  · rintro (h | h | ⟨i, p, -, h | h⟩)
    · exact absurd h (by decide +kernel)
    · exact absurd h (by decide +kernel)
    · have hs : stored.g.storeP = [(3, 1)] := by decide +kernel
      have hp : p = 1 := by
        have := h.1
        rw [hs] at this; simp only [tabFind] at this; split at this <;> simp_all
      have := h.2
      unfold State.gtime at this; omega
    · have hs : stored.g.atomP = [] := by decide +kernel
      have := h.1
      rw [hs] at this; simp [tabFind] at this
  · unfold State.gtime; omega
/-- Handle 3's operation of lane 0 is outstanding under COPY. -/
def outstanding : State := { benchG fun g => (g.setCtr 0 [1]).wrH 3 0 1 with ops := [(1, { Op.none with st := .pending, mark := 1 })], nextOp := 2 }
theorem witness_CounterWaits : bench.Ready [] [] ∧ bench.trueLanes pt ≠ 0 ∧ (∀ c ∈ [0, 1, 2, 3], bench.ctrValue bench.cur.gk c ≤ (0 : BitVec 8).toNat) ∧ bench.logBusy bench.cur.gk = false ∧ bench.failedEntry 0 = none ∧
    outstanding.Ready [] [] ∧ outstanding.trueLanes pt ≠ 0 ∧ (0 : BitVec 8).toNat < outstanding.ctrValue outstanding.cur.gk (Ctr.code .copy) :=
  ⟨on_ready (by decide +kernel), by decide +kernel, by decide +kernel, by decide +kernel, by decide +kernel, on_ready (by decide +kernel), by decide +kernel, by decide +kernel⟩

/-- Lane i's pair v2:v3 holds a + step·i. -/
def bases (a step : Nat) : State := benchG fun g => g.each (BitVec.allOnes 32) fun h i => h.wrPair 2 i (BitVec.ofNat 64 (a + step * i))
/-- s2 holds an address. -/
def sbased : State := benchG fun g => g.wrS 2 65536
/-- The page of bench is mapped by another leaf. -/
def leafed (e : DWord) (s : State := bench) : State := s.modCore 0 fun k => { k with tlb := [⟨0, 65536, 65536, e⟩] }
/-- The team has 4 KiB of scratchpad and its context holds a vault block. -/
def roomy : State := { bench with teams := tabPut bench.teams 0 { bench.tm with scratch := 4096 }, mem := { bench.mem with vaultAlloc := [(0, (65536, 0))] } }
theorem on_with {α β : Type} {p : α × β} {a : α} {q : β → Prop} (h : p.1 = a) (hq : q p.2) : ∃ b, p = (a, b) ∧ q b := ⟨p.2, by rw [← h], hq⟩
theorem on_page {s : State} {c asid va pa size : Nat} {e : DWord} (h : (s.translate c asid va).1 = .page pa e size) : ∃ u, s.translate c asid va = (.page pa e size, u) := on_fst h
theorem witness_AccessChecks :
    (bench.issueChecks 0 0xFFFFFFFF (fun i => 65536 + 4 * i) 4 false = none) ∧
    (∃ p, bench.issueChecks 0 6 (fun _ => 2 ^ 56) 4 false = some p ∧ (6 : LaneMask).getLsbD 1 ∧ canonical (2 ^ 56) = false) ∧
    (∃ p, bench.issueChecks 0 6 (fun i => if i = 2 then 65537 else 65536) 4 false = some p ∧ (∀ i < 32, canonical (if i = 2 then 65537 else 65536) = true) ∧ 65537 % 4 ≠ 0) ∧
    (∃ p, bench.issueChecks 0 6 (fun _ => 0xF000000FFFFFFF) 3 false = some p ∧ p.cause = 0x09) ∧ (∃ p, bench.issueChecks 0 6 (fun _ => teamBase) 4 true = some p ∧ p.cause = 0x0A) ∧
    (∃ p, bench.issueChecks 0 6 (fun i => if i = 2 then vaultBase + 18 * 2 ^ 24 else 65536) 4 false = some p ∧ p.cause = 0x0B ∧ p.mask = 4 ∧ canonical (vaultBase + 18 * 2 ^ 24) = true) ∧
    ((bases 65537 4).trueLanes pt ≠ 0 ∧ (bases 65537 4).Ready ((4, 1) :: (State.baseRuns false 2 0).1) (State.baseRuns false 2 0).2 ∧
      ∀ write, ∃ p, (bases 65537 4).issueChecks (bases 65537 4).cur.gk ((bases 65537 4).trueLanes pt) ((bases 65537 4).memAddr false 2 0 ((16 : BitVec 24).signExtend 64)) 4 write = some p) :=
  ⟨by decide +kernel, ⟨_, rfl, by decide, by decide +kernel⟩, ⟨_, rfl, by decide +kernel, by decide⟩, ⟨_, rfl, by decide +kernel⟩, ⟨_, rfl, by decide +kernel⟩, ⟨_, Option.eq_some_of_isSome (by decide +kernel), by decide +kernel⟩, by decide +kernel, on_ready (by decide +kernel),
    fun write => by cases write <;> exact ⟨_, Option.eq_some_of_isSome (by decide +kernel)⟩⟩
theorem on_maylog {s : State} {t acc : LaneMask} {a : Nat → Nat} {w : Nat} {write : Bool} (h : t ≠ 0 ∧ s.issueChecks s.cur.gk acc a w write = none ∧ s.replayBad acc a = 0 ∧ s.logFull s.cur.gk = false) : s.MayLog t acc a w write := h
theorem witness_LoadIssue : (based.Ready ((mx.d.toNat, countOf mx.count) :: (State.baseRuns mx.sbase mx.a mx.b).1) (State.baseRuns mx.sbase mx.a mx.b).2 ∧
      based.MayLog (based.trueLanes mx.guard) (based.trueLanes mx.guard) (based.memAddr mx.sbase mx.a mx.b (mx.off.signExtend 64)) mx.bytes false ∧ based.logFull based.cur.gk = false ∧ based.logBusy based.cur.gk = false) ∧
    (sbased.Ready [] ((4, 1) :: (State.baseRuns true 2 0).2) ∧ sbased.MayLog (sbased.trueLanes pt) (sbased.oneLane pt) (sbased.memAddr true 2 0 ((16 : BitVec 24).signExtend 64)) 4 false) ∧
    ((bases 65648 4).Ready ((4, 1) :: (State.baseRuns false 2 0).1) (State.baseRuns false 2 0).2 ∧ (∀ i, ((bases 65648 4).trueLanes pt).getLsbD i → (bases 65648 4).memAddr false 2 0 ((16 : BitVec 24).signExtend 64) i = 65664 + 4 * i) ∧
      (bases 65648 4).memAddr false 2 0 ((16 : BitVec 24).signExtend 64) (lowLane ((bases 65648 4).trueLanes pt)) / 128 * 128 = 65664 ∧
      (bases 65648 4).MayLog ((bases 65648 4).trueLanes pt) ((bases 65648 4).oneLane pt) (fun _ => 65664) 128 false) :=
  ⟨⟨on_ready (by decide +kernel), on_maylog (by decide +kernel), by decide +kernel, by decide +kernel⟩, ⟨on_ready (by decide +kernel), on_maylog (by decide +kernel)⟩,
    on_ready (by decide +kernel), on_lanes (by decide +kernel), by decide +kernel, on_maylog (by decide +kernel)⟩
theorem witness_StoreIssue : (based.Ready ((4, 1) :: (State.baseRuns false 2 0).1) (State.baseRuns false 2 0).2 ∧ based.MayLog (based.trueLanes pt) (based.trueLanes pt) (based.memAddr false 2 0 ((16 : BitVec 24).signExtend 64)) 4 true ∧
      ∀ e ∈ [Scope.team, .clus, .dev, .sys], based.fencePassed based.cur.gk (based.trueLanes pt) e = true) ∧
    (sbased.Ready [] ((4, 1) :: (State.baseRuns true 2 0).2) ∧ sbased.MayLog (sbased.trueLanes pt) (sbased.oneLane pt) (sbased.memAddr true 2 0 ((16 : BitVec 24).signExtend 64)) 4 true) ∧
    ((bases 65648 4).Ready ((4, 1) :: (State.baseRuns false 2 0).1) (State.baseRuns false 2 0).2 ∧ (∀ i, ((bases 65648 4).trueLanes pt).getLsbD i → (bases 65648 4).memAddr false 2 0 ((16 : BitVec 24).signExtend 64) i = 65664 + 4 * i) ∧
      (bases 65648 4).MayLog ((bases 65648 4).trueLanes pt) ((bases 65648 4).oneLane pt) (fun _ => 65664) 128 true) :=
  ⟨⟨on_ready (by decide +kernel), on_maylog (by decide +kernel), by decide +kernel⟩, ⟨on_ready (by decide +kernel), on_maylog (by decide +kernel)⟩, on_ready (by decide +kernel), on_lanes (by decide +kernel), on_maylog (by decide +kernel)⟩
/-- Tables of ASID 0 that lead to a level-1 entry of VA 65536. -/
def tabled (e : DWord) : State :=
  { bench with roots := [(0, 0xA0000)], mem := { bench.mem with dram := memPut (memPut (memPut (memPut bench.mem.dram 0xA0000 0xA1001 8) 0xA1000 0xA2001 8) 0xA2000 0xA3001 8) 0xA3008 e.toNat 8 } }
/-- The page is exact-sum memory that no descriptor covers, and no core holds its translation; base pairs as in `based`. -/
def sumless : State := { tabled 0x800000000002003B with cores := [], groups := based.groups }
def sumMask (s : State) : LaneMask := s.badSum { Log.empty with atom := some (.afadd ax) } (s.trueLanes pt) (s.memAddr false 2 0 ((16 : BitVec 16).signExtend 64))
theorem witness_AtomicIssue : (sumMask sumless ≠ 0 ∧ sumMask based = 0 ∧ sumless.issueChecks sumless.cur.gk (sumless.trueLanes pt) (sumless.memAddr false 2 0 ((16 : BitVec 16).signExtend 64)) (atomBytes ax) true = none ∧
    sumless.Ready [(4, 1), (2, 2), (6, 1)] []) ∧ based.Ready [(4, 1), (2, 2), (6, 1)] [] ∧ based.Ready [(2, 2), (6, 1), (8, 1)] [] ∧ based.MayLog (based.trueLanes pt) (based.trueLanes pt) (based.memAddr false 2 0 ((16 : BitVec 16).signExtend 64)) (atomBytes ax) true ∧
    ax.nr = false ∧ based.ctrFull 2 = false := ⟨⟨by decide +kernel, by decide +kernel, by decide +kernel, on_ready (by decide +kernel)⟩, on_ready (by decide +kernel), on_ready (by decide +kernel), on_maylog (by decide +kernel), rfl, by decide +kernel⟩
theorem witness_MemoryBytes :
    ((∃ u, (leafed 0x20033).translate 0 0 65664 = (.page 131200 0x20033 65536, u)) ∧ Pte.xs 0x20033 = false ∧ Pte.r 0x20033 = false) ∧
    ((∃ u, bench.translate 0 0 65664 = (.page 131200 0x2003B 65536, u) ∧ u.l1Copy 0 131200 = none) ∧ Pte.xs 0x2003B = false ∧ Pte.r 0x2003B = true ∧ Pte.w 0x2003B = true ∧ Pte.k 0x2003B = false) ∧
    ((∃ u, (leafed 0x2002B).translate 0 0 65664 = (.page 131200 0x2002B 65536, u)) ∧ Pte.w 0x2002B = false) ∧
    ((∃ u, (leafed 0x100000000002003B).translate 0 0 65664 = (.page 131200 0x100000000002003B 65536, u)) ∧ Pte.k 0x100000000002003B = true) ∧
    (roomy.placeOf 0 5 (teamBase + 4092) 4 = some (.scratch 4092) ∧ roomy.placeOf 0 5 (vaultBase + 65532) 4 = some (.vault 65532)) ∧ (Ty.z32.signed = false ∧ Ty.s64.signed = true) :=
  ⟨⟨on_page (by decide +kernel), by decide, by decide⟩, ⟨on_with (q := fun u : State => u.l1Copy 0 131200 = none) (by decide +kernel) (by decide +kernel), by decide⟩,
    ⟨on_page (by decide +kernel), by decide⟩, ⟨on_page (by decide +kernel), by decide⟩, by decide +kernel, by decide⟩

/-- A load, atomic or prefetch entry whose part of lane 0 has been performed. -/
def entry (kind : LogKind) (st : LaneSt) : Log := { Log.empty with kind, mask := 1, lanes := 1, width := 4, unit := 4, addr := [(0, 65664)], dst := 4, cnt := 1, st := [(0, st)], got := [(0, 7)], atom := some (.aadd ax), data := [(0, 1)] }
def withEntry (e : Log) : State := { bench with logs := [(1, e)], nextLog := 2, third := 30 }
theorem witness_ReturnEvents :
    (∀ k ∈ [LogKind.load, .acquire, .lineLoad, .atomic], tabFind (withEntry (entry k .done)).logs 1 = some (entry k .done) ∧ switchedOut (entry k .done).gk = false ∧ State.logDone (entry k .done) = true ∧
      (withEntry (entry k .done)).reached 0 (entry k .done).tr = true ∧ (entry k .done).nr = false) ∧
    (tabFind (withEntry { entry .load .done with scalar := true }).logs 1 = some { entry .load .done with scalar := true } ∧ State.logDone { entry .load .done with scalar := true } = true) ∧
    (tabFind (withEntry { entry .atomic .done with nr := true, mark := 1 }).logs 1 = some { entry .atomic .done with nr := true, mark := 1 } ∧ State.logDone { entry .atomic .done with nr := true } = true ∧
      (withEntry { entry .atomic .done with nr := true, mark := 1 }).reached 0 (0 + epsilon .team) = true) ∧
    (tabFind (withEntry (entry .prefetch .todo)).logs 1 = some (entry .prefetch .todo) ∧ switchedOut (entry .prefetch .todo).gk = false) := by decide +kernel
/-- Lane 0's part is due, lane 1's is at another device. -/
def halfSent : Log := { entry .load .todo with addr := [(0, 65664), (1, 65668)], st := [(0, .todo), (64, .sent)] }
theorem witness_PerformEvents :
    (∀ k ∈ [LogKind.store, .release], tabFind (withEntry (entry k .todo)).logs 1 = some (entry k .todo) ∧ switchedOut (entry k .todo).gk = false ∧ (entry k .todo).parked = false ∧ (withEntry (entry k .todo)).readyParts 1 (entry k .todo) (some 0) = [0]) ∧
    (∃ x p u, (withEntry (entry .store .todo)).writeAt 0 0 65664 4 1 = .ok x p u) ∧ State.logDone { entry .store .todo with st := tabPut (entry .store .todo).st 0 .done } = true ∧
    ((withEntry (entry .atomic .todo)).readyParts 1 (entry .atomic .todo) (some 0) = [0] ∧ (entry .atomic .todo).atom = some (.aadd ax) ∧ ∃ x p u, (withEntry (entry .atomic .todo)).atomAt 0 0 65664 4 (atomOp (.aadd ax) 1 0) = .ok x p u) ∧
    (tabFind (withEntry halfSent).logs 1 = some halfSent ∧ (withEntry halfSent).readyParts 1 halfSent none = [0] ∧ State.logDone { halfSent with st := tabPut halfSent.st 0 .done } = false ∧
      ∃ x p u, (withEntry halfSent).readAt 0 0 65664 4 .l1 = .ok x p u) ∧
    tabFind (withEntry (entry .load (.faulted 1))).logs 1 = some (entry .load (.faulted 1)) :=
  ⟨by decide +kernel, on_acc (by decide +kernel), by decide +kernel, ⟨by decide +kernel, by decide +kernel, on_acc (by decide +kernel)⟩, ⟨by decide +kernel, by decide +kernel, by decide +kernel, on_acc (by decide +kernel)⟩, by decide +kernel⟩
/-- Slice 0 holds its 65,536 lines, here all named 4, whose lease ends at h. -/
def fullSlice (h : Nat) : State := { bench with mem := { bench.mem with resident := List.replicate 65536 (4, true), horizon := [(4, h)] } }
theorem on_full (h : Nat) : (fullSlice h).mem.resident.filter (fun e => sliceOf (e.1 * 128) = sliceOf (131072 / 128 * 128)) = List.replicate 65536 (4, true) := by
  show (List.replicate 65536 (4, true)).filter _ = _
  rw [List.filter_replicate, if_pos (by decide +kernel)]
theorem on_full_mem {h : Nat} {e : Nat × Bool} (he : e ∈ (fullSlice h).mem.resident.filter (fun e => sliceOf (e.1 * 128) = sliceOf (131072 / 128 * 128))) : e = (4, true) := by
  rw [on_full] at he; exact List.eq_of_mem_replicate he
/-- An access of core 1 to VA 65,540 is on its way to another device. -/
def invalidating (remote : Tab Remote) : State := { bench with invals := [(0, 65536, 131072, [9])], share := { bench.share with remote } }
def anyRemote : Remote := { entry := 1, lane := 0, peer := 1, pkt := ⟨1, 0, 0, false, Pk.load, 0, 0, 0, 65540, 0, [9, 1, 4, 0]⟩, stamp := 0, resent := 0, through := true }
theorem witness_HomeEvents : ((bench.core 0).l1.length < 1024 ∧ ∃ u, bench.allocLine (131072 / 128) = some u) ∧ (tabGet false bench.mem.resident (131072 / 128) = false ∧ (bench.mem.resident.filter fun e => sliceOf (e.1 * 128) = sliceOf 131072).length < 65536) ∧
    (∀ h ∈ [0, 100], tabGet false (fullSlice h).mem.resident (131072 / 128) = false ∧ 65536 ≤ ((fullSlice h).mem.resident.filter (fun e => sliceOf (e.1 * 128) = sliceOf (131072 / 128 * 128))).length) ∧
    (∀ e ∈ (fullSlice 100).mem.resident.filter (fun e => sliceOf (e.1 * 128) = sliceOf (131072 / 128 * 128)), (fullSlice 100).sliceTime (sliceOf (131072 / 128 * 128)) < tabGet 0 (fullSlice 100).mem.horizon e.1) ∧
    (∃ e ∈ (fullSlice 0).mem.resident.filter (fun e => sliceOf (e.1 * 128) = sliceOf (131072 / 128 * 128)), tabGet 0 (fullSlice 0).mem.horizon e.1 ≤ (fullSlice 0).sliceTime (sliceOf (131072 / 128 * 128))) ∧
    (bench.invals.find? (fun e => e.1 = 0 && e.2.1 = 65536 && e.2.2.1 = 131072) = none ∧ (invalidating [(9, anyRemote)]).invals.find? (fun e => e.1 = 0 && e.2.1 = 65536 && e.2.2.1 = 131072) = some (0, 65536, 131072, [9]) ∧
      (tabFind (invalidating [(9, anyRemote)]).share.remote 9).isSome = true ∧ tabFind (invalidating []).share.remote 9 = none ∧ anyRemote.pkt.va = 65540) ∧
    ((tabled 0x2003B).walk 0 65540 = .page 131076 0x2003B 65536 ∧ (((tabled 0x2003B).walkReads 0 65540).foldl State.readLevel (some (tabled 0x2003B))).isSome = true ∧ (tabled 0x2003B).walksOf (State.dieOf 1) = []) := by
  refine ⟨⟨by decide +kernel, Option.isSome_iff_exists.1 (by decide +kernel)⟩, by decide +kernel, fun h _ => ⟨?_, by rw [on_full, List.length_replicate]⟩, fun e he => ?_, ⟨(4, true), ?_, ?_⟩, by decide +kernel, by decide +kernel⟩
  · show tabGet false (List.replicate 65536 (4, true)) 1024 = false
    have hr : ∀ n, tabGet false (List.replicate n ((4 : Nat), true)) 1024 = false := fun n => by induction n with | zero => rfl | succ n ih => simp [List.replicate_succ, tabGet, ih]
    exact hr _
  · rw [on_full_mem he]
    have h : tabGet 0 (fullSlice 100).mem.horizon 4 = 100 := rfl
    have hn : (fullSlice 100).now = 0 := rfl
    show _ < tabGet 0 (fullSlice 100).mem.horizon 4
    rw [h]; unfold State.sliceTime; omega
  · rw [on_full]; exact List.mem_replicate.2 ⟨by decide, rfl⟩
  · exact Nat.zero_le _
/-- The frame of the page is queued for eviction. -/
def cold : State := { tabled 0x2003B with mem := { (tabled 0x2003B).mem with coldQueue := [2] } }
/-- Its leaf is of kind 4, and it has been touched since or not. -/
def leaving (a : Bool) : State := { tabled 0x2003B with mem := { (tabled 0x2003B).mem with evicting := [(2, ⟨0xA3008, 0x2003B, false, 0⟩)], frames := [(2, { Frame.free with f := false, a })] } }
/-- The watermark is above the free frames, and so many frames are queued. -/
def swept (a : Bool) (n : Nat) : State :=
  { bench with mem := { bench.mem with frames := [(0, { Frame.free with f := false, a })], pinned := [], retired := [], watermark := 1100, coldQueue := List.replicate n 7 } }
theorem witness_FrameEvents :
    ((tabled 0x1E).walk 0 65536 = .absent 1 0x1E 0xA3008 ∧ (tabled 0x1E).freeFrame.isSome = true) ∧
    (tabFind bench.mem.evicting 2 = none ∧ 2 ∉ bench.mem.coldQueue) ∧ (tabFind cold.mem.evicting 2 = none ∧ 2 ∈ cold.mem.coldQueue ∧ cold.walk 0 65536 = .page 131072 0x2003B 65536 ∧ 131072 / 65536 = 2 ∧ Pte.s 0x2003B = false) ∧
    (∀ a ∈ [true, false], MemOk (leaving a) ∧ tabFind (leaving a).mem.evicting 2 = some ⟨0xA3008, 0x2003B, false, 0⟩ ∧ ((leaving a).frameOf 2).a = a) ∧
    ((∀ i < 8, tabGet i bench.mem.hands i % 8 = i) ∧ ∀ a ∈ [true, false], ∀ n ∈ [262136, 262144], ((swept a n).freeFrames + (swept a n).mem.coldQueue.length) * 1000 < (swept a n).mem.watermark * Config.frames ∧
      (swept a n).mem.coldQueue.length = n ∧ ((swept a n).frameOf 0).f = false ∧ ((swept a n).frameOf 0).p = false ∧ ((swept a n).frameOf 0).q = false ∧ ((swept a n).frameOf 0).a = a ∧ ((swept a n).frameOf 1).f = true) ∧
    (131072 / 65536 ∉ bench.mem.retired ∧ 131072 / 65536 < Config.frames) ∧ ((State.reset.frameOf 5).f = true ∧ State.reset.sys.spared = [] ∧ State.reset.sys.zeroing = true) := by
  refine ⟨by decide +kernel, by decide +kernel, by decide +kernel, ?_, ⟨by decide +kernel, fun a ha n hn => ?_⟩, by decide +kernel, by decide +kernel⟩
  · unfold MemOk; decide +kernel
  · have hq : (swept a n).mem.coldQueue.length = n := List.length_replicate
    have hf : (swept a n).freeFrames = Config.frames - 1 := by
      simp only [List.mem_cons, List.not_mem_nil, or_false] at ha
      rcases ha with rfl | rfl <;> rfl
    have hw : (swept a n).mem.watermark = 1100 := rfl
    have hc : Config.frames = 12582912 := by decide +kernel
    rw [hq, hf, hw, hc]
    simp only [List.mem_cons, List.not_mem_nil, or_false] at ha hn
    refine ⟨by omega, rfl, ?_⟩
    rcases ha with rfl | rfl <;> rcases hn with rfl | rfl <;> refine ⟨rfl, rfl, rfl, rfl, ?_⟩ <;> rfl
/-- Lane 2 may start a copy of 128 bytes from VA 66048 to 65792; lane 5 holds handle operands too. -/
def copyable : State := lane2.modG fun g => ((g.wrPair 2 2 65792).wrPair 6 2 66048).wrV 8 2 128
def copyArg : CpyArgs := ⟨someLanes, 5, 2, 6, 8⟩
def copying : State := match exec (.cpy copyArg) copyable with | .next t => t | _ => bench
/-- A tile of one row of 128 bytes. -/
def tileable : State := { roomy with cur := lane2.cur, groups := lane2.groups }.modG fun g => (((((g.wrPair 2 2 0xF000000F000000).wrPair 6 2 66048).wrV 8 2 128).wrV 9 2 0x10080).wrV 10 2 0).wrV 11 2 128
theorem on_seg {r : Option (Nat × Nat × Nat × (Nat × Nat × Nat) × Nat)} {p : Nat → Nat → Nat → Nat × Nat × Nat → Nat → Bool} (h : (match r with | some (d, a, n, q, pos) => p d a n q pos | none => false) = true) :
    ∃ d a n q pos, r = some (d, a, n, q, pos) ∧ p d a n q pos = true := by
  cases r with
  | some x => exact ⟨x.1, x.2.1, x.2.2.1, x.2.2.2.1, x.2.2.2.2, rfl, h⟩
  | none => cases h
theorem on_read {r : Machine.EngRead} {p : Nat → State → Bool} (h : (match r with | .ok x u => p x u | _ => false) = true) : ∃ x u, r = .ok x u ∧ p x u = true := by cases r with | ok x u => exact ⟨x, u, rfl, h⟩ | _ => cases h
/-- Lane 2's copy of 128 bytes from VA 66048 + n to 66048, or the other way round; its ranges overlap. -/
def overlapping (dst src : Nat) : State := match exec (.cpy copyArg) (lane2.modG fun g => ((g.wrPair 2 2 (BitVec.ofNat 64 dst)).wrPair 6 2 (BitVec.ofNat 64 src)).wrV 8 2 128) with | .next t => t | _ => bench
/-- An older store of lane 2 is not performed yet. -/
def copyBehind : State := match exec (.cpy copyArg) { copyable with nextLog := 5 } with
  | .next t => { t with logs := [(1, { Log.empty with kind := .store, mask := 4, lanes := 4, width := 4, unit := 4, addr := [(2, 65664)], data := [(128, 1)], st := [(128, .todo)] })] } | _ => bench
/-- The one line of a tile has been written by a later copy. -/
def outdone : State := match exec (.cpyh copyArg) tileable with | .next t => { t with mem := { t.mem with filling := [] } } | _ => bench
theorem witness_CopyResults :
    (copyable.Ready ((2, 2) :: (6, 2) :: [(8, 1)]) [] ∧ copyable.trueLanes ⟨false, 0⟩ = 0 ∧ copyable.trueLanes someLanes ≠ 0 ∧ copyable.HandleFree (copyable.trueLanes someLanes) 5 ∧ copyable.copyChecks copyArg false (copyable.trueLanes someLanes) = none ∧
      copyable.ctrFull 0 = false ∧ copyable.copiesOn copyable.curCore + popMask (copyable.trueLanes someLanes) ≤ 64) ∧
    (tileable.Ready ((2, 2) :: (6, 2) :: [(8, 4)]) [] ∧ tileable.trueLanes someLanes ≠ 0 ∧ tileable.HandleFree (tileable.trueLanes someLanes) 5 ∧ tileable.copyChecks copyArg true (tileable.trueLanes someLanes) = none) ∧
    ((copyBehind.op 1).st = .pending ∧ 514 ∈ (copyBehind.op 1).todo ∧ switchedOut (copyBehind.op 1).gk = false ∧ copyBehind.priorStores (copyBehind.op 1) (opSnap (copyBehind.op 1)) = true) ∧
    ((outdone.op 1).st = .pending ∧ (∃ l ∈ (outdone.op 1).todo, outdone.superseded 1 (outdone.op 1) l = true) ∧ outdone.priorStores (outdone.op 1) (opSnap (outdone.op 1)) = false ∧ outdone.logs = [] ∧ outdone.share.remote = []) ∧
    (∀ s ∈ [copying, overlapping 66048 66112, overlapping 66112 66048], ∃ line, (s.op 1).st = .pending ∧ line ∈ (s.op 1).todo ∧ switchedOut (s.op 1).gk = false ∧ s.priorStores (s.op 1) (opSnap (s.op 1)) = false ∧
      (∃ va, s.placeOf (s.op 1).gk (s.op 1).lane (128 * line) 1 = some (.glob va)) ∧ s.remoteBusy (opWaiter 1) (2 ^ 64 + line) = false ∧ s.superseded 1 (s.op 1) line = false ∧
      (s.op 1).src = [] ∧ ∃ d a n r pos, State.lineSegment (s.op 1) line = some (d, a, n, r, pos) ∧ (match State.engRange 1 (s.op 1) r.2.1 r.2.2 4 a n s with
        | .ok x u => (match u.engWrite 1 (s.op 1) d n x (2 ^ 64 + line) with | .ok .. => true | _ => false) && (match { u with ticks := u.ticks + n }.engWrite 1 (s.op 1) d n (State.mixBytes x 5 s.ticks n) (2 ^ 64 + line) with | .ok .. => true | _ => false) &&
          (match s.engWrite 1 (s.op 1) d n 5 (2 ^ 64 + line) with | .ok .. => true | _ => false)
        | _ => false) = true) ∧
    (copying.copyOverlaps (copying.op 1) = false ∧ (overlapping 66048 66112).copyOverlaps ((overlapping 66048 66112).op 1) = true ∧ ((overlapping 66048 66112).op 1).args.getD 0 0 ≤ ((overlapping 66048 66112).op 1).args.getD 1 0 ∧
      (overlapping 66112 66048).copyOverlaps ((overlapping 66112 66048).op 1) = true ∧ ((overlapping 66112 66048).op 1).args.getD 1 0 < ((overlapping 66112 66048).op 1).args.getD 0 0) ∧
    (∃ x u, State.copySnapshot 1 ((overlapping 66048 66112).op 1) (copyRows ((overlapping 66048 66112).op 1)) (overlapping 66048 66112) = .ok x u) ∧
    (outstanding.op 1).st = .pending ∧ (outstanding.op 1).todo = [] := by
  refine ⟨⟨on_ready (by decide +kernel), by decide +kernel, by decide +kernel, ⟨by decide +kernel, by decide +kernel⟩, by decide +kernel, by decide +kernel, by decide +kernel⟩, ⟨on_ready (by decide +kernel), by decide +kernel, ⟨by decide +kernel, by decide +kernel⟩, by decide +kernel⟩,
    by decide +kernel, by decide +kernel, fun s hs => ?_, by decide +kernel, ?_, by decide +kernel⟩
  · simp only [List.mem_cons, List.not_mem_nil, or_false] at hs
    rcases hs with rfl | rfl | rfl
    · exact ⟨514, by decide +kernel, by decide +kernel, by decide +kernel, by decide +kernel, ⟨65792, by decide +kernel⟩, by decide +kernel, by decide +kernel, by decide +kernel, on_seg (by decide +kernel)⟩
    · exact ⟨516, by decide +kernel, by decide +kernel, by decide +kernel, by decide +kernel, ⟨66048, by decide +kernel⟩, by decide +kernel, by decide +kernel, by decide +kernel, on_seg (by decide +kernel)⟩
    · exact ⟨516, by decide +kernel, by decide +kernel, by decide +kernel, by decide +kernel, ⟨66048, by decide +kernel⟩, by decide +kernel, by decide +kernel, by decide +kernel, on_seg (by decide +kernel)⟩
  · obtain ⟨x, u, h, -⟩ := on_read (p := fun _ _ => true) (r := State.copySnapshot 1 ((overlapping 66048 66112).op 1) (copyRows ((overlapping 66048 66112).op 1)) (overlapping 66048 66112)) (by decide +kernel)
    exact ⟨x, u, h⟩
theorem witness_HandleInstructions : bench.Ready [] [] ∧ (outstanding.Ready [] [] ∧ (outstanding.trueLanes pt).getLsbD 0 ∧ outstanding.g.rdH 3 0 = 1 ∧ (outstanding.op 1).st = .pending ∧ (outstanding.op 1).kind = .copy) ∧
    bench.HandleFree (bench.trueLanes pt) 15 := ⟨on_ready (by decide +kernel), ⟨on_ready (by decide +kernel), by decide +kernel⟩, by decide +kernel, by decide +kernel⟩

/-- Format word: E8 on both sides, T = 4, raw output. -/
def fmtE8 : Word := 0x60033
def kArg : KpassArgs := ⟨someLanes, 5, 16, 2, 8, false, 6, 1, 3, false⟩
/-- Lane 2 may start a pass over four plates at VA 65536. -/
def passable : State := (lane2.modG fun g => ((g.wrPair 2 2 65536).wrPair 6 2 69632).wrV 8 2 fmtE8).modG fun g => g.wrS 1 512
/-- Lane 2 may start a window pass over a scratchpad. -/
def winnable : State := { roomy with cur := lane2.cur, groups := lane2.groups }.modG fun g => ((g.wrPair 2 2 0xF000000F000000).wrPair 6 2 69632).wrV 8 2 fmtE8
/-- Each lane of the guard names an array at 64 bytes of the scratchpad. -/
def extractable : State := winnable.modG fun g => g.wrPair 2 2 0xF000000F000040
theorem on_one {p : Nat → Prop} (s : State) (hs : s.trueLanes someLanes = 4) (h : p 2) : ∀ i, (s.trueLanes someLanes).getLsbD i = true → p i := by
  intro i hi
  have hl : ∀ i < 32, (4 : LaneMask).getLsbD i = true → i = 2 := by decide
  rw [hs] at hi
  exact (on_lanes (p := fun i => i = 2) hl i hi) ▸ h
theorem witness_KilnRegisters :
    (passable.Ready [(4, 1), (16, 1), (8, 1)] [] ∧ passable.trueLanes someLanes ≠ 0 ∧ (∀ i, (passable.trueLanes someLanes).getLsbD i → passable.g.rdV 8 i = fmtE8) ∧ kBadWord (kWord fmtE8) = false ∧ (kWord fmtE8).t * kDigits (kWord fmtE8).a (kWord fmtE8).w ≤ 128 ∧
      (kWord fmtE8).a ≠ 13 ∧ passable.Ready [(4, 1), (16, 4)] [] ∧ ∀ i, (passable.trueLanes someLanes).getLsbD i → kPackA (kWord fmtE8) (fun j => (passable.g.rdV (16 + j) i).toNat) = .ok ([0], 0)) ∧
    (passable.Ready [(4, 4), (16, 1), (8, 1)] [] ∧ passable.Ready [(16, (kSlots (kWord fmtE8) + 31) / 32)] [] ∧
      ∀ j < kSlots (kWord fmtE8), if (passable.trueLanes someLanes).getLsbD (j % 32) then kElemB (kWord fmtE8).b (kWord fmtE8).w (passable.g.rdV (16 + j / 32) (j % 32)).toNat = some 0 else (0 : Int) = 0) ∧
    (extractable.Ready [(4, 1), (2, 2), (8, 1)] [] ∧ (∀ i, (extractable.trueLanes someLanes).getLsbD i → extractable.g.rdV 8 i = fmtE8) ∧ (2 : BitVec 11).toNat + (3 : BitVec 5).toNat < 4608 / kSlot (kWord fmtE8) ∧
      (kWord fmtE8).out ≠ 3 ∧ extractable.Ready [(4, 4)] [] ∧ (∀ i, (extractable.trueLanes someLanes).getLsbD i → canonical (extractable.g.rdPair 2 i).toNat = true ∧ (extractable.g.rdPair 2 i).toNat % 64 = 0 ∧
        touchesHole (extractable.g.rdPair 2 i).toNat 576 = false ∧ apertureOf (extractable.g.rdPair 2 i).toNat ≠ .glob ∧ apertureOf (extractable.g.rdPair 2 i).toNat ≠ .priv ∧
        extractable.rangeHeld extractable.cur.gk i (extractable.g.rdPair 2 i).toNat 576 = true ∧ extractable.rangeAbsent extractable.cur.gk i (extractable.g.rdPair 2 i).toNat 576 = false ∧
        extractable.blocked extractable.nextLog (probeLog extractable.cur.gk (extractable.trueLanes someLanes) 576 i (extractable.g.rdPair 2 i).toNat) (64 * i) = false)) ∧ 0 < kSlot (kWord fmtE8) :=
  ⟨⟨on_ready (by decide +kernel), by decide +kernel, on_one passable (by decide +kernel) (by decide +kernel), by decide +kernel, by decide +kernel, by decide +kernel, on_ready (by decide +kernel), on_one passable (by decide +kernel) (by rfl)⟩,
    ⟨on_ready (by decide +kernel), on_ready (by decide +kernel), by decide +kernel⟩,
    ⟨on_ready (by decide +kernel), on_one extractable (by decide +kernel) (by decide +kernel), by decide +kernel, by decide +kernel, on_ready (by decide +kernel), on_one extractable (by decide +kernel) (by decide +kernel)⟩, by decide +kernel⟩
def next (i : Instr) (s : State) : State := match exec i s with | .next t => t | _ => bench
def passing : State := next (.kpass kArg) passable
/-- The plates are fetched, and 64 cycles have passed. -/
def fireable : State := { next (.kilnEligible 1) passing with cycle := 64 }
/-- The pass has fired long ago, and its last 16 bytes are to be written. -/
def pouring : State := { (next (.kilnFire 0) fireable).modOp 1 fun o => { o with todo := [35] } with cycle := 1000 }
theorem on_plates {r : Machine.EngRead × List Int} (h : (match r.1 with | .ok .. => true | _ => false) = true) : ∃ z u l, r = (.ok z u, l) := by
  obtain ⟨a, l⟩ := r
  cases a with | ok z u => exact ⟨z, u, l, rfl⟩ | _ => cases h
theorem on_line {r : Except State.Bad (Bool × State)} {p : State → Bool} (h : (match r with | .ok x => p x.2 | .error _ => false) = true) : ∃ b u, r = .ok (b, u) ∧ p u = true := by
  cases r with | ok x => exact ⟨x.1, x.2, rfl, h⟩ | error _ => cases h
/-- A scale table, and a descriptor of zeros at VA 65664. -/
def scaled : State := (benchR (fun r => { r with scales := 73728 }) bench).modG fun g => g.each (BitVec.allOnes 32) fun h i => h.wrPair 2 i 65664
/-- Format word: block format of 8 bits on both sides, T = 4, FP32 output. -/
def fmtB8 : Word := 0x2060088
/-- Lane 2 may start a pass of a scaled format, whose selector in s2 names tensor 0 and block 0 of a table at VA 73728. -/
def weighable : State := benchR (fun r => { r with scales := 73728 }) ((lane2.modG fun g => ((g.wrPair 2 2 65536).wrPair 6 2 69632).wrV 8 2 fmtB8).modG fun g => g.wrS 1 512)
/-- Its request stands, and the descriptor of tensor 0 has a block count of 1 and scales at VA 65536. -/
def weighing : State := match exec (.kpass kArg) weighable with | .next t => { t with mem := { t.mem with dram := memPut t.mem.dram 139264 (65536 + 2 ^ 96) 16 } } | _ => bench
theorem on_passing : (tabFind passing.kreqs 1).isSome = true := by decide +kernel
def passReq : Kreq := (tabFind passing.kreqs 1).get on_passing
theorem on_weighing : (tabFind weighing.kreqs 1).isSome = true := by decide +kernel
def weighReq : Kreq := (tabFind weighing.kreqs 1).get on_weighing
theorem on_pouring : (tabFind pouring.kreqs 1).isSome = true := by decide +kernel
def pourReq : Kreq := (tabFind pouring.kreqs 1).get on_pouring
theorem on_fired : pourReq.fired.isSome = true := by decide +kernel
/-- The plates of a request are fetched, and with them its scales. -/
def fetched (s : State) (r : Kreq) : Bool :=
  match (State.fetchPlates (r.ops.headD (0, 0)).2 (s.op (r.ops.headD (0, 0)).2) (kWord r.fmt) r.mode (srcRanges (s.op (r.ops.headD (0, 0)).2)) s []).1 with
  | .ok _ u => match State.fetchScales (r.ops.headD (0, 0)).2 (s.op (r.ops.headD (0, 0)).2) (r.chamber / 2) (s.grid (s.team (teamOf r.gk)).grid).scales r.sel.toNat 227 1 u with | (.ok .., _) => true | _ => false
  | _ => false
/-- The plates are fetched, and a line of scales is on its way: the walk of its page has begun. -/
def missed (s : State) (r : Kreq) : Bool :=
  match (State.fetchPlates (r.ops.headD (0, 0)).2 (s.op (r.ops.headD (0, 0)).2) (kWord r.fmt) r.mode (srcRanges (s.op (r.ops.headD (0, 0)).2)) s []).1 with
  | .ok _ u => match State.fetchScales (r.ops.headD (0, 0)).2 (s.op (r.ops.headD (0, 0)).2) (r.chamber / 2) (s.grid (s.team (teamOf r.gk)).grid).scales r.sel.toNat 227 1 u with | (.wait _, true) => true | _ => false
  | _ => false
/-- The scales stand in a page that no TLB holds. -/
def weighingFar : State := { weighing with mem := { weighing.mem with dram := memPut weighing.mem.dram 139264 (2 ^ 21 + 2 ^ 96) 16 } }
/-- The request waits for a line of scales. -/
def stalling : State := { weighing with kreqs := [(1, { weighReq with miss := true }), (2, { weighReq with eligible := true })] }
/-- The lane's last element is written. -/
def poured : State := pouring.modOp 1 fun o => { o with todo := [] }
theorem witness_KilnPasses :
    (passable.Ready [(16, 1), (2, 2), (8, 1), (6, 2)] [(1, 1)] ∧ passable.trueLanes ⟨false, 0⟩ = 0 ∧ passable.trueLanes someLanes ≠ 0 ∧ passable.HandleFree (passable.trueLanes someLanes) 5 ∧ (passable.g.rdS 1).toNat = 512 ∧
      (∀ i, (passable.trueLanes someLanes).getLsbD i → (passable.g.rdPair 2 i).toNat = 65536 ∧ passable.g.rdV 8 i = fmtE8) ∧ kBadPass (kWord fmtE8) 0 4 = false ∧ kBadPass (kWord fmtE8) 1 4 = false ∧ kScaled (kWord fmtE8).a = false ∧
      passable.Ready [(16, 1)] [] ∧ kMin (kWord fmtE8) ≤ kSlot (kWord fmtE8) ∧ 4 / kDigits (kWord fmtE8).a (kWord fmtE8).w ≤ (kWord fmtE8).t ∧ (kWord fmtE8).a ≠ 0 ∧
      passable.passChecks (kWord fmtE8) 0 4 (passable.trueLanes someLanes) 65536 512 (fun i => (passable.g.rdPair 6 i).toNat) = none ∧ passable.ctrFull 1 = false ∧
      passable.reserved (chamberOf passable.curCore) + ((List.range 4).filter fun q => (lanesOf (passable.trueLanes someLanes)).any fun i => i / 8 = q).length ≤ 64) ∧
    (winnable.Ready [(16, 1), (2, 2), (8, 1), (6, 2)] [(1, 1)] ∧ kBadPass (kWord fmtE8) 2 4 = false ∧ (winnable.g.rdS 1).toNat < 2 ^ 36 ∧
      winnable.passChecks (kWord fmtE8) 2 4 (winnable.trueLanes someLanes) 0xF000000F000000 0 (fun i => (winnable.g.rdPair 6 i).toNat) = none) ∧
    (weighable.Ready [(16, 1), (2, 2), (8, 1), (6, 2)] [(1, 1)] ∧ weighable.HandleFree (weighable.trueLanes someLanes) 5 ∧ kScaled (kWord fmtB8).a = true ∧ kArg.ss.toNat ≠ 255 ∧ weighable.hitsPending [] [(2, 1)] = false ∧ (weighable.g.rdS 2).toNat < 2 ^ 40 ∧
      kBadPass (kWord fmtB8) 0 4 = false ∧ weighable.Ready [(16, 2)] [] ∧ kMin (kWord fmtB8) ≤ kSlot (kWord fmtB8) ∧ 4 / kDigits (kWord fmtB8).a (kWord fmtB8).w ≤ (kWord fmtB8).t ∧
      weighable.passChecks (kWord fmtB8) 0 4 (weighable.trueLanes someLanes) 65536 512 (fun i => (weighable.g.rdPair 6 i).toNat) = none) ∧
    (∃ r, tabFind passing.kreqs 1 = some r ∧ r.eligible = false ∧ (∀ e ∈ r.ops, passing.priorStores (passing.op e.2) (opSnap (passing.op e.2)) = false) ∧ passing.platesAbsent (passing.op (r.ops.headD (0, 0)).2) = false ∧
      passing.plateRoom r (srcRanges (passing.op (r.ops.headD (0, 0)).2)).length = true ∧
      kScaled (kWord r.fmt).a = false ∧ ∃ z u l, State.fetchPlates (r.ops.headD (0, 0)).2 (passing.op (r.ops.headD (0, 0)).2) (kWord r.fmt) r.mode (srcRanges (passing.op (r.ops.headD (0, 0)).2)) passing [] = (.ok z u, l)) ∧
    (weighReq.eligible = false ∧ kScaled (kWord weighReq.fmt).a = true ∧ kCount (kWord weighReq.fmt) weighReq.mode (weighReq.steps / kDigits (kWord weighReq.fmt).a (kWord weighReq.fmt).w) = 227 ∧ kIsWin (kWord weighReq.fmt).a = false ∧ fetched weighing weighReq = true) ∧ (missed weighingFar weighReq = true ∧ weighReq.fired = none) ∧
    (stalling.unfired weighReq.chamber ≠ [] ∧ stalling.chamberStalled weighReq.chamber = true ∧ fireable.chamberStalled 0 = false) ∧
    (tabFind poured.kreqs 1 = tabFind pouring.kreqs 1 ∧ (poured.op 1).st = .pending ∧ (poured.op 1).todo = [] ∧ poured.cycle = pouring.cycle ∧ poured.olderPass 1 (poured.op 1) = false) ∧
    (passing.plateRoom passReq 129 = false) ∧
    (∃ r, fireable.fusionSets 0 = [[(1, r)]] ∧ r.issued + 64 ≤ fireable.cycle ∧ fireable.chamberFree 0 ≤ fireable.cycle ∧ ([(1, r)].map (·.1)).Nodup) ∧
    (∃ r f, tabFind pouring.kreqs 1 = some r ∧ tabGet 0 r.ops 2 = 1 ∧ (pouring.op 1).st = .pending ∧ r.fired = some f ∧ f + r.steps + 80 ≤ pouring.cycle ∧ (∃ rest, (pouring.op 1).todo = 35 :: rest) ∧ pouring.olderPass 1 (pouring.op 1) = false ∧
      ∃ b u, State.kilnElem pouring 1 r 35 = .ok (b, u) ∧ (decide ((u.op 1).todo = []) && decide ((u.op 1).st = .pending)) = true) ∧
    ((next (.kilnFire 0) fireable).cycle < 64 + pourReq.steps + 80) ∧ ((kWord fmtB8).out ≠ 0 ∧ apertureOf (0xF000000F000000 + kOutBytes (kWord fmtB8).out * 226) ≠ .glob) ∧
    (scaled.Ready [(2, 2)] [] ∧ scaled.trueLanes pt ≠ 0 ∧ scaled.issueChecks scaled.cur.gk (maskOf fun i => i = 0) (fun _ => 65664) 16 false = none ∧ scaled.gr.scales ≠ 0 ∧ apertureOf 65664 = .glob ∧
      scaled.blocked scaled.nextLog (kstabProbe scaled.cur.gk (scaled.trueLanes pt) 0 65664 false) 0 = false ∧ scaled.blocked scaled.nextLog (kstabProbe scaled.cur.gk (scaled.trueLanes pt) 0 (73728 + 16 * 3) true) 0 = false ∧
      ∃ d u, scaled.endChain.plainRead scaled.curCore scaled.tm.asid scaled.tm.ctx 65664 16 (kstabWaiter scaled.cur.gk 0) = .ok d u ∧ (d % 2 ^ 64 % 64 = 0 && d / 2 ^ 64 % 2 ^ 32 % 64 = 0 &&
        (match u.plainWrite u.curCore u.tm.asid u.tm.ctx (73728 + 16 * 3) 16 d (kstabWaiter scaled.cur.gk 0) with | .ok .. => true | _ => false)) = true) ∧
    ({ kWord fmtE8 with a := 3 } : KWord).a = 3 := by
  refine ⟨⟨on_ready (by decide +kernel), by decide +kernel, by decide +kernel, ⟨by decide +kernel, by decide +kernel⟩, by decide +kernel, on_one passable (by decide +kernel) (by decide +kernel), by decide +kernel, by decide +kernel, by decide +kernel,
      on_ready (by decide +kernel), by decide +kernel⟩, ⟨on_ready (by decide +kernel), by decide +kernel⟩,
    ⟨on_ready (by decide +kernel), ⟨by decide +kernel, by decide +kernel⟩, by decide +kernel, by decide +kernel, by decide +kernel, by decide +kernel, by decide +kernel, on_ready (by decide +kernel), by decide +kernel⟩, ?_, by decide +kernel, by decide +kernel, by decide +kernel, by decide +kernel, by decide +kernel, ?_, ?_, by decide +kernel, by decide +kernel,
    ⟨on_ready (by decide +kernel), by decide +kernel, by decide +kernel, by decide +kernel, by decide +kernel, by decide +kernel, by decide +kernel, on_read (by decide +kernel)⟩, rfl⟩
  · refine ⟨passReq, (Option.some_get on_passing).symm, by decide +kernel, by decide +kernel, by decide +kernel, by decide +kernel, by decide +kernel, on_plates (by decide +kernel)⟩
  · have h : (fireable.fusionSets 0).map (fun l => l.map (·.1)) = [[1]] ∧ ∀ l ∈ fireable.fusionSets 0, ∀ e ∈ l, e.2.issued + 64 ≤ fireable.cycle := by decide +kernel
    obtain ⟨h1, h2⟩ := h
    match hq : fireable.fusionSets 0 with
    | [[(k, r)]] =>
      rw [hq] at h1 h2; simp at h1; subst h1
      exact ⟨r, rfl, h2 _ (List.mem_singleton.mpr rfl) _ (List.mem_singleton.mpr rfl), by decide +kernel, by simp⟩
    | [] => rw [hq] at h1; simp at h1
    | [[]] => rw [hq] at h1; simp at h1
    | [_ :: _ :: _] => rw [hq] at h1; simp at h1
    | _ :: _ :: _ => rw [hq] at h1; simp at h1
  · refine ⟨pourReq, pourReq.fired.get on_fired, (Option.some_get on_pouring).symm, by decide +kernel, by decide +kernel, (Option.some_get on_fired).symm, by decide +kernel, ⟨(pouring.op 1).todo.tail, by decide +kernel⟩, by decide +kernel, on_line (by decide +kernel)⟩

/-- A sending end of frame 4096 to device 1. -/
def flow0 : Flow :=
  { sender := true, multi := false, ctx := 0, mirror := 0, deliver := 65792, table := 0, record := 0, frame := 4096, esize := 1, source := 0, dests := [1], asid := 0, nextTransfer := 1, lastSent := [], baseSent := [], done := 0, raws := 0, running := [], perf := 0,
    queuedAt := [], plane0 := [], plane1 := [], gen0 := [], gen1 := [], inflight := [], owed := [], records := [], ackGen := [], slotFlight := [], slotQueued := [], slotBehind := [], slotRaw := [], rest := [], latestT := [], spans := [] }
def multi0 : Flow := { flow0 with multi := true, dests := [1, 2] }
/-- Flow 7 stands, pairs v2:v3 hold 65664, s1 holds 64 bytes and s2 offset 0. -/
def flowing (f : Flow) : State := { benchG (fun g => (g.each (BitVec.allOnes 32) fun h i => (h.wrPair 2 i 65664).wrPair 4 i 65664).wrS 1 64) with flows := [(7, f)] }
def fsendArg : FsendArgs := ⟨pt, 5, 2, 1, 7⟩
/-- A flag store of FFENCE is due, to device d of a pod of two. -/
def fencing (d : Nat) (down : Bool) : State :=
  { bench with ops := [(1, { Op.none with kind := .ffence, st := .pending, args := [d, 65664, 9, 1] })], nextOp := 2, fab := { bench.fab with n := 2, peers := [(1, { Peer.empty with down := down })] } }
theorem on_write {r : Machine.EngWrite} (h : (match r with | .ok .. => true | _ => false) = true) : ∃ p u, r = .ok p u := by cases r with | ok p u => exact ⟨p, u, rfl⟩ | _ => cases h
/-- The same in replay mode. -/
def replaying : State := benchR (fun r => { r with replay := true }) (flowing flow0)
theorem witness_FlowInstructions :
    ((flowing flow0).Ready [(2, 2)] [(1, 1), (2, 1)] ∧ (flowing flow0).trueLanes pt ≠ 0 ∧ (flowing flow0).HandleFree ((flowing flow0).trueLanes pt) 5 ∧ ((flowing flow0).g.rdPair 2 0).toNat = 65664 ∧ ((flowing flow0).g.rdS 1).toNat = 64 ∧
      ((flowing flow0).g.rdS 2).toNat = 0 ∧ tabFind (flowing flow0).flows 7 = some flow0 ∧ flow0.ctx = (flowing flow0).tm.ctx ∧ canonical 65664 = true ∧ 65664 % flow0.esize = 0 ∧ 64 % (16 * flow0.esize) = 0 ∧ 0 + 64 ≤ flow0.frame ∧
      oneAperture 65664 64 = true ∧ touchesHole 65664 64 = false ∧ touchesPriv 65664 64 = false ∧ (flowing flow0).gr.replay = false ∧ (flowing flow0).rangeHeld 0 0 65664 64 = true ∧ (flowing flow0).ctrFull 3 = false ∧ (flowing flow0).peerDown 1 = false) ∧
    (tabFind (flowing multi0).flows 7 = some multi0 ∧ multi0.multi = true ∧ (flowing multi0).gr.replay = false ∧ (flowing multi0).ctrFull 3 = false) ∧
    ((replaying.Ready [(2, 2)] [(1, 1), (2, 1)] ∧ replaying.Ready [(2, 2), (4, 1)] []) ∧ replaying.trueLanes pt ≠ 0 ∧ replaying.gr.replay = true) ∧
    ((flowing flow0).Ready [(2, 2), (4, 1)] [] ∧ ∀ i, ((flowing flow0).trueLanes pt).getLsbD i → canonical ((flowing flow0).g.rdPair 2 i).toNat = true ∧ ((flowing flow0).g.rdPair 2 i).toNat % 4 = 0 ∧ apertureOf ((flowing flow0).g.rdPair 2 i).toNat = .glob) ∧
    (((fencing 1 false).op 1).st = .pending ∧ ((fencing 1 false).op 1).kind = .ffence ∧ ((fencing 1 false).op 1).args.getD 0 0 = 1 ∧ 1 < (fencing 1 false).fab.n ∧ (fencing 1 false).peerDown 1 = false ∧
      (fencing 1 false).storesTo ((fencing 1 false).op 1) 1 = false ∧ ((fencing 1 false).op 1).perf = 0 ∧ (fencing 1 false).flagHeld 1 = false ∧
      (fencing 1 false).remoteBusy (opWaiter 1) (2 ^ 64) = false ∧ ∃ q u, (fencing 1 false).engWrite 1 ((fencing 1 false).op 1) 65664 4 9 (2 ^ 64) = .ok q u) ∧
    (fencing 1 true).peerDown 1 = true ∧ (fencing 2 false).fab.n ≤ 2 ∧ ((flowing flow0).fab.n ≤ (0 : BitVec 7).toNat ∧ ({ flowing flow0 with fab := { bench.fab with n := 2 } } : State).peerDown 1 = false) :=
  ⟨⟨on_ready (by decide +kernel), by decide +kernel, ⟨by decide +kernel, by decide +kernel⟩, by decide +kernel⟩, by decide +kernel, ⟨⟨on_ready (by decide +kernel), on_ready (by decide +kernel)⟩, by decide +kernel⟩, ⟨on_ready (by decide +kernel), on_lanes (by decide +kernel)⟩,
    ⟨by decide +kernel, by decide +kernel, by decide +kernel, by decide +kernel, by decide +kernel, by decide +kernel, by decide +kernel, by decide +kernel, by decide +kernel, on_write (by decide +kernel)⟩, by decide +kernel, by decide +kernel, by decide +kernel⟩
/-- An FSEND of 64 bytes has issued. -/
def sending : State := next (.fsend fsendArg) (flowing flow0)
/-- Block 0 has been in flight since time 0, for longer than 16 slots. -/
def late : State := { flowing { flow0 with inflight := [(0, true)], queuedAt := [(0, 1)] } with third := 600000 }
/-- A complete raw block of 16 bytes, with number 0 and generation 3, for a receiver of flow 7. -/
def rawPkt : Pkt := ⟨1, 0, 1, false, Pk.block, 0, 0, 0, 0, 0, [7 + 2 ^ 16 + 7 * 2 ^ 61, natOf ([0, 0, 3, 1, 0, 0] ++ List.replicate 16 5), 22, 16, 0, 0, 0, 0]⟩
def rawData : List Byte := bytesOf (rawPkt.arg 1) (rawPkt.arg 2)
def recv0 : Flow := { flow0 with sender := false, frame := 16 }
def receiving : State := { bench.modCore portCore (fun k => { k with tlb := [⟨0, 65536, 65536, 0x2003B⟩] }) with flows := [(recvKey 1 7, recv0)] }
def encNew : List Byte := List.replicate 16 1
theorem on_delivered {r : Nat × Nat × Bool × State} (h : r.2.2.1 = true) : ∃ n q u, r = (n, q, true, u) := ⟨r.1, r.2.1, r.2.2.2, by rw [← h]⟩
theorem on_got {r : Machine.EngRead} (h : (match r with | .ok .. => true | _ => false) = true) : ∃ x u, r = .ok x u := by cases r with | ok x u => exact ⟨x, u, rfl⟩ | _ => cases h
theorem on_sending : (tabFind sending.flows 7).isSome = true ∧ (sending.flowOp 7 0).isSome = true := by decide +kernel
def sendFlow : Flow := (tabFind sending.flows 7).get on_sending.1
def sendOp : Nat × Op := (sending.flowOp 7 0).get on_sending.2
theorem witness_FlowEvents :
    (tabFind sending.flows 7 = some sendFlow ∧ sendFlow.sender = true ∧ sendFlow.multi = false ∧ tabGet false sendFlow.inflight 0 = false ∧ tabGet [] sendFlow.rest (16 * 0) = [] ∧ sending.hasCredit (sendFlow.dests.headD 0) = true ∧ sending.flowOp 7 0 = some sendOp ∧
      sendOp.2.kind = .fsend ∧ ∃ x u, sending.flowSource sendOp.1 sendOp.2 0 (blockOf sendFlow.frame sendFlow.plane0 0) = .ok x u) ∧
    (tabFind (flowing flow0).flows 7 = some flow0 ∧ flow0.sender = true ∧ flow0.multi = false ∧ tabGet 0 flow0.gen0 0 = 0) ∧
    (tabFind (flowing multi0).flows 7 = some multi0 ∧ multi0.multi = true ∧ 1 < multi0.dests.length ∧ 0 = tabGet 0 multi0.gen1 0 ∧ (∀ i < multi0.dests.length, i ≠ 1 → tabGet 0 multi0.ackGen (16 * 0 + i) = 0) ∧
      (blockOf multi0.frame multi0.plane0 0).length ≤ (blockOf multi0.frame multi0.plane1 0).length) ∧
    (∃ f, tabFind late.flows 7 = some f ∧ f.sender = true ∧ f.multi = false ∧ tabGet 0 f.queuedAt 0 + 16 * late.fab.slotNs < late.now ∧ tabGet false f.inflight 0 = true) ∧
    (tabFind receiving.flows (recvKey rawPkt.src (segFlow rawPkt)) = some recv0 ∧ rawPkt.op ≠ lateAck ∧ rawPkt.op ≠ lateRecord ∧ receiving.behindBlock rawPkt = false ∧ segBlock rawPkt = 0 ∧
      natOf ((rawData.drop 3).take 1) = 1 ∧ (rawData.drop 6).length = blockBytes recv0.frame 0 ∧ (blockOf recv0.frame recv0.plane0 0).length ≤ blockBytes recv0.frame 0 ∧
      ∃ n q u, State.deliver recv0 (recv0.deliver + 4096 * 0) (rawData.drop 6) ((rawData.drop 6).length / 64 + 3) (rawPkt.arg 6) (rawPkt.arg 7) receiving = (n, q, true, u)) ∧
    (tabFind (flowing { flow0 with table := 8192 }).flows 7 = some { flow0 with table := 8192 } ∧ 0 < blockCount flow0.frame ∧ flow0.mirror + mirrorSize flow0 ≤ 65536 * Config.frames ∧ 8192 + tableSize flow0 ≤ 65536 * Config.frames ∧ flow0.mirror + mirrorSize flow0 ≤ 8192) ∧
    (1 ∈ [1, 2, 4] ∧ encNew.length = 16 * 1 * 1 ∧ (encodeGroups 1 1 0 encNew encNew).length ≤ 100) :=
  ⟨⟨(Option.some_get on_sending.1).symm, by decide +kernel, by decide +kernel, by decide +kernel, by decide +kernel, by decide +kernel, (Option.some_get on_sending.2).symm, by decide +kernel, on_got (by decide +kernel)⟩, by decide +kernel, by decide +kernel,
    ⟨{ flow0 with inflight := [(0, true)], queuedAt := [(0, 1)] }, by decide +kernel⟩, ⟨by decide +kernel, by decide +kernel, by decide +kernel, by decide +kernel, by decide +kernel, by decide +kernel, by decide +kernel, by decide +kernel, on_delivered (by decide +kernel)⟩, by decide +kernel, by decide +kernel⟩

/-- VA 65536 is an S page of device 1 (kind 5). -/
def far : State := tabled 0x150
def withOwner (e : OwnerEntry) : State := { far with share := { far.share with owners := [(1, e)] } }
def ownerE : OwnerEntry := ⟨1, 3, false, 500, 1, []⟩
def accPkt : Pkt := ⟨1, 0, 0, false, Pk.load, 0, 0, 0, 65540, 0, [9, 1, 4, 0]⟩
/-- Requester 1 has a parked access. -/
def parkedReq : State := { bench with third := 6000, fab := { bench.fab with peers := [(1, { Peer.empty with parked := [accPkt] })] } }
def remoteR : Remote := { entry := 1, lane := 0, peer := 1, pkt := accPkt, stamp := 0, resent := 0, through := true }
def asked (third : Nat) : State := { bench with third, share := { bench.share with remote := [(9, remoteR)] } }
theorem witness_OwnerCacheEvents :
    (far.originOf 0 65536 = 1 ∧ far.originOf 0 65536 ≠ far.devid ∧ (∀ o ∈ [1, far.devid], far.peerDown (ownerDevice 1 o) = false) ∧ (∀ e, far.owner? 1 = some e → e.held = []) ∧ far.ownsPage 1 = false) ∧ (tabled 0x2003B).ownsPage 1 = true ∧
    (bench.devid = bench.originOf 0 65536 ∨ tabFind bench.share.dir 1 = none) ∧
    ((withOwner ownerE).owner? 1 = some ownerE ∧ ownerE.owner ≠ unknownOwner ∧ ownerE.gen < 4 ∧ 3 ≤ ownerE.gen) ∧
    ((withOwner { ownerE with pending := true, through := 0 }).owner? 1 = some { ownerE with pending := true, through := 0 } ∧ ({ ownerE with pending := true, through := 0 } : OwnerEntry).owner ≠ unknownOwner ∧ (withOwner ownerE).throughOf 1 = 0 ∧ (asked 0).throughOf 1 = 1) ∧
    (((withOwner { ownerE with held := [accPkt] }).owner? 1).map (fun e => e.held) = some [accPkt]) ∧
    (parkedReq.share.notice + 2000 ≤ parkedReq.now ∧ (∃ e ∈ parkedReq.fab.peers, e.2.parked ≠ []) ∧ (1, { Peer.empty with parked := [accPkt] }) ∈ parkedReq.fab.peers) ∧
    (tabFind (asked 0).share.remote 9 = some remoteR ∧ (asked 5999).now < remoteR.stamp + 2000 ∧ remoteR.stamp + 2000 ≤ (asked 6000).now) := by
  refine ⟨⟨by decide +kernel, by decide +kernel, by decide +kernel, fun e h => ?_, by decide +kernel⟩, by decide +kernel, Or.inr (by decide +kernel), by decide +kernel, by decide +kernel, by decide +kernel, by decide +kernel, by decide +kernel⟩
  have hn : far.owner? 1 = none := by decide +kernel
  rw [hn] at h; cases h
def here : State := tabled 0x2003B
/-- The port's TLB holds an entry of VA 65536. -/
def ported (e : DWord) (s : State := tabled e) : State := s.modCore portCore fun k => { k with tlb := [⟨0, 65536, 65536, e⟩] }
def stubbed (third : Nat) (td : Option Nat := some 0) : State := { here with third, share := { here.share with stubs := [(1, ⟨1, 4, td⟩)] } }
def mig0 : Mig :=
  { old := true, host := false, toHost := false, peer := 1, origin := 1, pa := 131072, leaf := 0x200000000002013B, gen := 4, tag := 5, copied := 512, dirty := [3], switched := false, held := [], horizon := 0, installed := false,
    stood := false, acked := false }
def migrating (m : Mig) (s : State := here) : State := { s with share := { s.share with migs := [(if m.old then 1 else State.newKey 1, m)] } }
def newMig (switched installed : Bool) : Mig := { mig0 with old := false, switched, installed }
/-- An older access of the same requester to the page is still due. -/
def behind (s : State) : State := { s with agenda := [.remoteAccess { accPkt with body := [8, 1, 4, 0] }] }
/-- HOST owns the page; this module is its origin. -/
def hosted : State := { ported 0x50 with share := { here.share with dir := [(1, State.DirEntry.of hostOwner)] } }
/-- A walk of the page has come back to the port with an empty entry. -/
def nothing : State := { tabled 0 with walks := [(State.dieOf portCore, [⟨0, 1, true⟩])] }
/-- Lane i's pair holds VA 65664, whatever the tables say. -/
def paged (e : DWord) : State := { tabled e with groups := (bases 65664 0).groups }
/-- An earlier access of the same source, to another page, is still due. -/
def sequenced : State := { here with agenda := [.remoteAccess { accPkt with va := 131072 }] }
/-- VA 65536 is an exact-sum page of FP32, whose accumulators' page at VA 131072 is not mapped. -/
def summing : State :=
  let s := ported 0x800000000002001B
  { s with walks := [(State.dieOf portCore, [⟨0, 2, true⟩])], mem := { s.mem with esums := [(0, { backing := 131072, size := 65536, base := 65536, f64 := false, lsb := 0, block := 0 })] } }
theorem witness_AccessEvents :
    ((behind here).behindAccess accPkt = true ∧ (behind (stubbed 0)).behindAccess accPkt = true ∧ (tabFind (behind (stubbed 0)).share.stubs (pageKey accPkt.asid accPkt.va)).isSome = true) ∧
    (pageKey accPkt.asid accPkt.va = 1 ∧ (stubbed 0).behindAccess accPkt = false ∧ tabFind (stubbed 0).share.stubs 1 = some ⟨1, 4, some 0⟩ ∧ tabFind here.share.stubs 1 = none ∧ tabFind here.share.migs 1 = none ∧ accPkt.op < Pk.viaStub) ∧
    (tabFind (migrating { mig0 with switched := true }).share.stubs 1 = none ∧ tabFind (migrating { mig0 with switched := true }).share.migs 1 = some { mig0 with switched := true } ∧ mig0.old = true) ∧
    (sequenced.behindSequence { accPkt with seq := 1 } = true ∧ (stubbed 0).behindSequence accPkt = false ∧ (migrating { mig0 with switched := true }).behindAccess accPkt = false ∧ (migrating { mig0 with switched := true }).behindSequence accPkt = false) ∧
    (∀ s ∈ [ported 0x2003B, ported 0x150, hosted, nothing, summing], s.behindAccess accPkt = false ∧ s.behindSequence accPkt = false ∧ tabFind s.share.stubs 1 = none ∧ tabFind s.share.migs 1 = none) ∧
    (∃ x t u, (ported 0x2003B).accessHere accPkt 0 ((ported 0x2003B).ctxOf 0) = .ok x t u) ∧ ((match (ported 0x150).accessHere accPkt 0 ((ported 0x150).ctxOf 0) with | .away o => o ≠ (ported 0x150).devid | _ => false) = true) ∧
    ((match hosted.accessHere accPkt 0 (hosted.ctxOf 0) with | .away o => o = hosted.devid | _ => false) = true ∧ hosted.dir? 1 = some (State.DirEntry.of hostOwner) ∧ hosted.hostHas 1 = true) ∧
    ((match summing.accessHere accPkt 0 (summing.ctxOf 0) with | .fault va => va ≠ accPkt.va && (match summing.walk 0 va with | .absent k _ _ => k = 0 | _ => false) | _ => false) = true) ∧
    ((match nothing.accessHere accPkt 0 (nothing.ctxOf 0) with | .fault va => va = accPkt.va && (match nothing.walk 0 va with | .absent k _ _ => k = 0 | _ => false) | _ => false) = true) ∧
    ((paged 0x2003B).Ready [(2, 2)] [] ∧ (paged 0x2003B).trueLanes pt ≠ 0 ∧ (paged 0x2003B).HandleFree ((paged 0x2003B).trueLanes pt) 5 ∧ (paged 0x2003B).gr.replay = false ∧ (paged 0x2003B).ctrFull 3 = false ∧
      (∀ i, ((paged 0x2003B).trueLanes pt).getLsbD i → canonical ((paged 0x2003B).g.rdPair 2 i).toNat = true ∧ apertureOf ((paged 0x2003B).g.rdPair 2 i).toNat = .glob) ∧
      (paged 0x2003B).walk 0 65664 = .page 131200 0x2003B 65536 ∧ Pte.s 0x2003B = false) ∧
    ((paged 0x200000000002003B).walk 0 65664 = .page 131200 0x200000000002003B 65536 ∧ Pte.s 0x200000000002003B = true) ∧ ((paged 0x150).walk 0 65664 = .elsewhere 1 ∧ (paged 0x150).peerDown 1 = false) :=
  ⟨by decide +kernel, by decide +kernel, by decide +kernel, by decide +kernel, by decide +kernel, on_acc (by decide +kernel), by decide +kernel, by decide +kernel, by decide +kernel, by decide +kernel,
    ⟨on_ready (by decide +kernel), by decide +kernel, ⟨by decide +kernel, by decide +kernel⟩, by decide +kernel, by decide +kernel, on_lanes (by decide +kernel), by decide +kernel, by decide⟩, by decide +kernel, by decide +kernel⟩
def directory (d : DirEntry) (s : State := here) : State := { s with share := { s.share with dir := [(1, d)] } }
/-- A page of owner o, with a request of n and so many stubs. -/
def asksFor (o n asked stubs : Nat) : DirEntry := { State.DirEntry.of o with queue := [(n, 5)], asked, stubs := (List.range stubs).map fun i => (i + 2, 0) }
def movingDir : DirEntry := { State.DirEntry.of 0 with gen := 7, migrating := some (0, 1), stubs := [(2, 0)] }
/-- No place is free for one more stub. -/
def stubFull : State := let s := migrating mig0; { s with share := { s.share with stubs := List.replicate 4096 (2, ⟨1, 4, none⟩) } }
theorem witness_MigrationEvents :
    (∀ d ∈ [asksFor 1 1 0 0, asksFor 1 2 0 0, asksFor 1 7 2 4, asksFor 0 1 0 3], (directory d).dirOf 1 = d ∧ d.queue = (d.queue.headD (0, 0)) :: [] ∧ d.migrating = none ∧ d.asked ≠ 1 ∧ (directory d).kMapped 1 = false ∧
      (directory d).peerDown 1 = false ∧ (directory d).peerDown 2 = false ∧ (directory d).peerDown 7 = false ∧ (directory d).peerDown 0 = false) ∧
    ((directory (asksFor 0 1 0 0) (tabled 0x100000000002003B)).kMapped 1 = true ∧ (directory (asksFor 1 2 0 0) { here with fab := { here.fab with peers := [(1, { Peer.empty with down := true })] } }).peerDown 1 = true) ∧
    (4 < ((asksFor 1 7 2 4).stubs.filter fun e => e.1 ≠ 7).length + 1 ∧ ((asksFor 0 1 0 3).stubs.filter fun e => e.1 ≠ 1).length + 1 ≤ 4 ∧ ownerDevice here.devid 0 = here.devid) ∧
    ((migrating (newMig false false)).migNew 1 = some (newMig false false)) ∧ ((migrating mig0).migOld 1 = some mig0 ∧ mig0.switched = false ∧ (migrating mig0).share.stubs.length + ((migrating mig0).share.migs.filter fun e => e.2.old && e.2.switched).length < Config.stubs) ∧
    (stubFull.migOld 1 = some mig0 ∧ Config.stubs ≤ stubFull.share.stubs.length + (stubFull.share.migs.filter fun e => e.2.old && e.2.switched).length) ∧
    (∀ m ∈ [newMig true false, newMig true true, { newMig true true with acked := true }], (migrating m).migNew 1 = some m ∧ m.old = false ∧ m.switched = true ∧ m.stood = false ∧ (migrating m).peerDown m.origin = false) ∧
    ((directory movingDir).dirOf 1 = movingDir ∧ (directory movingDir).migOld 1 = none ∧ (directory movingDir).migNew 1 = none) ∧
    (tabFind (stubbed 0).share.stubs 1 = some ⟨1, 4, some 0⟩ ∧ tabFind (stubbed 0 none).share.stubs 1 = some ⟨1, 4, none⟩ ∧ (stubbed 2699999).now < 0 + 900000 ∧ 0 + 900000 ≤ (stubbed 2700000).now) ∧ (1 = 2 ^ 41 * 0 + 1 % 2 ^ 41) := by decide +kernel
def peered (p : Peer) (third : Nat := 0) : State := { bench with third, fab := { bench.fab with peers := [(1, p)] } }
def relaying (n : Nat) : State := { bench with fab := { bench.fab with relayUsed := n } }
def sent0 (tries : Nat) : Sent := ⟨accPkt, 0, tries⟩
def timing (third : Nat) : State := { bench with third, share := { bench.share with remote := [(9, { remoteR with stamp := 1 })] } }
/-- Block 0 of the multicast flow 7 waits for slot 0, whose peer, module 1, is DOWN, and may have been refused. -/
def behindFlow : Flow := { multi0 with slotBehind := [(16 * 0 + 0, true)] }
def returning (refused : List Nat) : State := { bench with flows := [(7, behindFlow)], fab := { bench.fab with refused, peers := [(1, { Peer.empty with down := true })] } }
theorem on_returning : (returning []).peerDown 1 = true ∧ (returning [1]).peerDown 1 = true ∧ (returning []).fab.refused.contains 1 = false ∧ (returning [1]).fab.refused.contains 1 = true ∧
    (7, behindFlow) ∈ (returning []).flows ∧ behindFlow.sender = true ∧ behindFlow.multi = true ∧ behindFlow.dests.findIdx? (· = 1) = some 0 ∧ (16 * 0 + 0, true) ∈ behindFlow.slotBehind :=
  ⟨by decide +kernel, by decide +kernel, rfl, rfl, .head _, rfl, rfl, rfl, .head _⟩
theorem witness_TransportEvents : ((returning []).peerDown 1 = true ∧ (returning [1]).peerDown 1 = true ∧ (returning []).fab.refused.contains 1 = false ∧ (returning [1]).fab.refused.contains 1 = true ∧
    (7, behindFlow) ∈ (returning []).flows ∧ behindFlow.sender = true ∧ behindFlow.multi = true ∧ behindFlow.dests.findIdx? (· = 1) = some 0 ∧ (16 * 0 + 0, true) ∈ behindFlow.slotBehind) ∧
    (accPkt.src ≠ bench.devid ∧ bench.peerDown 1 = false ∧ accPkt.ack = 0 ∧ accPkt.cls = 0 ∧ State.fullSeq (tabGet 0 (bench.peer 1).expect 0) accPkt.seq = tabGet 0 (bench.peer 1).expect 0 ∧ (bench.peer 1).reorder = [] ∧ accPkt.op = Pk.load) ∧
    (tabGet 0 (bench.peer 1).expect 0 < State.fullSeq (tabGet 0 (bench.peer 1).expect 0) 2) ∧ (State.fullSeq 1 0 < tabGet 0 ((peered { Peer.empty with expect := [(0, 1)] }).peer 1).expect 0 ∧ (peered { Peer.empty with expect := [(0, 1)] }).peerDown 1 = false) ∧
    ((2 ^ 31 : Nat) < 5 + 2 ^ 31 ∧ (5 : Nat) < 2 ^ 31 + 2 ^ 31) ∧
    ((peered { Peer.empty with down := true }).peerDown 1 = true ∧ ({ accPkt with cls := 2, op := Pk.probe } : Pkt).cls = 2 ∧ ({ accPkt with cls := 2, op := Pk.probe } : Pkt).op = Pk.probe) ∧
    (∀ n ∈ [0, 8], ((peered { Peer.empty with sent := [sent0 n] }).peer 1).sent.find? (fun y => y.pkt.cls = 0 && y.pkt.seq = 0) = some (sent0 n) ∧ max (sent0 n).tries ((peered { Peer.empty with sent := [sent0 n] }).triesOf accPkt) = n ∧
      (peered { Peer.empty with sent := [sent0 n] }).isQueued 1 accPkt = false ∧ (peered { Peer.empty with ordered := [accPkt], sent := [sent0 n] }).isQueued 1 accPkt = true) ∧
    ((peered Peer.empty 150000).now ≤ (sent0 0).time + 5 * bench.fab.slotNs ∧ (sent0 0).time + 5 * bench.fab.slotNs < (peered Peer.empty 150003).now ∧ accPkt.op ≠ Pk.done ∧ (peered { Peer.empty with down := true }).peerDown 1 = true) ∧
    (bench.share.remote = [] ∧ bench.share.owners = [] ∧ bench.share.dir = [] ∧ bench.share.migs = [] ∧ bench.ops = [] ∧ bench.mem.away = [] ∧ bench.mem.evicting = []) ∧
    (((timing 0).share.remote.map (·.1)).Nodup ∧ ((timing 0).share.remote.map (·.2.pkt)).Nodup ∧ (∀ e ∈ (timing 0).share.remote, e.2.resent < 8) ∧ (9, { remoteR with stamp := 1 }) ∈ (timing 0).share.remote ∧
      (timing 180003).now ≤ 1 + 10000 + 5 * bench.fab.slotNs ∧
      ¬ (remoteR.peer = unknownOwner ∨ remoteR.peer = bench.devid ∨ (timing 180006).now ≤ 1 + 10000 + 5 * bench.fab.slotNs ∨ (timing 180006).isQueued remoteR.peer accPkt = true)) ∧
    (({ accPkt with dst := 2 } : Pkt).dst ≠ (relaying 0).devid ∧ (relaying 0).peerDown 1 = false ∧ (relaying 0).fab.relayUsed + 128 * accPkt.flits ≤ 268435456 ∧ 268435456 < (relaying 268435456).fab.relayUsed + 128 * accPkt.flits) := ⟨on_returning, by decide +kernel⟩

/-- Module 0 of two, in an open slot; receive port 64 and transmit port 0 as given. -/
def linked (rx tx : Port := Port.empty) (third : Nat := 0) : State :=
  { bench with third, fab := { bench.fab with n := 2, trained := true, slotOpen := true, inService := [(0, true)], ports := [(0, tx), (64, rx)] } }
def rx0 : Port := { Port.empty with live := true, peer := 1 }
def keyed (k : Key) : State := { linked with fab := { (linked).fab with keys := [(64, k)] } }
def plainKey : Key := ⟨1, 3, true, false, none, none⟩
/-- A key that this module receives under from module 1. -/
def keyedIn : State := { linked with fab := { (linked).fab with keys := [(64 * 257, plainKey)] } }
def dimmed : State := linked { rx0 with dark := true }
/-- The window of slot 0 closes 10 µs after it began, less the fibre's delay. -/
theorem on_window (third : Nat) : (linked rx0 Port.empty third).windowClose 0 = 64 * (10000 - Config.fibreDelay 0 % 751) := by
  show 64 * (0 + (0 + 1) * 10000 - Config.fibreDelay 0 % 751) = _
  omega
theorem on_open : 64 * (linked rx0).now + flitTime ((linked rx0).port 0).set ≤ (linked rx0).windowClose 0 ∧
    (linked rx0 Port.empty 30003).windowClose 0 < 64 * (linked rx0 Port.empty 30003).now + flitTime ((linked rx0 Port.empty 30003).port 0).set := by
  have h : (linked rx0).now = 0 ∧ flitTime ((linked rx0).port 0).set ≤ 64 * 9249 ∧ (linked rx0 Port.empty 30003).now = 10001 := by decide +kernel
  rw [on_window, on_window, h.1, h.2.2]
  have := Nat.mod_lt (Config.fibreDelay 0) (show 751 > 0 by decide)
  have := h.2.1
  omega
theorem witness_LinkEvents : ((keyed plainKey).Unshared ∧ (linked).Unshared ∧ 64 * (linked rx0).now + flitTime ((linked rx0).port 0).set ≤ (linked rx0).windowClose 0 ∧
      (linked rx0 Port.empty 30003).windowClose 0 < 64 * (linked rx0 Port.empty 30003).now + flitTime ((linked rx0 Port.empty 30003).port 0).set) ∧
    (({ linked with fab := { (linked).fab with refused := [1] } } : State).fab.refused.contains 1 = true ∧ (linked).fab.refused.contains 1 = false ∧ ((linked { rx0 with sick := 1 }).port 64).sick.getLsbD 0 = true) ∧
    ((linked rx0).port (64 + 0)).live = true ∧ (rx0.early = [] ∧ (∀ n ∈ [0, 5], rx0.expectLink ≤ n ∧ n < rx0.expectLink + 4096 ∧ n < 32768)) ∧
    (crcOk (correct (BitVec.ofNat 1088 5)).1 = false ∧ rx0.peer ≠ (linked rx0).devid) ∧
    ((((linked rx0 { Port.empty with replay := [(5, makeFlit 2 3 5 0 true 9)] }).port 0).replay.any fun e => e.1 % 65536 = 65541 % 65536) = true) ∧
    ((linked rx0 { Port.empty with cutting := some 1 }).port 0).cutting = some 1 ∧
    ((linked).pairedWith (linked).devid (linked).fab.slot 0 = some (⟨1, 0, 0, 65535, 0, 0⟩ : SlotHdr).dev ∧ (⟨1, 0, 0, 65535, 0, 0⟩ : SlotHdr).slot = (linked).fab.slot ∧ (linked).fab.slotOpen = true) ∧
    ((linked).fab.trained = true ∧ (linked).fab.epoch ≤ (linked).now) ∧
    (((keyed ⟨1, 2 ^ 41, false, false, none, none⟩).key 1 0).rekeying = false ∧ ((keyed ⟨1, 2 ^ 41 - 1, true, false, none, none⟩).key 1 0).rekeying = true ∧ 2 ^ 41 ≤ ((keyed ⟨1, 2 ^ 41, false, false, none, none⟩).key 1 0).counter ∧
      ((keyed ⟨1, 2 ^ 41 - 1, true, false, none, none⟩).key 1 0).counter < 2 ^ 41) ∧
    (((keyed plainKey).port 0).cutting = none ∧ (keyedIn.key 257 0).rekeying = true ∧ (dimmed.port (64 + 0)).dark = true ∧ ((linked rx0).port (64 + 0)).dark = false ∧
      ((linked rx0 { Port.empty with shift := true }).port 0).shift = true) ∧
    (4 ≤ (wavesOf ((linked rx0 { Port.empty with set := 0xF, parked := 3 }).port 0).set).length ∧ ((linked rx0 { Port.empty with set := 0xF, parked := 3 }).port 0).parked ≠ 0) ∧
    (∀ e ∈ [(0, 1), (65535, 65535)], tabGet 0x8000 ((linked rx0 { Port.empty with heater := [(0, e.1)] }).port 0).heater 0 = e.2 - (if e.1 = 0 then 1 else 0)) ∧
    ((linked).devid < 2 ∧ (linked).devid < 256 ∧ ∀ n ∈ [2, 256], ∀ f < 64, ([] : List Nat).getD f (f * sequenceLength n / 64) < sequenceLength n) := ⟨⟨⟨rfl, rfl, rfl, rfl, rfl, rfl, rfl⟩, ⟨rfl, rfl, rfl, rfl, rfl, rfl, rfl⟩, on_open⟩, by decide +kernel⟩
/-- One more team of grid 1 waits, and it fits on no core. -/
def starved (idle : Nat) (k : Core := Core.empty) : State :=
  { benchR (fun x => { x with count := 2, kernel := { x.kernel with scratch := 262144 }, groups := 32, saveSize := 4096, spinth := 100 }) (benchG fun g => { g with yieldMark := true }) with cores := [(0, { k with idle })] }
def barring : State := benchG (fun g => g.setWait 3 (.bar 5)) |>.setBar 0 5 false { Barrier.empty with timer := Config.barTimeout }
def silent (beat cycle : Nat) : State := { agent.modCore 0 (fun k => { k with beat }) with cycle }
/-- The slice of the code's line is full of lines still under lease, and the core's TLB holds its page. -/
theorem on_full_fetch : (fullSlice 100).translate 0 0 65540 = (.page 131076 0x2003B 65536, fullSlice 100) ∧ (fullSlice 100).allocLine (131076 / 128) = none := by
  refine ⟨by rfl, ?_⟩
  have hr : ∀ n, tabGet false (List.replicate n ((4 : Nat), true)) 1024 = false := fun n => by induction n with | zero => rfl | succ n ih => simp [List.replicate_succ, tabGet, ih]
  have h0 : tabGet false (fullSlice 100).mem.resident (131076 / 128) = false := hr _
  have h1 : ((fullSlice 100).mem.resident.filter fun e => sliceOf (e.1 * 128) = sliceOf (131076 / 128 * 128)) = List.replicate 65536 (4, true) := on_full 100
  have h2 : ((fullSlice 100).mem.resident.filter fun e => sliceOf (e.1 * 128) = sliceOf (131076 / 128 * 128)).filter (fun e => tabGet 0 (fullSlice 100).mem.horizon e.1 ≤ (fullSlice 100).sliceTime (sliceOf (131076 / 128 * 128))) = [] := by
    rw [h1, List.filter_replicate, if_neg]
    have h : tabGet 0 (fullSlice 100).mem.horizon 4 = 100 := rfl
    have hn : (fullSlice 100).now = 0 := rfl
    rw [h]; unfold State.sliceTime; simp; omega
  have h3 : ¬ (((fullSlice 100).mem.resident.filter fun e => sliceOf (e.1 * 128) = sliceOf (131076 / 128 * 128)).length < Config.sliceLines) := by
    rw [h1, List.length_replicate]; exact Nat.lt_irrefl _
  unfold State.allocLine
  rw [h0, if_neg (by decide)]
  dsimp only
  rw [if_neg h3, if_pos h2]
theorem witness_CoreEvents :
    ((fullSlice 100).translate 0 0 65540 = (.page 131076 0x2003B 65536, fullSlice 100) ∧ (fullSlice 100).allocLine (131076 / 128) = none) ∧
    (bench.translate 0 0 65540 = (.page 131076 0x2003B 65536, bench) ∧ (bench.allocLine (131076 / 128)).isSome = true) ∧
    (canonical 65540 = true ∧ apertureOf 65540 = .glob ∧ (∃ u, bench.translate 0 0 65540 = (.page 131076 0x2003B 65536, u)) ∧ Pte.x 0x2003B = true) ∧
    (∀ e ∈ bench.grids, e.2.halting = false) ∧ bench.someoneWaits = false ∧ ((starved 100).someoneWaits = true ∧ (starved 100).cores = [(0, { Core.empty with idle := 100 })] ∧ (starved 100).swapDue 0 = true ∧ (starved 100).swapVictim 0 = some 0 ∧
      (starved 100).members 0 = [0]) ∧
    (barring.stallDue 0 5 false = true ∧ barring.barWaiters 0 5 false = [(0, 3)] ∧ barring.stallDue 0 6 false = false) ∧
    ((tabFind bench.groups 0).isSome = true ∧ isAgent 0 = false) ∧
    (∀ c ∈ [16777215, 16777216], ((silent 0 c).groups.map (·.1)).Nodup ∧ (294912, bench.g) ∈ (silent 0 c).groups ∧ isAgent 294912 = true ∧
      (((silent 0 c).core (coreOf 294912)).beat + Config.watchdogCycles ≤ (silent 0 c).cycle ↔ c = 16777216)) ∧
    (∃ g, tabFind bench.groups 0 = some g ∧ bench.selectable 0 g = true) := by
  refine ⟨on_full_fetch, ⟨by rfl, by decide +kernel⟩, ⟨by decide +kernel, by decide +kernel, on_fst (by decide +kernel), by decide⟩, by decide +kernel, by decide +kernel, by decide +kernel, by decide +kernel, by decide +kernel, by decide +kernel, ?_⟩
  exact ⟨bench.g, by decide +kernel, by decide +kernel⟩

theorem on_some {α : Type} {o : Option α} (h : o.isSome = true) : ∃ u, o = some u := Option.isSome_iff_exists.1 h
/-- Grid 1 has two teams, and the second waits for a core. -/
def more (k : Kernel → Kernel := id) : State := { benchR (fun x => { x with count := 2, kernel := k x.kernel }) with sys := { bench.sys with boot := .ready } }
def wide (k : Kernel) : Kernel := { k with ch := 1, cw := 2, cn := 2, regs := 64 }
def finishing (logs : Tab Log) : State := { benchG (fun g => g.each (BitVec.allOnes 32) fun h i => h.setWait i .exited) with logs }
def retiring (third : Nat) : State := { benchR (fun x => { x with retired := [(0, 5)] }) (benchG fun g => g.setWait 1 (.ordw 2)) with third }
def retrying (third : Nat) : State := { benchR (fun x => { x with retryAt := 5 }) with third }
theorem witness_TeamEvents :
    ((more).sys.boot = .ready ∧ (more wide).sys.boot = .ready) ∧ ((more).gridOpen 1 = true ∧ ((more).ticketGrids.filter fun j => ((more).grid j).kernel.cn = 0 && ((more).teamFit 1 j).isSome) = [1] ∧ ((more).grid 1).esum = 0 ∧ (more).teamFit 1 1 = some (0, 0, 0) ∧
      (more).freeSlot 1 = some 0) ∧
    ((more wide).gridOpen 1 = true ∧ ((more wide).grid 1).kernel.cn ≠ 0 ∧ ((more wide).grid 1).nextCluster * ((more wide).grid 1).kernel.cn < ((more wide).grid 1).count ∧ ((more wide).grid 1).esum = 0 ∧
      (∃ u, (more wide).tryCluster 2 1 = some u) ∧ (more wide).tryCluster 11 1 = none) ∧
    ((tabFind (retrying 0).grids 1).isSome = true ∧ (retrying 14).now < ((retrying 14).grid 1).retryAt ∧ ((retrying 15).grid 1).retryAt ≤ (retrying 15).now) ∧
    (∀ l ∈ [[], [(1, Log.empty)]], (tabFind (finishing l).teams 0).isSome = true ∧ isAgent (32 * 0) = false ∧ teamDone (finishing l) 0 = true ∧ (finishing l).canRetire 0 = l.isEmpty) ∧
    (tabFind ((retiring 0).grid 1).retired 0 = some 5 ∧ (retiring 14).now < 5 ∧ 5 ≤ (retiring 15).now ∧ ((retiring 15).grp 0).waitOf 1 = .ordw 2) :=
  ⟨by decide +kernel, by decide +kernel, ⟨by decide +kernel, by decide +kernel, by decide +kernel, by decide +kernel, on_some (by decide +kernel), by decide +kernel⟩, by decide +kernel, by decide +kernel, by decide +kernel⟩
/-- The grid has a save area. -/
def saving (s : State := bench) : State := benchR (fun x => { x with save := 1048576, saveSize := 4096 }) s
def latched (haltAt cycle : Nat) : State := { saving with cores := [(0, { Core.empty with preempt := some 0, haltAt })], cycle }
def halted : State := (saving).modTeam 0 fun t => { t with halted := true }
def switched : State := next (.contextSwitch 0) halted
def recKey : Nat := State.recordKey 0 1048576
theorem on_switched : (tabFind switched.records recKey).isSome = true := by decide +kernel
def rec0 : Record := (tabFind switched.records recKey).get on_switched
/-- The record stands whole in the save area. -/
def resuming : State := { switched with third := 90, records := tabPut switched.records recKey { rec0 with complete := true } }
def rec1 : Record := { rec0 with complete := true }
/-- A record of the team in the mapped page, its image written up to there. -/
def hereKey : Nat := State.recordKey 0 73728
def writing (n : Nat) : Record := { rec0 with wrote := n }
def saved (n : Nat) : State := { switched with records := [(hereKey, writing n)] }
theorem on_record : ∀ n ∈ [0, 64], ∃ p u, (saved n).plainWrite 0 ((saved n).grid (writing n).grid).asid ((saved n).grid (writing n).grid).ctx (73728 + n) (128 - n) (((saved n).recordImage (writing n)).2 / 256 ^ n % 256 ^ (128 - n)) = .ok p u := by
  intro n hn
  simp only [List.mem_cons, List.not_mem_nil, or_false] at hn
  rcases hn with rfl | rfl <;> exact on_write (by decide +kernel)
theorem witness_PreemptionEvents :
    ((bench.core 0).preempt = none ∧ bench.victimOn 0 false = none ∧ ((saving).core 0).preempt = none ∧ (saving).victimOn 0 false = some 0 ∧ (saving).members 0 = [0]) ∧
    (∀ n ∈ [224, 225], (latched 225 n).cores = [(0, { Core.empty with preempt := some 0, haltAt := 225 })] ∧ (tabFind (latched 225 n).teams 0).isSome = true ∧ ((latched 225 n).team 0).held = false ∧
      ((latched 225 n).grid ((latched 225 n).team 0).grid).aborted = none ∧ (latched 225 n).canRetire 0 = false ∧ (latched 225 n).members 0 = [0] ∧ 0 / 16 = 0 ∧ (∀ e ∈ (latched 225 n).kreqs, e.2.fired.isSome = true → isAgent e.2.gk = true ∨ teamOf e.2.gk ≠ 0) ∧ ((latched 225 n).cycle < 225 ↔ n = 224)) ∧
    ((latched 225 225).kreqs = [] ∧ halted.stopped 0 = false ∧ (halted.modTeam 0 fun t => { t with held := true }).stopped 0 = true ∧ ((halted.modTeam 0 fun t => { t with held := true }).team 0).halted = true) ∧
    (tabFind halted.teams 0 = some (halted.team 0) ∧ (halted.team 0).halted = true ∧ halted.members 0 = [0] ∧ halted.passOutputs 0 = false ∧ halted.saveFit (halted.team 0).grid (halted.recordSize 0) = some 1048576 ∧
      halted.flows = [] ∧ (halted.groups.map (·.1)).Nodup ∧ ∀ e ∈ halted.groups, teamOf e.1 ≠ 2 ^ 35 + 16 * halted.nextRecord) ∧
    (tabFind switched.records recKey = some rec0 ∧ rec0.complete = false ∧ switched.recordSettled rec0.tk = true ∧
      ({ switched with logs := [(1, { Log.empty with gk := 32 * rec0.tk, st := [(0, .sent)] })] }).recordSettled rec0.tk = false) ∧
    (∀ n ∈ [0, 64, 2 ^ 20], tabFind (saved n).records hereKey = some (writing n) ∧ hereKey % 2 ^ 64 + (writing n).wrote = 73728 + n ∧ (saved n).recordSettled (writing n).tk = true ∧
      ((writing n).wrote < ((saved n).recordImage (writing n)).1 ↔ n ≠ 2 ^ 20) ∧ (n ≠ 2 ^ 20 → min (((saved n).recordImage (writing n)).1 - n) (128 - (73728 + n) % 128) = 128 - n)) ∧
    (∀ n ∈ [0, 64], ∃ p u, (saved n).plainWrite 0 ((saved n).grid (writing n).grid).asid ((saved n).grid (writing n).grid).ctx (73728 + n) (128 - n) (((saved n).recordImage (writing n)).2 / 256 ^ n % 256 ^ (128 - n)) = .ok p u) ∧
    (tabFind resuming.records recKey = some rec1 ∧ rec1.complete = true ∧ resuming.tooEarly rec1 = false ∧ 2 ^ 35 ≤ rec1.tk ∧ resuming.gridOpen rec1.grid = true ∧ (resuming.grid rec1.grid).kernel.cn = 0 ∧ resuming.kilnFits 1 rec1 = true ∧
      resuming.resumeFit 1 (resuming.team rec1.tk) = some (0, 0) ∧ resuming.freeSlot 1 = some 0 ∧ rec1.scratch.length = (resuming.team rec1.tk).scratch ∧ (resuming.groups.map (·.1)).Nodup ∧
      ∀ e ∈ resuming.groups, teamOf e.1 ≠ 16) :=
  ⟨by decide +kernel, by decide +kernel, by decide +kernel, by decide +kernel, by decide +kernel, by decide +kernel, on_record, by decide +kernel⟩
def privArg : PrivArgs := ⟨pt, 3, 4⟩
/-- The agent of core 0 with its operands in s3 and s4. -/
def asking (a b : Nat) (s : State := saving) : State :=
  { s with cur := { s.cur with gk := 294912 }, groups := tabPut s.groups 294912 (((s.grp 0).wrS 3 (BitVec.ofNat 64 a)).wrS 4 (BitVec.ofNat 64 b)) }
def crowded : State := bench.modTeam 0 fun t => { t with groups := 32, regs := 32 }
def heldTeam : State := bench.modTeam 0 fun t => { t with held := true }
/-- A grid of the same entry with another coefficient table. -/
def otherCoef : State := { bench with grids := (2, { bench.gr with kernel := { bench.gr.kernel with coef := [1] } }) :: bench.grids }
/-- A start record at physical 1,048,576. -/
def startRec (entry groups regs q0 scratch : Nat) (s : State := bench) : State :=
  asking 1048576 0 { s with sys := { s.sys with windows := [(1048576, 128)] }, mem := { s.mem with dram := memPut s.mem.dram 1048576 (entry + groups * 256 ^ 28 + regs * 256 ^ 32 + q0 * 256 ^ 35 + scratch * 256 ^ 36) 128 } }
/-- The start record names the context record of the team that was switched out. -/
def resumeRec : State := startRec (1048576 * 256 ^ 8) 1 32 1 0 resuming
def theRec (s : State) : StartRec := StartRec.ofNat (memNat s.mem.dram 1048576 128)
/-- A start record whose entry is good, and what the core then offers it: a slot, slots, registers, scratchpad. -/
def offered (s : State) (slot : Option Nat) (slots regs : Bool) (scratch : Option Nat) (coef : Bool := true) : Bool :=
  (theRec s).bad = false && decide ((theRec s).record = 0) &&
    match s.endChain.entryBad 0 (theRec s).asid (BitVec.ofNat 64 (theRec s).entry) with
    | some (false, v) => let w := v.withEsums 0 (v.lnchGrid (theRec s)); let u := w.2
      w.1 && (u.coefFits 0 (u.grid (u.lnchGrid (theRec s))).kernel.coef == coef) && decide (u.freeSlot 0 = slot) && u.slotsFit 0 (theRec s).groups (theRec s).q0 == slots && u.regsFit 0 (theRec s).groups (theRec s).regs (theRec s).q0 == regs &&
        decide (u.scratchFit 0 (theRec s).scratch = scratch)
    | _ => false
theorem on_entry {r : Option (Bool × State)} {b : Bool} (h : r.map (·.1) = some b) : ∃ u, r = some (b, u) := by
  rcases r with _ | ⟨c, u⟩
  · cases h
  · exact ⟨u, by rw [← Option.some.inj h]⟩
theorem witness_PrivilegedResults :
    isAgent bench.cur.gk = false ∧ (∀ n ∈ [0, 1, 16], isAgent (asking n 0).cur.gk = true ∧ (asking n 0).Ready [] [(3, 1), (4, 1)] ∧ (asking n 0).trueLanes privArg.guard ≠ 0 ∧ ((asking n 0).g.rdS 3).toNat = n ∧
      ((asking n 0).core 0).premOut = none ∧ ((asking n 0).core 0).preempt = none ∧ (16 * 0 + n ∈ (asking n 0).teamsOn 0 ↔ n = 0) ∧ (asking n 0).members 0 = [0] ∧ ((asking n 0).team 0).halted = false ∧ 16 * 0 + 0 < 9216) ∧
    (((asking 0 0 halted).team 0).halted = true ∧ 0 ∈ (asking 0 0 halted).teamsOn 0 ∧ ((asking 0 0 halted).core 0).premOut = none ∧ ((asking 0 0 halted).core 0).preempt = none ∧ ((asking 0 0 halted).g.rdS 3).toNat = 0 ∧
      (asking 0 0 halted).Ready [] [(3, 1), (4, 1)]) ∧
    (((asking 0 0).modCore 0 fun k => { k with premOut := some 2 }).core 0).premOut = some 2 ∧
    ((asking 0 0).curCore = 0 ∧ ((asking 0 0).team 0).held = false) ∧
    (∀ b ∈ [0, 1, 2], isAgent (asking 0 b heldTeam).cur.gk = true ∧ (asking 0 b heldTeam).Ready [] [(3, 1), (4, 1)] ∧ (asking 0 b heldTeam).trueLanes privArg.guard ≠ 0 ∧ ((asking 0 b heldTeam).g.rdS 3).toNat = 0 ∧
      0 ∈ (asking 0 b heldTeam).teamsOn 0 ∧ ((asking 0 b heldTeam).team 0).held = true ∧ (asking 0 b heldTeam).g.rdS 4 = BitVec.ofNat 64 b ∧ (asking 0 b heldTeam).logs = []) ∧
    ((startRec 65540 1 32 1 0).Ready [] [(3, 1), (4, 1)] ∧ ((startRec 65540 1 32 1 0).g.rdS 3).toNat = 1048576) ∧ (1048577 % 128 ≠ 0 ∧ (theRec (startRec 65540 0 32 1 0)).bad = true) ∧
    ((startRec 65540 1 32 1 0).inWindow 1048576 128 = true ∧ (asking 1048576 0).inWindow 1048576 128 = false) ∧
    ((theRec (startRec (1048576 * 256 ^ 8) 1 32 1 0)).record ≠ 0 ∧ tabFind (startRec 0 1 32 1 0).records (State.recordKey 0 1048576) = none) ∧
    ((theRec resumeRec).bad = false ∧ (theRec resumeRec).record ≠ 0 ∧ tabFind resumeRec.records (State.recordKey (theRec resumeRec).asid (theRec resumeRec).record) = some rec1 ∧ rec1.tk ≠ 0 ∧ rec1.complete = true ∧
      resumeRec.tooEarly rec1 = false ∧ resumeRec.coefFits 0 (resumeRec.grid rec1.grid).kernel.coef = true ∧ resumeRec.kilnFits 0 rec1 = true ∧ resumeRec.freeSlot 0 = some 0 ∧ resumeRec.slotsFit 0 (resumeRec.team rec1.tk).groups (theRec resumeRec).q0 = true ∧
      resumeRec.regsFit 0 (resumeRec.team rec1.tk).groups (resumeRec.team rec1.tk).regs (theRec resumeRec).q0 = true ∧ resumeRec.scratchFit 0 (resumeRec.team rec1.tk).scratch = some 0 ∧ 2 ^ 35 ≤ rec1.tk) ∧
    ((theRec (startRec 65552 1 32 1 0)).bad = false ∧ ∃ u, (startRec 65552 1 32 1 0).endChain.entryBad 0 0 65552 = some (true, u)) ∧
    offered (startRec 65540 1 32 1 0 otherCoef) (some 1) true true (some 0) false = true ∧ offered (startRec 65540 32 32 1 0 crowded) (some 1) false true (some 0) = true ∧ offered (startRec 65540 4 2048 1 0) (some 1) true false (some 0) = true ∧
    offered (startRec 65540 1 32 1 262144 roomy) (some 1) true true none = true ∧ offered (startRec 65540 1 32 1 0) (some 1) true true (some 0) = true := by
  refine ⟨by decide +kernel, fun n hn => ?_, ⟨by decide +kernel, by decide +kernel, by decide +kernel, by decide +kernel, by decide +kernel, on_ready (by decide +kernel)⟩, by decide +kernel, by decide +kernel, fun b hb => ?_, ⟨on_ready (by decide +kernel), by decide +kernel⟩, by decide +kernel, by decide +kernel, by decide +kernel, by decide +kernel,
    ⟨by decide +kernel, on_entry (by decide +kernel)⟩, by decide +kernel, by decide +kernel, by decide +kernel, by decide +kernel, by decide +kernel⟩
  · simp only [List.mem_cons, List.not_mem_nil, or_false] at hn
    rcases hn with rfl | rfl | rfl <;> exact ⟨by decide +kernel, on_ready (by decide +kernel), by decide +kernel⟩
  · simp only [List.mem_cons, List.not_mem_nil, or_false] at hb
    rcases hb with rfl | rfl | rfl <;> exact ⟨by decide +kernel, on_ready (by decide +kernel), by decide +kernel⟩

/-- A queue whose ring of 16 packets stands at VA 66,560. -/
def queue0 : Queue :=
  { ring := 66560, log2 := 4, prio := 0, devWrite := true, asid := 0, ctx := 0, compRing := 4096, status := 8192, write := 0, read := 0, state := .idle, accepted := 0, completed := 0, doneSet := [], nextSeq := 1,
    waiting := none, since := 0, checkAt := 0, barrier := false, badAt := none, signals := [], compCount := 0, workPending := false, susp := false }
def queued (x : Queue) (s : State := bench) : State := { s with queues := [(0, x)], agenda := [] }
/-- The first packet of the ring, at physical 132,096, or other bytes in the page at 131,072. -/
def packet (b : Nat) (s : State := bench) (pa : Nat := 132096) : State := { s with mem := { s.mem with dram := memPut s.mem.dram pa b 128 } }
def claiming (b : Nat) (x : Queue := queue0) : State := queued { x with write := 1 } { packet b with sys := { bench.sys with boot := .ready } }
theorem on_bad {r : Machine.EngRead} (h : (match r with | .bad _ => true | _ => false) = true) : ∃ e, r = .bad e := by cases r with | bad e => exact ⟨e, rfl⟩ | _ => cases h
/-- The head of the one queue is read, and has this property. -/
def heads (s : State) (x : Queue) (p : Nat → Bool) : Bool :=
  decide (s.bestQueue = some 0) && decide (s.sys.boot = .ready) && decide (s.queue? 0 = some x) && (match s.agentRead 0 x.asid x.ctx (State.ringAt x x.read) 128 (ringWaiter 0) with | .ok v _ => p v | _ => false)
def header : List Byte := [0x43, 0x4F, 0x45, 0x46, 1, 0]
def zeros (n : Nat) : List Byte := List.replicate n 0
def coef0 : List Byte := header ++ zeros 16378
theorem on_coef : badCoef coef0 = false := by
  have h1 : coef0.length = 16384 := by rw [coef0, List.length_append, zeros, List.length_replicate]; rfl
  have h2 : coef0.take 6 = header := List.take_left' rfl
  have h3 : (coef0.drop 6).take 1018 = zeros 1018 := by rw [show coef0.drop 6 = zeros 16378 from List.drop_left' rfl, zeros, List.take_replicate, zeros]; rfl
  have h4 : (zeros 1018).any (fun b => decide (b ≠ 0)) = false := by rw [List.any_eq_false]; intro b hb; rw [List.eq_of_mem_replicate hb]; decide
  rw [badCoef, h1, h2, h3, h4]; decide
def kernel0 : Kernel := { Kernel.empty with entry := 65540, regs := 32, depth := 16, coef := coef0 }
def grids (k : Kernel) : State := { queued queue0 with kernels := [(65536, k)] }
/-- A LAUNCH of one team of one group, of the kernel at 65,536, with 64 KiB for context records. -/
def launchBody : List Byte := bytesOf (65536 * 256 ^ 16 + 256 ^ 24 + 256 ^ 28 + 256 ^ 32 + 256 ^ 36 + 64 * 256 ^ 56) 128
theorem on_launch : badLaunch (natOf launchBody) kernel0 = false := by
  simp only [badLaunch, show badCoef kernel0.coef = false from on_coef]
  decide +kernel
/-- A signal of 7 at VA 65,664. -/
def signal : State := queued queue0 (packet 7 bench 131200)
def sigBody (a v k : Nat) : List Byte := bytesOf (a * 256 ^ 16 + v * 256 ^ 24 + k * 256 ^ 32) 128
def holding (v : Nat) : State := queued { queue0 with waiting := some (1, 65664, v), state := .waiting } signal
def two_ (s : State) : State := queued queue0 { s with fab := { s.fab with n := 2 } }
/-- A descriptor of flow 7 from device 0 to device 1 with frames of 64 bytes, at VA 65,664. -/
def flowDesc (frame : Nat) : State := queued queue0 (packet (frame * 256 ^ 32 + 7 * 256 ^ 36 + 256 ^ 40 + 256 ^ 48) bench 131200)
def flowRead (s : State) (p : Nat → State → Bool) : Bool := match s.agentRead 0 0 0 65664 64 (packetWaiter 0 1) with | .ok d u => p d u | _ => false
/-- The receiving end of flow 7 from device 1, at VA 65,664; its arrival record at VA 65,792, in a page of these rights. -/
def recvDesc (e : DWord) (mode : Nat := 4) : State :=
  (queued queue0 (packet (67584 * 256 ^ 8 + 65792 * 256 ^ 24 + 64 * 256 ^ 32 + 7 * 256 ^ 36 + 256 ^ 38 + mode * 256 ^ 39 + 256 ^ 40) bench 131200)).modCore portCore fun k => { k with tlb := [⟨0, 65536, 65536, e⟩] }
theorem on_recv : ∀ e ∈ [0x2003B, 0x2002B], ∃ d u, (recvDesc e).agentRead 0 0 0 65664 64 (packetWaiter 0 1) = .ok d u ∧ (field d 38 1 = 1 && field d 36 2 % 4096 = 7 && field d 39 1 / 4 % 2 = 1 && badFlow u.devid d = false &&
    (u.flow? (recvKey 1 7)).isNone && field d 24 8 = 65792 && (match u.plainWrite portCore 0 0 65792 16 0 (packetWaiter 0 1) with | .ok .. => e = 0x2003B | .bad _ => e = 0x2002B | .wait _ => false)) = true := by
  intro e he
  simp only [List.mem_cons, List.not_mem_nil, or_false] at he
  rcases he with rfl | rfl <;> exact on_read (p := fun d u => field d 38 1 = 1 && field d 36 2 % 4096 = 7 && field d 39 1 / 4 % 2 = 1 && badFlow u.devid d = false && (u.flow? (recvKey 1 7)).isNone && field d 24 8 = 65792 &&
    (match u.plainWrite portCore 0 0 65792 16 0 (packetWaiter 0 1) with | .ok .. => _ | .bad _ => _ | .wait _ => false)) (by decide +kernel)
theorem witness_PacketEvents :
    (∀ n ∈ [4, 20], field (natOf (bytesOf (n * 256 ^ 8) 64)) 8 1 = n ∧ field (natOf (bytesOf (n * 256 ^ 8) 64)) 9 1 / 8 % 16 = 0 ∧ field (natOf (bytesOf (n * 256 ^ 8) 64)) 32 32 = 0) ∧
    ((queued queue0).queue? 0 = some queue0 ∧ queue0.state.stuck = false ∧ ({ queue0 with state := .seqerr } : Queue).state.stuck = true ∧ ringDist 0 0 = 0 ∧ 2 ^ 31 < ringDist 0 4294967295 ∧ 2 ^ 4 < ringDist 0 17 ∧
      0 < ringDist 0 16 ∧ ringDist 0 16 ≤ 2 ^ queue0.log2 ∧ ringDist queue0.read queue0.write < ringDist 0 1 ∧
      ∃ v u, (queued queue0).agentRead 0 0 0 (State.ringAt queue0 ((1 + 2 ^ 32 - 1) % 2 ^ 32)) 8 (ringWaiter 0) = .ok v u ∧ (v / 2 ^ 32 = (1 : DWord).toNat / 2 ^ 32 && v / 2 ^ 32 ≠ (0x700000001 : DWord).toNat / 2 ^ 32) = true) ∧
    ((leafed 0x20033 (claiming 0)).bestQueue = some 0 ∧ (leafed 0x20033 (claiming 0)).sys.boot = .ready ∧ ∃ e, (leafed 0x20033 (claiming 0)).agentRead 0 0 0 66560 128 (ringWaiter 0) = .bad e) ∧
    heads (claiming 0) { queue0 with write := 1 } (fun v => field v 4 4 ≠ 1) = true ∧ heads (claiming (2 ^ 32 + 6)) { queue0 with write := 1 } (fun v => field v 4 4 = 1 && field v 0 1 = 6) = true ∧
    heads (claiming (2 ^ 33 + 257) { queue0 with accepted := 1 }) { queue0 with write := 1, accepted := 1 } (fun v => field v 4 4 = 2 && field v 0 1 = 1 && field v 1 1 = 1 && field v 2 2 = 0) = true ∧
    (∀ k ∈ [1, 2, 3, 4, 5], heads (claiming (2 ^ 32 + 256 + k)) { queue0 with write := 1 } (fun v => field v 4 4 = 1 && field v 0 1 = k && field v 1 1 / 2 = 0 && field v 2 2 = 0) = true) ∧
    (tabFind (queued queue0).kernels (field (natOf launchBody) 16 8) = none ∧ badLaunch (natOf launchBody) Kernel.empty = true ∧ field (natOf launchBody) 16 8 = 65536 ∧
      badLaunch (natOf launchBody) kernel0 = false ∧ field (natOf launchBody) 72 8 = 0 ∧ (0, 1) ∉ (queued queue0).obs.named) ∧
    (65665 % 8 ≠ 0 ∧ apertureOf teamBase ≠ .glob ∧ canonical (2 ^ 60) = false ∧ canonical 65664 = true ∧ apertureOf 65664 = .glob ∧ field (natOf (sigBody 65664 7 1)) 16 8 = 65664 ∧ field (natOf (sigBody 65664 7 1)) 32 1 = 1 ∧
      (∃ v u, signal.agentRead 0 0 0 65664 8 (packetWaiter 0 1) = .ok v u ∧ (field (natOf (sigBody 65664 7 1)) 24 8 ≤ v && v < field (natOf (sigBody 65664 8 0)) 24 8) = true) ∧ (∃ p u, signal.plainWrite 0 0 0 65664 8 7 (packetWaiter 0 1) = .ok p u) ∧
      ∃ p u, signal.agentAdd 0 0 0 65664 7 (packetWaiter 0 1) = .ok p u) ∧
    (∀ n ∈ [7, 8], (holding n).queues = [(0, { queue0 with waiting := some (1, 65664, n), state := .waiting })] ∧ (holding n).agenda = [] ∧
      ∃ y u, (holding n).agentRead 0 0 0 65664 8 (packetWaiter 0 1) = .ok y u ∧ (y = 7 && u.agenda = []) = true) ∧
    ((two_ bench).fab.n = 2 ∧ canonical teamBase = true ∧ teamBase % 65536 = 0 ∧ field (natOf (sigBody 65536 1 0)) 24 1 = 1 ∧ (two_ (tabled 0x2003B)).walk 0 65536 = .page 131072 0x2003B 65536 ∧ Pte.s 0x2003B = false ∧
      (two_ far).walk 0 65536 = .elsewhere 1 ∧ (two_ far).peerDown 1 = false) ∧
    (field (natOf (sigBody 1 65664 0)) 24 8 = 65664 ∧ field (natOf (sigBody 1 65664 0)) 16 1 = 1 ∧
      (∃ d u, (flowDesc 64).agentRead 0 0 0 65664 64 (packetWaiter 0 1) = .ok d u ∧ (field d 36 2 % 4096 = 7 && field d 39 1 / 4 % 2 = 0 && badFlow u.devid d = false && (u.flow? 7).isNone) = true) ∧
      (∃ d u, (flowDesc 63).agentRead 0 0 0 65664 64 (packetWaiter 0 1) = .ok d u ∧ badFlow u.devid d = true) ∧
      ∃ d u, ({ flowDesc 64 with flows := [(7, flow0)] } : State).agentRead 0 0 0 65664 64 (packetWaiter 0 1) = .ok d u ∧ (u.flow? 7).isSome = true) ∧
    (field (natOf (sigBody 0 65664 0)) 16 1 = 0 ∧ notGlobal (field (natOf (sigBody 0 65664 0)) 24 8) = false ∧ (∀ e ∈ [0x2003B, 0x2002B], ∃ d u, (recvDesc e).agentRead 0 0 0 65664 64 (packetWaiter 0 1) = .ok d u ∧ (field d 38 1 = 1 && field d 36 2 % 4096 = 7 && field d 39 1 / 4 % 2 = 1 && badFlow u.devid d = false &&
    (u.flow? (recvKey 1 7)).isNone && field d 24 8 = 65792 && (match u.plainWrite portCore 0 0 65792 16 0 (packetWaiter 0 1) with | .ok .. => e = 0x2003B | .bad _ => e = 0x2002B | .wait _ => false)) = true) ∧
      ∃ d u, (recvDesc 0x2003B 20).agentRead 0 0 0 65664 64 (packetWaiter 0 1) = .ok d u ∧ badFlow u.devid d = true) ∧
    (tabFind queue0.signals 1 = none ∧ queue0.compRing + 32 * (queue0.compCount % 4096) + 32 ≤ queue0.status ∧ 1 = (queue0.completed + 1) % 2 ^ 32 ∧ queue0.doneSet = []) ∧
    (tabFind ({ queue0 with signals := [(1, 65664)] } : Queue).signals 1 = some 65664 ∧ ∃ p u, signal.agentAdd 0 0 0 65664 1 (packetWaiter 0 1) = .ok p u) := by
  refine ⟨by decide +kernel, ⟨by decide +kernel, by decide +kernel, by decide +kernel, by decide +kernel, by decide +kernel, by decide +kernel, by decide +kernel, by decide +kernel, by decide +kernel, on_read (by decide +kernel)⟩,
    ⟨by decide +kernel, by decide +kernel, on_bad (by decide +kernel)⟩, by decide +kernel, by decide +kernel, by decide +kernel, by decide +kernel, ⟨by decide +kernel, by decide +kernel, by decide +kernel, on_launch, by decide +kernel⟩,
    ⟨by decide +kernel, by decide +kernel, by decide +kernel, by decide +kernel, by decide +kernel, by decide +kernel, by decide +kernel, on_read (by decide +kernel), on_write (by decide +kernel), on_write (by decide +kernel)⟩,
    fun n hn => ?_, by decide +kernel, ⟨by decide +kernel, by decide +kernel, on_read (by decide +kernel), on_read (p := fun d u => badFlow u.devid d) (by decide +kernel), on_read (p := fun _ u => (u.flow? 7).isSome) (by decide +kernel)⟩,
    ⟨by decide +kernel, by decide +kernel, on_recv, on_read (p := fun d u => badFlow u.devid d) (by decide +kernel)⟩, by decide +kernel, ⟨by decide +kernel, on_write (by decide +kernel)⟩⟩
  simp only [List.mem_cons, List.not_mem_nil, or_false] at hn
  rcases hn with rfl | rfl <;> exact ⟨by decide +kernel, by decide +kernel, on_read (by decide +kernel)⟩

theorem on_packs {r : State.Packets} {p : Tab Nat → State → Bool} (h : (match r with | .all pk u => p pk u | _ => false) = true) : ∃ pk u, r = .all pk u ∧ p pk u = true := by
  cases r with | all pk u => exact ⟨pk, u, rfl, h⟩ | _ => cases h
def pushArg : QpushArgs := ⟨someLanes, 5, 2, 6⟩
/-- Lane 2 is to push the packet at VA 65,664 into queue 0, whose write index is given; the grid has a spill area of so many entries at VA 67,584. -/
def pushing (write spill : Nat) (base : DWord := 65664) : State :=
  queued { queue0 with write } (benchR (fun x => { x with spillAt := 67584, kernel := { x.kernel with spill } }) (lane2.modG fun g => g.wrPair 2 2 base))
/-- Packet 0 of the spill area is for queue 0. -/
def spilled (write : Nat) : State := benchR (fun x => { x with spillAt := 67584, spill := [(0, 0)], kernel := { x.kernel with spill := 4 } }) (queued { queue0 with write })
/-- The pushed packet stands in TEAM space. -/
def pushTeam (base : DWord) : State := queued queue0 { benchR id (lane2.modG fun g => g.wrPair 2 2 base) with teams := roomy.teams, mem := roomy.mem }
def packetsOf (s : State) : State.Packets := State.readPackets (fun i => (s.g.rdPair 2 i).toNat) (kstabWaiter 0 2) (lanesOf (s.trueLanes someLanes)) s.endChain
/-- Do the pushes of these packets end, and does the write of lane 2's packet to this place? -/
def pushes (u : State) (pk : Tab Nat) (asid ctx place v : Nat) : Bool :=
  (match State.pushAll 0 1 5 pk (kstabWaiter 0 2) [2] u with | (_, none) => true | _ => false) && (match u.plainWrite u.curCore asid ctx place 128 v (kstabWaiter 0 2) with | .ok .. => true | _ => false)
def ringPush (pk : Tab Nat) (u : State) : Bool := (u.grid 1).spill = [] && pushes u pk 0 0 (State.ringAt queue0 0) (tabGet 0 pk 2 % 2 ^ 32 + 2 ^ 32 * (queue0.nextSeq % 2 ^ 32) + tabGet 0 pk 2 / 2 ^ 64 * 2 ^ 64)
def spillPush (pk : Tab Nat) (u : State) : Bool :=
  (u.grid 1).spill.length < (u.grid 1).kernel.spill && pushes u pk (u.grid 1).asid (u.grid 1).ctx (State.spillPlace (u.grid 1) (u.grid 1).spilled) (tabGet 0 pk 2)
/-- A spilled packet and its place in the ring can be read and written. -/
def moves (s : State) : Bool := match s.agentRead 0 (s.grid 1).asid (s.grid 1).ctx (State.spillPlace (s.grid 1) 0) 128 (packetWaiter 0 (2 ^ 32 + 1)) with
  | .ok p u => (match u.plainWrite 0 0 0 (State.ringAt { queue0 with write := 15 } 15) 128 (p % 2 ^ 32 + 2 ^ 32 * 1 + p / 2 ^ 64 * 2 ^ 64) (packetWaiter 0 (2 ^ 32 + 1)) with | .ok .. => true | _ => false)
  | _ => false
/-- No core holds a translation. -/
def untranslated (s : State) : State := { s with cores := [] }
def suspendable : State := saving (queued queue0)
theorem witness_QueueEvents :
    (tabFind bench.grids 1 = some (bench.grid 1) ∧ (bench.grid 1).aborted = none ∧ (bench.grid 1).stopping = false ∧ (bench.grid 1).halting = false ∧
      ((benchR fun x => { x with aborted := some (3, 0), halting := true }).grid 1).aborted ≠ none ∧ ((benchR fun x => { x with stopping := true }).grid 1).stopping = true) ∧
    ((queued { queue0 with write := 2 }).queue? 0 = some { queue0 with write := 2 } ∧ (State.refuseRest 0 (ringDist 0 2) (queued { queue0 with write := 2 })).2 = true ∧
      (State.refuseRest 0 (ringDist 0 2) (untranslated (queued { queue0 with write := 2 }))).2 = false ∧ (tabFind bench.grids 1).isSome = true ∧ (bench.grid 1).queue = 0 ∧ (bench.grids.map (·.1)).Nodup) ∧
    ((queued { queue0 with state := .seqerr }).queue? 0 = some { queue0 with state := .seqerr } ∧ ({ queue0 with state := .seqerr } : Queue).state.stuck = true ∧ queue0.state.stuck = false) ∧
    (suspendable.queue? 0 = some queue0 ∧ suspendable.teams = [(0, suspendable.tm)] ∧ suspendable.tm.halted = false ∧ suspendable.tm.held = false ∧ tabFind suspendable.grids suspendable.tm.grid = some suspendable.gr ∧
      suspendable.gr.queue = 0 ∧ suspendable.gr.held = false ∧ suspendable.gr.aborted = none ∧ suspendable.members 0 = [0] ∧ suspendable.saveFits suspendable.tm.grid [suspendable.recordSize 0] = true ∧
      (suspendable.core (0 / 16)).preempt = none) ∧
    (∀ w ∈ [15, 16], ((spilled w).grid 1).spill = (0, 0) :: [] ∧ (spilled w).queue? 0 = some { queue0 with write := w } ∧ (State.ringFree { queue0 with write := w } = 0 ↔ w = 16)) ∧ moves (spilled 15) = true ∧
    ((pushing 0 0).Ready [(2, 2)] [(6, 1)] ∧ (pushing 0 0).trueLanes someLanes = 4 ∧ lowLane 4 = 2 ∧ ((pushing 0 0).g.rdS 6).toNat % 4096 = 0 ∧ (pushing 0 0).gr.replay = false ∧ (pushing 0 0).queue? 0 = some queue0 ∧
      queue0.devWrite = true ∧ queue0.ctx = (pushing 0 0).tm.ctx ∧ (pushing 0 0).tm.grid = 1 ∧ (pushing 0 0).endChain.pushCheck true 2 65664 = none ∧ (pushing 0 0).endChain.fencePassed 0 4 .dev = true) ∧
    ((benchG id).trueLanes ⟨true, 15⟩ = 0 ∧ (benchR (fun x => { x with replay := true }) (pushing 0 0)).gr.replay = true) ∧
    ((pushing 0 0 0x8000000000000000).endChain.pushCheck true 2 (2 ^ 63) = some (Cause.nomap, 0) ∧ canonical (2 ^ 63) = false ∧ ((pushing 0 0 0x8000000000000000).g.rdPair 2 2).toNat = 2 ^ 63 ∧
      (pushing 0 0 65665).endChain.pushCheck true 2 65665 = some (Cause.misalign, 0) ∧ (pushing 0 0).endChain.pushCheck false 2 65664 = some (Cause.prot, 2) ∧ (pushing 0 0).queue? 1 = none ∧
      (pushTeam (teamBase + 8192)).endChain.pushCheck true 2 (teamBase + 8192) = some (Cause.prot, 1)) ∧
    ((∀ i, ((pushTeam teamBase).trueLanes someLanes).getLsbD i = true → match (pushTeam teamBase).placeOf 0 i ((pushTeam teamBase).g.rdPair 2 i).toNat 128 with
        | some (.scratch p) => (pushTeam teamBase).touchesAbsent p 128 = false | some (.vault _) => True | _ => False) ∧ (pushTeam teamBase).endChain.pushCheck true 2 teamBase = none ∧
      (pushTeam teamBase).endChain.fencePassed 0 4 .dev = true) ∧
    (lanesOf ((pushing 0 0).trueLanes someLanes) = [2] ∧ State.ringFree queue0 ≠ 0 ∧ State.ringFree { queue0 with write := 16 } = 0 ∧ (pushing 16 0).gr.kernel.spill ≤ (pushing 16 0).gr.spill.length) ∧
    (∃ pk u, packetsOf (pushing 0 0) = .all pk u ∧ ringPush pk u = true) ∧ (∃ pk u, packetsOf (pushing 16 1) = .all pk u ∧ spillPush pk u = true) ∧
    ∃ pk u, packetsOf (pushing 16 0) = .all pk u ∧ decide ((u.grid 1).kernel.spill ≤ (u.grid 1).spill.length) = true := by
  refine ⟨by decide +kernel, by decide +kernel, by decide +kernel, by decide +kernel, by decide +kernel, by decide +kernel, ⟨on_ready (by decide +kernel), by decide +kernel⟩, by decide +kernel, by decide +kernel,
    ⟨on_one _ (by decide +kernel) ?_, by decide +kernel, by decide +kernel⟩, by decide +kernel, on_packs (by decide +kernel), on_packs (by decide +kernel), on_packs (p := fun _ u => decide ((u.grid 1).kernel.spill ≤ (u.grid 1).spill.length)) (by decide +kernel)⟩
  rw [show (pushTeam teamBase).placeOf 0 2 ((pushTeam teamBase).g.rdPair 2 2).toNat 128 = some (.scratch 0) by decide +kernel]
  show (pushTeam teamBase).touchesAbsent 0 128 = false
  decide +kernel
def observing (f : ObsSt → ObsSt) (third : Nat := 6000) : State := { bench with third, obs := f bench.obs }
def sampling (gwrite third : Nat) : State := observing (fun o => { o with gctl := 0x10001, gwrite, gnext := 1 }) third
/-- The range of the trial ends below the slot that the group has issued. -/
def trying (trctl trdq : DWord) (trialNext : Nat := 100) : State := { observing fun o => { o with trctl, trdq, trhi := 65536, trialNext } with cycle := 100, cores := [(0, Core.empty)], groups := [(0, { bench.g with trialOut := true })] }
def keeping : State := (benchR (fun x => { x with replay := true }) saving)
def recording (rpjsz : DWord) : State := observing fun o => { o with rpctl := 4, rpjsz }
def ckpt0 : Ckpt := { gtime := 0, records := [], next := 0, nextCluster := 0, count := 1, nx := 1, retired := [], ords := [], signalled := [], cbars := [] }
def stopping : State := { recording 65600 with grids := [(1, { (saving).gr with replay := true, checkpoints := [ckpt0] })] }
/-- None of its teams is resident, and the journal holds these entries. -/
def stopped (journal : List JEntry) : State := { stopping with teams := [], groups := [], obs := { stopping.obs with journal } }
def entry0 : JEntry := { asid := 0, va := 65536, pa := 131072, old := [(131072, 1), (196607, 2)], ckpt := 1 }
theorem on_kept {r : Option (List Nat × State)} (h : r.isSome = true) : ∃ keys u, r = some (keys, u) := by
  rcases r with _ | ⟨k, u⟩
  · cases h
  · exact ⟨k, u, rfl⟩
theorem witness_ObserverEvents :
    (bench.obs.gctl.getLsbD 0 = false ∧ (1 : DWord).getLsbD 0 = true) ∧
    (∀ w ∈ [15, 16], (sampling w 3000).obs.gctl.getLsbD 0 = true ∧ (sampling w 3000).obs.gt0 + (sampling w 3000).obs.gnext * (sampling w 3000).geyserInterval ≤ (sampling w 3000).now ∧
      (sampling w 2999).now < (sampling w 2999).obs.gt0 + (sampling w 2999).obs.gnext * (sampling w 2999).geyserInterval ∧ (ringDist (sampling w 3000).obs.gread w < 2 ^ (sampling w 3000).geyserRows ↔ w = 15)) ∧
    ((trying 1 0).obs.trctl.getLsbD 0 = true ∧ (trying 0 0).obs.trctl.getLsbD 0 = false ∧ (trying 0 0x3F00000000).trialQ < 64 ∧ (trying 0 0x4000000040).trialQ ≤ (trying 0 0x4000000040).trialD ∧
      64 ≤ (trying 0 0x400000003F).trialQ ∧ (trying 0 0x400000003F).trialD < (trying 0 0x400000003F).trialQ) ∧
    (isAgent 0 = false ∧ switchedOut 0 = false ∧ (trying 1 0).obs.trialNext ≤ (trying 1 0).cycle ∧ (trying 1 0 101).cycle < (trying 1 0 101).obs.trialNext ∧ (trying 1 0).trialOn 0 = true ∧ ((trying 1 0).grp 0).trialOut = true) ∧
    ((2 : DWord).getLsbD 1 = true ∧ (1 : DWord).getLsbD 1 = false) ∧
    ((tabFind keeping.grids 1).isSome = true ∧ (keeping.grid 1).replay = true ∧ (keeping.grid 1).aborted = none ∧ (keeping.grid 1).halting = false ∧ ((keeping.teams.filter fun e => e.2.grid = 1).map (·.1)) = [0] ∧ keeping.records = [] ∧
      [0].any keeping.passOutputs = false ∧ ∃ keys u, State.keepAll [0] (([0].filter fun k => k < 9216).foldl (fun (t : State) k => t.quiesce k) keeping) = some (keys, u)) ∧
    ((recording 65600).obs.rpctl.extractLsb' 2 2 = 1 ∧ 131076 / 65536 ∉ (recording 65600).obs.journaled ∧ ((recording 65600).obs.journal.length + 1) * 65600 ≤ (recording 65600).obs.rpjsz.toNat ∧
      (recording 65599).obs.rpjsz.toNat < ((recording 65599).obs.journal.length + 1) * 65600) ∧
    bench.obs.rpctl.extractLsb' 2 2 ≠ 1 ∧
    (∀ s ∈ [stopping, stopped [], stopped [entry0]], s.obs.rpctl.extractLsb' 2 2 = 1 ∧ (s.grid 1).aborted = none ∧ (s.grid 1).checkpoints = [ckpt0] ∧
      s.ckptOk ckpt0 (s.obs.rpstop.extractLsb' 32 32).toNat (s.obs.rpstop.extractLsb' 27 5).toNat (s.obs.rpstop.extractLsb' 22 5).toNat s.obs.rpcnt.toNat = true ∧
      (s.grids.find? fun e => e.2.replay && e.2.queue = (s.obs.rpctl.extractLsb' 48 16).toNat && e.2.seq = (s.obs.rpctl.extractLsb' 16 32).toNat) = some (1, s.grid 1)) ∧
    (stopping.teams = [(0, stopping.tm)] ∧ stopping.tm.grid = 1 ∧ stopping.tm.halted = false ∧ stopping.tm.held = false ∧ (stopping.grid 1).held = false ∧ stopping.members 0 = [0] ∧
      stopping.saveFits 1 [stopping.recordSize 0] = true ∧ (stopping.core (0 / 16)).preempt = none) ∧
    (∀ l ∈ [[], [entry0]], (stopped l).teams = [] ∧ (stopped l).records = [] ∧ (stopped l).obs.journal = l) ∧
    (0 < entry0.ckpt ∧ (entry0.old.map (·.1)).Nodup ∧ ∀ b ∈ entry0.old, b.1 / 65536 = entry0.pa / 65536) ∧
    ((two_ far).fab.n = 2 ∧ (two_ far).walk 0 65536 = .elsewhere 1) ∧
    (((linked rx0 { Port.empty with set := 0xF, parked := 3 }).port 0).parked.getLsbD 1 = true ∧ (1 : DWord).getLsbD 1 = false) := by
  refine ⟨by decide +kernel, by decide +kernel, by decide +kernel, by decide +kernel, by decide +kernel, ⟨by decide +kernel, by decide +kernel, by decide +kernel, by decide +kernel, by decide +kernel, by decide +kernel, by decide +kernel, on_kept (by decide +kernel)⟩,
    by decide +kernel, by decide +kernel, by decide +kernel, by decide +kernel, by decide +kernel, by decide +kernel, by decide +kernel, by decide +kernel⟩
def verified : State := { bench with sys := { bench.sys with boot := .verified, measurement := 7 } }
theorem witness_StartEvents : (fullSlice 100).allocLine (131076 / 128) = none ∧ (bench.sys.boot ≠ .verified ∧ verified.sys.boot = .verified ∧ verified.sys.measurement = 7) ∧
    ((bench.allocLine (131072 / 128)).isSome = true ∧ 131072 < Config.frames * 65536 ∧ 131076 < Config.frames * 65536) ∧
    (Config.frames * 65536 - 2 + [(1 : Byte), 2].length ≤ Config.frames * 65536) ∧ (0 < Config.dies ∧ min Config.powerCap bench.sys.fwPower < 4000000 ∧ min Config.junctionCap bench.sys.fwJunction < 4000000) :=
  ⟨on_full_fetch.2, by decide +kernel⟩

end Sys2Proof.Machine
end

section
/-! SUPPORT. Reconvergence entries in the reserved registers, and their release (R27 to R29). -/

namespace Sys2Proof.Machine

/-- A parent is an index of seven bits (R27). -/
theorem Group.rdEntry_parent_lt (g : Group) (regs depth e : Nat) : (g.rdEntry regs depth e).parent < 128 := BitVec.isLt _

/-- An entry lies in the vector registers alone. -/
theorem Group.rdEntry_congr {g h : Group} (hv : g.v = h.v) (regs depth e : Nat) : g.rdEntry regs depth e = h.rdEntry regs depth e := by
  unfold Group.rdEntry Group.rdV
  rw [hv]

theorem Group.rdEntry_wrEntry_same (g : Group) (regs depth e : Nat) {x : Entry} (hx : x.parent < 128) :
    (g.wrEntry regs depth e x).rdEntry regs depth e = x := by
  have hparent : (BitVec.ofNat 7 x.parent ++ x.pc).extractLsb' 25 7 = BitVec.ofNat 7 x.parent := BitVec.extractLsb'_append_eq_left
  have hpc : (BitVec.ofNat 7 x.parent ++ x.pc).extractLsb' 0 25 = x.pc := BitVec.extractLsb'_append_eq_right
  have hlanes (r : Nat) : ¬ 32 * r + (2 * (e % 16) + 1) = 32 * r + 2 * (e % 16) := by omega
  simp only [Group.rdEntry, Group.wrEntry, Group.rdV_wrV, if_true, hlanes, if_false, hparent, hpc, BitVec.toNat_ofNat]
  rw [Nat.mod_eq_of_lt (by simpa using hx)]

/-- Distinct entries share no lane of a register. -/
theorem Group.rdEntry_wrEntry_other (g : Group) (regs depth : Nat) {e f : Nat} (x : Entry) (h : e ≠ f) :
    (g.wrEntry regs depth e x).rdEntry regs depth f = g.rdEntry regs depth f := by
  have key (a b : Nat) (ha : a ≤ 1) (hb : b ≤ 1) :
      ¬ 32 * entryReg regs depth e + (2 * (e % 16) + a) = 32 * entryReg regs depth f + (2 * (f % 16) + b) := by
    unfold entryReg; omega
  have h00 := key 0 0 (by omega) (by omega)
  have h01 := key 0 1 (by omega) (by omega)
  have h10 := key 1 0 (by omega) (by omega)
  have h11 := key 1 1 (by omega) (by omega)
  simp only [Nat.add_zero] at h00 h01 h10
  simp only [Group.rdEntry, Group.wrEntry, Group.rdV_wrV, h00, h01, h10, h11, if_false]

theorem Group.rdV_wrEntry_other (g : Group) (regs depth : Nat) {e r i : Nat} (x : Entry) (hi : i < 32) (h : entryReg regs depth e ≠ r) :
    (g.wrEntry regs depth e x).rdV r i = g.rdV r i := by
  have h0 : ¬ 32 * entryReg regs depth e + 2 * (e % 16) = 32 * r + i := by omega
  have h1 : ¬ 32 * entryReg regs depth e + (2 * (e % 16) + 1) = 32 * r + i := by omega
  simp only [Group.wrEntry, Group.rdV_wrV, h0, h1, if_false]

/-- The innermost entry, plus one, that leaving entry e gives to a lane. -/
def Group.parentOf (g : Group) (regs depth e : Nat) : Nat :=
  if (g.rdEntry regs depth e).parent = 127 then 0 else (g.rdEntry regs depth e).parent + 1

theorem Group.parentOf_le (g : Group) (regs depth e : Nat) : g.parentOf regs depth e ≤ 128 := by
  have := g.rdEntry_parent_lt regs depth e
  unfold Group.parentOf
  split_ifs <;> omega

/-- Every expected lane of entry e waits at it (R29). -/
def Group.Complete (g : Group) (regs depth e : Nat) : Prop :=
  (g.rdEntry regs depth e).expected ≠ 0 ∧ ∀ i, (g.rdEntry regs depth e).expected.getLsbD i = true → g.waitOf i = .rjoin e

/-- A lane is expected by one complete entry at most: it waits there. -/
theorem Group.Complete.unique {g : Group} {regs depth e f i : Nat} (he : g.Complete regs depth e) (hf : g.Complete regs depth f)
    (hie : (g.rdEntry regs depth e).expected.getLsbD i = true) (hif : (g.rdEntry regs depth f).expected.getLsbD i = true) : e = f :=
  Wait.rjoin.inj ((he.2 i hie).symm.trans (hf.2 i hif))

theorem Group.releaseEntry_of_complete {g : Group} {regs depth e : Nat} (h : g.Complete regs depth e) :
    g.releaseEntry regs depth e =
      (g.each (g.rdEntry regs depth e).expected fun k i => ((k.setWait i .run).setPc i (nextPc (k.pcOf i))).setInner i (g.parentOf regs depth e)).wrEntry
        regs depth e { g.rdEntry regs depth e with expected := 0 } := by
  obtain ⟨hne, hall⟩ := h
  have hw : (lanesOf (g.rdEntry regs depth e).expected).all (fun i => g.waitOf i = .rjoin e) = true :=
    List.all_eq_true.2 fun i hi => by simpa using hall i (mem_lanesOf.1 hi)
  exact if_pos (by rw [hw, Bool.and_true]; exact decide_eq_true hne)

theorem Group.releaseEntry_of_not_complete {g : Group} {regs depth e : Nat} (h : ¬ g.Complete regs depth e) : g.releaseEntry regs depth e = g := by
  unfold Group.releaseEntry
  refine if_neg fun hc => h ?_
  simp only [Bool.and_eq_true, decide_eq_true_eq, List.all_eq_true] at hc
  exact ⟨hc.1, fun i hi => hc.2 i (mem_lanesOf.2 hi)⟩

/-- OF THE ENTRIES OF A LIST, THE COMPLETE ONES HAVE BEEN RELEASED: each is free, its lanes run at the slot after the RJOIN inside its parent, and nothing else has changed (R29). -/
structure Group.Released (g h : Group) (regs depth : Nat) (l : List Nat) : Prop where
  freed : ∀ e ∈ l, g.Complete regs depth e → (h.rdEntry regs depth e).expected = 0
  lanes : ∀ e ∈ l, g.Complete regs depth e → ∀ i, (g.rdEntry regs depth e).expected.getLsbD i = true →
    h.waitOf i = .run ∧ h.pcOf i = nextPc (g.pcOf i) ∧ h.innerOf i = g.parentOf regs depth e
  entries : ∀ e, ¬ (e ∈ l ∧ g.Complete regs depth e) → h.rdEntry regs depth e = g.rdEntry regs depth e
  others : ∀ i, (∀ e ∈ l, g.Complete regs depth e → ¬ (g.rdEntry regs depth e).expected.getLsbD i = true) →
    h.waitOf i = g.waitOf i ∧ h.pcOf i = g.pcOf i ∧ h.innerOf i = g.innerOf i
  vectors : ∀ r i, i < 32 → (∀ e ∈ l, entryReg regs depth e ≠ r) → h.rdV r i = g.rdV r i
  group : h = { g with v := h.v, wait := h.wait, inner := h.inner, pc := h.pc }

/-- A list without a complete entry releases nothing. -/
theorem Group.Released.refl {g : Group} {regs depth : Nat} {l : List Nat} (h : ∀ e ∈ l, ¬ g.Complete regs depth e) : g.Released g regs depth l :=
  ⟨fun e he hc => absurd hc (h e he), fun e he hc => absurd hc (h e he), fun _ _ => rfl, fun _ _ => ⟨rfl, rfl, rfl⟩, fun _ _ _ _ => rfl, rfl⟩

theorem Group.releaseEntry_released (g : Group) (regs depth e : Nat) : g.Released (g.releaseEntry regs depth e) regs depth [e] := by
  by_cases hc : g.Complete regs depth e
  swap
  · rw [Group.releaseEntry_of_not_complete hc]
    exact .refl fun f hf => by rwa [List.mem_singleton.1 hf]
  rw [Group.releaseEntry_of_complete hc]
  set m := (g.rdEntry regs depth e).expected with hm
  set f := fun (k : Group) (i : Nat) => ((k.setWait i .run).setPc i (nextPc (k.pcOf i))).setInner i (g.parentOf regs depth e) with hf
  have hw (j : Nat) : (g.each m f).waitOf j = if m.getLsbD j then .run else g.waitOf j :=
    Group.each_lane Group.waitOf m f (fun _ _ => .run) (fun k i j => Group.waitOf_setWait k i j .run) g j
  have hp (j : Nat) : (g.each m f).pcOf j = if m.getLsbD j then nextPc (g.pcOf j) else g.pcOf j :=
    Group.each_lane Group.pcOf m f (fun _ => nextPc) (fun k i j => Group.pcOf_setPc k i j _) g j
  have hi (j : Nat) : (g.each m f).innerOf j = if m.getLsbD j then g.parentOf regs depth e else g.innerOf j :=
    Group.each_lane Group.innerOf m f (fun _ _ => g.parentOf regs depth e) (fun k i j => Group.innerOf_setInner k i j _) g j
  have hv : (g.each m f).v = g.v := Group.each_keeps Group.v m f (fun _ _ => rfl) g
  have heq : g.each m f = { g with wait := (g.each m f).wait, inner := (g.each m f).inner, pc := (g.each m f).pc } :=
    congrArg (fun k : Group => { k with wait := (g.each m f).wait, inner := (g.each m f).inner, pc := (g.each m f).pc })
      (Group.each_keeps (fun k => { k with wait := [], inner := [], pc := [] }) m f (fun _ _ => rfl) g)
  have hparent : ({ g.rdEntry regs depth e with expected := 0 } : Entry).parent < 128 := g.rdEntry_parent_lt regs depth e
  refine ⟨fun a ha _ => ?_, fun a ha _ i hx => ?_, fun a ha => ?_, fun i hx => ?_, fun r i h32 hr => ?_, ?_⟩
  · rw [List.mem_singleton.1 ha, Group.rdEntry_wrEntry_same _ _ _ _ hparent]
  · rw [List.mem_singleton.1 ha] at hx ⊢
    exact ⟨(hw i).trans (if_pos hx), (hp i).trans (if_pos hx), (hi i).trans (if_pos hx)⟩
  · have hne : e ≠ a := fun h => ha ⟨List.mem_singleton.2 h.symm, h ▸ hc⟩
    rw [Group.rdEntry_wrEntry_other _ _ _ _ hne, Group.rdEntry_congr hv]
  · have hx := hx e (List.mem_singleton.2 rfl) hc
    exact ⟨(hw i).trans (if_neg hx), (hp i).trans (if_neg hx), (hi i).trans (if_neg hx)⟩
  · rw [Group.rdV_wrEntry_other _ _ _ _ h32 (hr e (List.mem_singleton.2 rfl))]
    unfold Group.rdV
    rw [hv]
  · exact congrArg (fun k : Group => { k with v := ((g.each m f).wrEntry regs depth e { g.rdEntry regs depth e with expected := 0 }).v }) heq

/-- The release of other entries makes no entry complete and undoes none. -/
theorem Group.Released.complete_iff {g h : Group} {regs depth : Nat} {l : List Nat} (r : g.Released h regs depth l) {e : Nat} (he : e ∉ l) :
    h.Complete regs depth e ↔ g.Complete regs depth e := by
  have hentry : h.rdEntry regs depth e = g.rdEntry regs depth e := r.entries e fun hc => he hc.1
  unfold Group.Complete
  rw [hentry]
  refine and_congr_right fun _ => forall₂_congr fun i _ => ?_
  by_cases hx : ∃ a ∈ l, g.Complete regs depth a ∧ (g.rdEntry regs depth a).expected.getLsbD i = true
  · obtain ⟨a, ha, hca, hxa⟩ := hx
    have hae : a ≠ e := fun h => he (h ▸ ha)
    rw [(r.lanes a ha hca i hxa).1, hca.2 i hxa]
    simp [hae]
  · rw [(r.others i fun a ha hca hxa => hx ⟨a, ha, hca, hxa⟩).1]

theorem Group.Released.cons {g h k : Group} {regs depth e : Nat} {l : List Nat} (he : e ∉ l)
    (r : g.Released h regs depth [e]) (q : h.Released k regs depth l) : g.Released k regs depth (e :: l) := by
  have hne {a : Nat} (ha : a ∈ l) : a ∉ [e] := fun h => he (List.mem_singleton.1 h ▸ ha)
  have hc {a : Nat} (ha : a ∈ l) : h.Complete regs depth a ↔ g.Complete regs depth a := r.complete_iff (hne ha)
  have hentry {a : Nat} (ha : a ∈ l) : h.rdEntry regs depth a = g.rdEntry regs depth a := r.entries a fun x => hne ha x.1
  -- what the rest of the list does to a lane that none of its complete entries expects
  have rest {i : Nat} (hi : ∀ a ∈ l, g.Complete regs depth a → ¬ (g.rdEntry regs depth a).expected.getLsbD i = true) :
      k.waitOf i = h.waitOf i ∧ k.pcOf i = h.pcOf i ∧ k.innerOf i = h.innerOf i :=
    q.others i fun a ha hca => hentry ha ▸ hi a ha ((hc ha).1 hca)
  refine ⟨fun a ha hca => ?_, fun a ha hca i hx => ?_, fun a ha => ?_, fun i hx => ?_, fun n i h32 hn => ?_, ?_⟩
  · rcases List.mem_cons.1 ha with rfl | ha
    · rw [q.entries a fun x => he x.1, r.freed a (List.mem_singleton.2 rfl) hca]
    · exact q.freed a ha ((hc ha).2 hca)
  · rcases List.mem_cons.1 ha with rfl | ha
    · have hr := r.lanes a (List.mem_singleton.2 rfl) hca i hx
      obtain ⟨h1, h2, h3⟩ := rest (i := i) fun b hb hcb hxb => he (hca.unique hcb hx hxb ▸ hb)
      rwa [h1, h2, h3]
    · obtain ⟨-, hpc, -⟩ := r.others i fun b hb hcb hxb => hne ha (hca.unique hcb hx hxb ▸ hb)
      have hq := q.lanes a ha ((hc ha).2 hca) i (by rwa [hentry ha])
      rw [hpc] at hq
      unfold Group.parentOf at hq ⊢
      rwa [hentry ha] at hq
  · rw [q.entries a fun x => ha ⟨List.mem_cons_of_mem _ x.1, (hc x.1).1 x.2⟩,
      r.entries a fun x => ha ⟨List.mem_cons.2 (.inl (List.mem_singleton.1 x.1)), x.2⟩]
  · have hr := r.others i fun a ha => hx a (List.mem_cons.2 (.inl (List.mem_singleton.1 ha)))
    have hk := rest (i := i) fun a ha => hx a (List.mem_cons_of_mem _ ha)
    exact ⟨hk.1.trans hr.1, hk.2.1.trans hr.2.1, hk.2.2.trans hr.2.2⟩
  · rw [q.vectors n i h32 fun a ha => hn a (List.mem_cons_of_mem _ ha), r.vectors n i h32 fun a ha => hn a (List.mem_cons.2 (.inl (List.mem_singleton.1 ha)))]
  · exact q.group.trans (congrArg (fun x : Group => { x with v := k.v, wait := k.wait, inner := k.inner, pc := k.pc }) r.group)

/-- `releaseAll` releases the complete entries below the depth, all at once. -/
theorem Group.releaseAll_released (g : Group) (regs depth : Nat) : g.Released (g.releaseAll regs depth) regs depth (List.range depth) := by
  have gen (l : List Nat) (hl : l.Nodup) (g : Group) : g.Released (l.foldl (fun h e => h.releaseEntry regs depth e) g) regs depth l := by
    induction l generalizing g with
    | nil => exact .refl fun _ he => absurd he List.not_mem_nil
    | cons e l ih => exact .cons (List.nodup_cons.1 hl).1 (g.releaseEntry_released regs depth e) (ih (List.nodup_cons.1 hl).2 _)
  exact gen _ List.nodup_range g

/-- A lane that waits at no RJOIN keeps its place. -/
theorem Group.Released.keeps_lane {g h : Group} {regs depth : Nat} {l : List Nat} (r : g.Released h regs depth l) {i : Nat} (hi : ∀ e, g.waitOf i ≠ .rjoin e) :
    h.waitOf i = g.waitOf i ∧ h.pcOf i = g.pcOf i ∧ h.innerOf i = g.innerOf i := r.others i fun e _ hc hx => hi e (hc.2 i hx)

/-- No entry comes to expect a lane. -/
theorem Group.Released.not_expected {g h : Group} {regs depth : Nat} {l : List Nat} (r : g.Released h regs depth l) {e i : Nat}
    (hi : ¬ (g.rdEntry regs depth e).expected.getLsbD i = true) : ¬ (h.rdEntry regs depth e).expected.getLsbD i = true := by
  by_cases hc : e ∈ l ∧ g.Complete regs depth e
  · simp [r.freed e hc.1 hc.2]
  · rwa [r.entries e hc]

/-- A further change of the issuing group alone. -/
theorem State.Beside.setGrp {s t : State} (h : s.Beside t) (g : Group) : s.Beside (t.setGrp t.cur.gk g) := by
  have hgk : t.cur.gk = s.cur.gk := by rw [h.cur]
  refine ⟨?_, h.cur, fun k hk => ?_, h.teams, h.cores, h.obs, h.logs⟩
  · exact congrArg (fun x : State => { x with groups := (t.setGrp t.cur.gk g).groups }) h.rest
  · rw [State.grp_setGrp, if_neg (by rw [hgk]; exact hk.symm), h.groups k hk]

/-- The end of a slot keeps the team's register count and depth. -/
theorem State.Beside.tm_size {s t : State} (h : s.Beside t) : t.tm.regs = s.tm.regs ∧ t.tm.depth = s.tm.depth := by
  have hgk : t.cur.gk = s.cur.gk := by rw [h.cur]
  have ht := h.teams (teamOf s.cur.gk)
  unfold State.tm
  rw [hgk]
  exact ⟨(congrArg Team.regs ht :), (congrArg Team.depth ht :)⟩

/-- The end of a slot and then the release of every complete entry: beside RETIRED, the group changes by the release alone. -/
theorem State.finish_releaseEntries {s s1 : State} (h : s.Aside s1) :
    s.Beside (s1.finish false).releaseEntries ∧
    s1.g.Released { (s1.finish false).releaseEntries.g with retired := s1.g.retired } s.tm.regs s.tm.depth (List.range s.tm.depth) := by
  have hb : s.Beside (s1.finish false) := h.finish false
  refine ⟨hb.setGrp _, ?_⟩
  have hg : (s1.finish false).releaseEntries.g = (s1.finish false).g.releaseAll s.tm.regs s.tm.depth := by
    have : (s1.finish false).releaseEntries.g = (s1.finish false).g.releaseAll (s1.finish false).tm.regs (s1.finish false).tm.depth := State.g_setGrp _ _
    rw [this, hb.tm_size.1, hb.tm_size.2]
  have r := (s1.finish false).g.releaseAll_released s.tm.regs s.tm.depth
  rw [← hg] at r
  have hf := (s1.finish_g false).1
  simp only [Bool.not_false, Bool.and_true] at hf
  rw [hf] at r
  exact ⟨r.freed, r.lanes, r.entries, r.others, r.vectors, congrArg (fun x : Group => { x with retired := s1.g.retired }) r.group⟩

end Sys2Proof.Machine
end

section
/-! SUPPORT. RJOIN (R29, R30, R367): the lanes that wait, and what the release that follows does. -/

namespace Sys2Proof.Machine

@[simp] theorem Group.waitOf_commitChain (g : Group) (m : LaneMask) (i : Nat) : (g.commitChain m).waitOf i = g.waitOf i := by
  rw [Group.commitChain_eq]; rfl
@[simp] theorem Group.pcOf_commitChain (g : Group) (m : LaneMask) (i : Nat) : (g.commitChain m).pcOf i = g.pcOf i := by
  rw [Group.commitChain_eq]; rfl
@[simp] theorem Group.innerOf_commitChain (g : Group) (m : LaneMask) (i : Nat) : (g.commitChain m).innerOf i = g.innerOf i := by
  rw [Group.commitChain_eq]; rfl
@[simp] theorem Group.rdV_commitChain (g : Group) (m : LaneMask) (r i : Nat) : (g.commitChain m).rdV r i = g.rdV r i := by
  rw [Group.commitChain_eq]; rfl
@[simp] theorem Group.rdEntry_commitChain (g : Group) (m : LaneMask) (regs depth e : Nat) : (g.commitChain m).rdEntry regs depth e = g.rdEntry regs depth e :=
  Group.rdEntry_congr (by rw [Group.commitChain_eq]) _ _ _

theorem getLsbD_and_not (m t : LaneMask) (i : Nat) : (m &&& ~~~t).getLsbD i = (m.getLsbD i && !t.getLsbD i) := by
  by_cases h : i < 32
  · simp [h]
  · simp [BitVec.getLsbD_of_ge m i (Nat.le_of_not_lt h)]

/-- Outside a pair, the true-guard lanes are lanes of the path (R53). -/
theorem State.mask_of_trueLanes {s : State} (hs : s.OnPath) {x : Guard} {i : Nat} (h : (s.trueLanes x).getLsbD i = true) : s.cur.mask.getLsbD i = true := by
  unfold State.trueLanes at h
  rw [hs.1] at h
  simp only [maskOf_bit, Bool.and_eq_true] at h
  exact h.2.1

/-- The lanes that wait at the RJOIN that issues (R29). -/
def State.standing (s : State) (x : Guard) : LaneMask :=
  maskOf fun i => (s.trueLanes x).getLsbD i && s.g.innerOf i ≠ 0 && (s.g.rdEntry s.tm.regs s.tm.depth (s.g.innerOf i - 1)).pc = rcvBits s.codeBase s.cur.pc

theorem State.standing_bit (s : State) (x : Guard) (i : Nat) : (s.standing x).getLsbD i = true ↔ s.waitsHere x i := by
  unfold State.standing State.waitsHere
  simp only [maskOf_bit, Bool.and_eq_true, decide_eq_true_eq, and_assoc]
  exact and_iff_right_of_imp fun h => lt_of_mem_lanesOf (mem_lanesOf.2 h.1)

theorem State.standing_endChain (s : State) (x : Guard) : s.endChain.standing x = s.standing x := by
  have hbase : s.endChain.codeBase = s.codeBase := by rw [State.endChain_eq]; rfl
  have htm : s.endChain.tm = s.tm := by rw [State.endChain_eq]; rfl
  unfold State.standing
  simp only [State.trueLanes_endChain, State.endChain_g, State.endChain_cur, hbase, htm, Group.innerOf_commitChain, Group.rdEntry_commitChain]

/-- The lanes w of the path wait at their innermost entries, the others pass (R29, R30). -/
def State.joinAt (s : State) (w : LaneMask) : State :=
  (s.skipLanes w).modG fun g => g.each w fun h i => h.setWait i (.rjoin (h.innerOf i - 1))

theorem State.exec_rjoin (s : State) (x : G0Args) (h : s.Ready [] []) :
    exec (.rjoin x) s = .next ((s.endChain.joinAt (s.standing x.guard)).finish false).releaseEntries := by
  have hx : exec (.rjoin x) s = execRjoin x s := rfl
  rw [hx, execRjoin, s.enter_ok _ _ _ h, ← s.standing_endChain]
  rfl

theorem State.skipLanes_aside (s : State) (m : LaneMask) : s.Aside (s.skipLanes m) := .setGrp s _

theorem State.skipLanes_g (s : State) (m : LaneMask) :
    (s.skipLanes m).g = s.g.each (s.cur.mask &&& ~~~m) fun h i => h.setPc i (nextPc s.cur.pc) := State.g_setGrp s _

theorem State.joinAt_aside (s : State) (w : LaneMask) : s.Aside (s.joinAt w) := (s.skipLanes_aside w).trans (.setGrp _ _)

/-- Of its group, `joinAt` changes the lanes' places alone. -/
theorem State.joinAt_g (s : State) (w : LaneMask) :
    (∀ i, (s.joinAt w).g.waitOf i = if w.getLsbD i then .rjoin (s.g.innerOf i - 1) else s.g.waitOf i) ∧
    (∀ i, (s.joinAt w).g.pcOf i = if s.cur.mask.getLsbD i && !w.getLsbD i then nextPc s.cur.pc else s.g.pcOf i) ∧
    (s.joinAt w).g = { s.g with wait := (s.joinAt w).g.wait, pc := (s.joinAt w).g.pc } := by
  set f := fun (h : Group) (i : Nat) => h.setWait i (.rjoin (h.innerOf i - 1)) with hf
  have hg : (s.joinAt w).g = (s.skipLanes w).g.each w f := State.g_setGrp _ _
  have hskip := s.skipLanes_g w
  have heq := hskip.trans (Group.each_setPc_eq ..)
  refine ⟨fun i => ?_, fun i => ?_, ?_⟩
  · have hw : ((s.skipLanes w).g.each w f).waitOf i = if w.getLsbD i then .rjoin ((s.skipLanes w).g.innerOf i - 1) else (s.skipLanes w).g.waitOf i := by
      have := congrArg Prod.fst (Group.each_lane (fun g i => (g.waitOf i, g.innerOf i)) w f (fun _ p => (.rjoin (p.2 - 1), p.2))
        (fun g i j => by by_cases hij : i = j <;> simp [hf, hij, Group.innerOf]) (s.skipLanes w).g i)
      refine this.trans ?_
      split_ifs <;> rfl
    rw [hg, hw, heq]
    rfl
  · rw [hg, show ((s.skipLanes w).g.each w f).pcOf i = (s.skipLanes w).g.pcOf i from Group.each_keeps (fun g => g.pcOf i) w f (fun _ _ => rfl) _, hskip,
      Group.pcOf_each_setPc, getLsbD_and_not]
  · have hk := Group.each_keeps (fun k => { k with wait := [], pc := [] }) w f (fun _ _ => rfl) (s.skipLanes w).g
    rw [← hg, heq] at hk
    exact congrArg (fun k : Group => { k with wait := (s.joinAt w).g.wait, pc := (s.joinAt w).g.pc }) hk

/-- An entry is complete once the RJOIN's lanes wait, exactly when the statement of R29 says so. -/
theorem State.completes_iff (s : State) (x : Guard) (e : Nat) :
    s.completes x e ↔ e < s.tm.depth ∧ (s.endChain.joinAt (s.standing x)).g.Complete s.tm.regs s.tm.depth e := by
  obtain ⟨hw, -, hg⟩ := s.endChain.joinAt_g (s.standing x)
  have hentry : (s.endChain.joinAt (s.standing x)).g.rdEntry s.tm.regs s.tm.depth e = s.g.rdEntry s.tm.regs s.tm.depth e := by
    rw [← Group.rdEntry_commitChain s.g s.cur.mask, ← State.endChain_g]
    exact Group.rdEntry_congr (by rw [hg]) _ _ _
  unfold State.completes Group.Complete
  rw [hentry]
  refine and_congr_right fun _ => and_congr_right fun _ => forall₂_congr fun i _ => ?_
  rw [hw, State.endChain_g, Group.innerOf_commitChain, Group.waitOf_commitChain]
  by_cases hi : s.waitsHere x i
  · obtain ⟨-, hne, -⟩ := id hi
    have : s.g.innerOf i = e + 1 ↔ s.g.innerOf i - 1 = e := by omega
    simp [(s.standing_bit x i).2 hi, hi, this]
  · simp [mt (s.standing_bit x i).1 hi, hi]

/-- AN RJOIN HAS ISSUED: the lanes at their innermost entry's reconvergence PC wait there, the other lanes of the path have passed, and every entry that is complete with them is released; of the group, nothing else has changed (R29, R30). -/
structure State.Rjoined (s t : State) (x : Guard) : Prop where
  beside : s.Beside t
  waiting : ∀ i, s.waitsHere x i → ¬ (s.completes x (s.g.innerOf i - 1) ∧ (s.g.rdEntry s.tm.regs s.tm.depth (s.g.innerOf i - 1)).expected.getLsbD i = true) →
    t.g.waitOf i = .rjoin (s.g.innerOf i - 1) ∧ t.g.pcOf i = s.cur.pc ∧ t.g.innerOf i = s.g.innerOf i
  passing : ∀ i, s.cur.mask.getLsbD i = true → ¬ s.waitsHere x i → t.g.waitOf i = .run ∧ t.g.pcOf i = nextPc s.cur.pc ∧ t.g.innerOf i = s.g.innerOf i
  released : ∀ e, s.completes x e → (t.g.rdEntry s.tm.regs s.tm.depth e).expected = 0 ∧
    ∀ i, (s.g.rdEntry s.tm.regs s.tm.depth e).expected.getLsbD i = true → t.g.waitOf i = .run ∧ t.g.pcOf i = nextPc (s.g.pcOf i) ∧ t.g.innerOf i = s.parentOf e
  others : ∀ i, ¬ s.cur.mask.getLsbD i = true → (∀ e, ¬ (s.completes x e ∧ (s.g.rdEntry s.tm.regs s.tm.depth e).expected.getLsbD i = true)) →
    t.g.waitOf i = s.g.waitOf i ∧ t.g.pcOf i = s.g.pcOf i ∧ t.g.innerOf i = s.g.innerOf i
  entries : ∀ e, ¬ s.completes x e → t.g.rdEntry s.tm.regs s.tm.depth e = s.g.rdEntry s.tm.regs s.tm.depth e
  vectors : ∀ r i, i < 32 → (∀ e < s.tm.depth, entryReg s.tm.regs s.tm.depth e ≠ r) → t.g.rdV r i = s.g.rdV r i
  group : t.g = { s.g.commitChain s.cur.mask with v := t.g.v, wait := t.g.wait, inner := t.g.inner, pc := t.g.pc, retired := t.g.retired }

/-- RJOIN does what R29 and R30 say, whatever the team's depth: the first half of O22, with the frame of the group's registers. -/
theorem State.rjoin_results (s : State) (x : G0Args) (hs : s.OnPath) (h : s.Ready [] []) : ∃ t, exec (.rjoin x) s = .next t ∧ s.Rjoined t x.guard := by
  refine ⟨_, s.exec_rjoin x h, ?_⟩
  obtain ⟨hw, hp, hg⟩ := s.endChain.joinAt_g (s.standing x.guard)
  have hc := s.completes_iff x.guard
  obtain ⟨hb, r⟩ := State.finish_releaseEntries (s.endChain_aside.trans (s.endChain.joinAt_aside (s.standing x.guard)))
  set s1 := s.endChain.joinAt (s.standing x.guard)
  set t := (s1.finish false).releaseEntries
  rw [State.endChain_g] at hw hp hg
  simp only [State.endChain_cur, Group.innerOf_commitChain, Group.waitOf_commitChain, Group.pcOf_commitChain] at hw hp
  have hi (i : Nat) : s1.g.innerOf i = s.g.innerOf i := by rw [hg, ← Group.innerOf_commitChain s.g s.cur.mask]; rfl
  have he (e : Nat) : s1.g.rdEntry s.tm.regs s.tm.depth e = s.g.rdEntry s.tm.regs s.tm.depth e := by
    rw [← Group.rdEntry_commitChain s.g s.cur.mask]; exact Group.rdEntry_congr (by rw [hg]) _ _ _
  have hpar (e : Nat) : s1.g.parentOf s.tm.regs s.tm.depth e = s.parentOf e := by unfold Group.parentOf State.parentOf; rw [he]
  -- a lane that no released entry expects stands where the RJOIN has left it
  have stays {i : Nat} (hx : ∀ e, ¬ (s.completes x.guard e ∧ (s.g.rdEntry s.tm.regs s.tm.depth e).expected.getLsbD i = true)) :
      t.g.waitOf i = s1.g.waitOf i ∧ t.g.pcOf i = s1.g.pcOf i ∧ t.g.innerOf i = s1.g.innerOf i :=
    r.others i fun e hl hce hxe => hx e ⟨(hc e).2 ⟨List.mem_range.1 hl, hce⟩, he e ▸ hxe⟩
  have waits {e i : Nat} (hce : s.completes x.guard e) (hxe : (s.g.rdEntry s.tm.regs s.tm.depth e).expected.getLsbD i = true) : s1.g.waitOf i = .rjoin e :=
    ((hc e).1 hce).2.2 i (by rwa [he])
  refine ⟨hb, fun i hwi hn => ?_, fun i hm hwi => ?_, fun e hce => ⟨?_, fun i hxe => ?_⟩, fun i hm hx => ?_, fun e hce => ?_, fun n i h32 hn => ?_, ?_⟩
  · have hbit := (s.standing_bit x.guard i).2 hwi
    have hwait : s1.g.waitOf i = .rjoin (s.g.innerOf i - 1) := by rw [hw, if_pos hbit]
    obtain ⟨h1, h2, h3⟩ := stays (i := i) fun e hx => hn (by
      have := Wait.rjoin.inj (hwait.symm.trans (waits hx.1 hx.2))
      rwa [this])
    exact ⟨h1.trans hwait, by rw [h2, hp, hbit]; simpa using (hs.2 i (s.mask_of_trueLanes hs hwi.1)).2, h3.trans (hi i)⟩
  · have hbit : (s.standing x.guard).getLsbD i = false := by simpa using mt (s.standing_bit x.guard i).1 hwi
    have hwait : s1.g.waitOf i = .run := by rw [hw, hbit]; simpa using (hs.2 i hm).1
    obtain ⟨h1, h2, h3⟩ := r.keeps_lane (i := i) fun e h => by rw [hwait] at h; cases h
    exact ⟨h1.trans hwait, h2.trans (by rw [hp, hbit, hm]; rfl), h3.trans (hi i)⟩
  · exact r.freed e (List.mem_range.2 hce.1) ((hc e).1 hce).2
  · obtain ⟨h1, h2, h3⟩ := r.lanes e (List.mem_range.2 hce.1) ((hc e).1 hce).2 i (by rwa [he])
    refine ⟨h1, h2.trans (congrArg nextPc ?_), h3.trans (hpar e)⟩
    rw [hp, if_neg]
    intro hmove
    simp only [Bool.and_eq_true, Bool.not_eq_true'] at hmove
    obtain ⟨hm, hstays⟩ := hmove
    have := waits hce hxe
    rw [hw, hstays, (hs.2 i hm).1] at this
    cases this
  · have hbit : (s.standing x.guard).getLsbD i = false := by
      simpa using mt (s.standing_bit x.guard i).1 fun hwi => hm (s.mask_of_trueLanes hs hwi.1)
    obtain ⟨h1, h2, h3⟩ := stays hx
    exact ⟨h1.trans (by rw [hw, hbit]; simp), h2.trans (by rw [hp, if_neg]; simp [hm]), h3.trans (hi i)⟩
  · exact (r.entries e fun hx => hce ((hc e).2 ⟨List.mem_range.1 hx.1, hx.2⟩)).trans (he e)
  · rw [show t.g.rdV n i = s1.g.rdV n i from r.vectors n i h32 fun e hx => hn e (List.mem_range.1 hx), hg, ← Group.rdV_commitChain s.g s.cur.mask]
    rfl
  · have hk := r.group
    rw [hg] at hk
    exact congrArg (fun k : Group => { k with retired := t.g.retired }) hk

end Sys2Proof.Machine
end

section
/-! SUPPORT. BRK (R31, R298): the check of a direct target leaves the issuing group and its team alone, and a lane leaves its innermost entries. -/

namespace Sys2Proof.Machine

/-- The issue slot, the groups and the teams stand as they did. -/
structure State.IssueKept (s t : State) : Prop where
  cur : t.cur = s.cur
  groups : t.groups = s.groups
  teams : t.teams = s.teams

theorem State.IssueKept.refl (s : State) : s.IssueKept s := ⟨rfl, rfl, rfl⟩

theorem State.IssueKept.trans {s t u : State} (h : s.IssueKept t) (k : t.IssueKept u) : s.IssueKept u :=
  ⟨k.cur.trans h.cur, k.groups.trans h.groups, k.teams.trans h.teams⟩

theorem State.IssueKept.g {s t : State} (h : s.IssueKept t) : t.g = s.g := State.g_congr h.cur h.groups

theorem State.IssueKept.grp {s t : State} (h : s.IssueKept t) : t.grp = s.grp := by
  funext k
  unfold State.grp
  rw [h.groups]

theorem State.IssueKept.tm {s t : State} (h : s.IssueKept t) : t.tm = s.tm := by
  unfold State.tm State.team
  rw [h.cur, h.teams]

theorem State.IssueKept.trueLanes {s t : State} (h : s.IssueKept t) (x : Guard) : t.trueLanes x = s.trueLanes x := by
  unfold State.trueLanes
  rw [h.cur, h.g]

theorem State.choose_kept (s : State) (n : Nat) : s.IssueKept (s.choose n).2 := by
  unfold State.choose
  split_ifs <;> exact ⟨rfl, rfl, rfl⟩

theorem State.fillCore_kept (s : State) (c va : Nat) (t : TlbEntry) : s.IssueKept (s.fillCore c va t) := by
  unfold State.fillCore
  dsimp only
  split_ifs <;> exact ⟨rfl, rfl, rfl⟩

theorem State.askWalk_kept (s : State) (c asid va : Nat) : s.IssueKept (s.askWalk c asid va) := by
  unfold State.askWalk
  dsimp only
  split_ifs <;> exact ⟨rfl, rfl, rfl⟩

theorem State.translate_kept (s : State) (c asid va : Nat) : s.IssueKept (s.translate c asid va).2 := by
  unfold State.translate
  split
  · exact .refl s
  · split
    · exact s.fillCore_kept ..
    · dsimp only
      split_ifs
      · split
        · exact .refl s
        · exact ⟨rfl, rfl, rfl⟩
        · exact State.IssueKept.trans (t := s.setWalks _ _) ⟨rfl, rfl, rfl⟩ (State.askWalk_kept ..)
      · exact s.askWalk_kept ..

theorem State.allocLine_kept {s t : State} {line : Nat} (h : s.allocLine line = some t) : s.IssueKept t := by
  unfold State.allocLine at h
  dsimp only at h
  split_ifs at h
  · cases h; exact .refl s
  · cases h; exact ⟨rfl, rfl, rfl⟩
  · cases h; exact (s.choose_kept _).trans ⟨rfl, rfl, rfl⟩

theorem State.cacheLine_kept {s t : State} {c pa : Nat} {glitch : BitVec 512} (h : s.cacheLine c pa glitch = some t) : s.IssueKept t := by
  unfold State.cacheLine at h
  obtain ⟨u, hu, rfl⟩ := Option.map_eq_some_iff.1 h
  exact (State.allocLine_kept hu).trans ⟨rfl, rfl, rfl⟩

theorem State.fetchLine_kept {s t : State} {c asid : Nat} {pc : DWord} {l : Line} {b : Bool} (h : s.fetchLine c asid pc = .line l b t) : s.IssueKept t := by
  have hr := s.translate_kept c asid pc.toNat
  unfold State.fetchLine at h
  dsimp only at h
  split at h
  · cases h
  split at h
  · cases h
  split at h
  · cases h
  · cases h
  · split at h <;> cases h
  · split at h
    · cases h; exact hr
    · split at h <;> cases h
  · split at h
    · cases h
    split at h
    · split at h
      · cases h; exact hr
      · split at h
        · cases h; exact hr.trans (State.choose_kept ..)
        · split at h
          · next hc => injection h with _ _ ht; exact ht ▸ (hr.trans (State.choose_kept ..)).trans (State.cacheLine_kept hc)
          · cases h
    · split at h
      · next hc => injection h with _ _ ht; exact ht ▸ hr.trans (State.cacheLine_kept hc)
      · cases h

/-- A target that passes its check leaves the group and the team alone. -/
theorem State.checkTarget_kept {s u : State} {pc : DWord} (h : s.checkTarget pc = .ok u) : s.IssueKept u := by
  unfold State.checkTarget at h
  split at h
  · cases h
  · split at h
    · next hf =>
      split_ifs at h
      cases h
      exact State.fetchLine_kept hf
    · cases h
    · cases h; exact .refl s

/-- A lane leaves the expected mask of one entry: the step of `leaveEntries`. -/
def Group.leaveEntry (regs depth lane : Nat) (g : Group) (e : Nat) : Group :=
  g.wrEntry regs depth e { g.rdEntry regs depth e with expected := (g.rdEntry regs depth e).expected &&& ~~~(BitVec.ofNat 32 (2 ^ lane)) }

theorem Group.expected_leaveEntry (g : Group) (regs depth lane e f : Nat) :
    ((g.leaveEntry regs depth lane e).rdEntry regs depth f).expected =
      if e = f then (g.rdEntry regs depth f).expected &&& ~~~(BitVec.ofNat 32 (2 ^ lane)) else (g.rdEntry regs depth f).expected := by
  split_ifs with h
  · subst h
    exact congrArg Entry.expected (Group.rdEntry_wrEntry_same g regs depth e
      (x := { g.rdEntry regs depth e with expected := (g.rdEntry regs depth e).expected &&& ~~~(BitVec.ofNat 32 (2 ^ lane)) }) (g.rdEntry_parent_lt regs depth e))
  · exact congrArg Entry.expected (Group.rdEntry_wrEntry_other g regs depth _ h)

theorem Group.leaveEntry_removes (g : Group) (regs depth lane e : Nat) : ((g.leaveEntry regs depth lane e).rdEntry regs depth e).expected.getLsbD lane = false := by
  rw [Group.expected_leaveEntry, if_pos rfl, BitVec.getLsbD_and, BitVec.getLsbD_not, BitVec.getLsbD_ofNat, Nat.testBit_two_pow_self]
  by_cases h : lane < 32 <;> simp [h]

/-- Leaving never makes an entry expect a lane. -/
theorem Group.leaveEntry_not_expected {g : Group} {regs depth f i : Nat} (h : (g.rdEntry regs depth f).expected.getLsbD i = false) (lane e : Nat) :
    ((g.leaveEntry regs depth lane e).rdEntry regs depth f).expected.getLsbD i = false := by
  rw [Group.expected_leaveEntry]
  split_ifs
  · rw [BitVec.getLsbD_and, h, Bool.false_and]
  · exact h

/-- A fold reaches what one of its steps makes and none undoes. -/
theorem foldl_reaches {α β : Type} {f : β → α → β} {P : β → Prop} {l : List α} {a : α} (ha : a ∈ l) (reach : ∀ b, P (f b a)) (keep : ∀ b c, P b → P (f b c)) (b : β) :
    P (l.foldl f b) := by
  induction l generalizing b with
  | nil => cases ha
  | cons c l ih =>
    rcases List.mem_cons.1 ha with rfl | ha
    · exact List.foldlRecOn l f (reach b) fun x hx y _ => keep x y hx
    · exact ih ha _

theorem leaveEntries_removes (regs depth lane : Nat) (g : Group) {l : List Nat} {e : Nat} (he : e ∈ l) :
    ((leaveEntries regs depth lane g l).rdEntry regs depth e).expected.getLsbD lane = false :=
  foldl_reaches (f := Group.leaveEntry regs depth lane) (P := fun h => (h.rdEntry regs depth e).expected.getLsbD lane = false) he
    (fun h => h.leaveEntry_removes ..) (fun _ _ hx => Group.leaveEntry_not_expected hx ..) g

theorem leaveEntries_not_expected {regs depth e i : Nat} {g : Group} (h : (g.rdEntry regs depth e).expected.getLsbD i = false) (lane : Nat) (l : List Nat) :
    ((leaveEntries regs depth lane g l).rdEntry regs depth e).expected.getLsbD i = false :=
  List.foldlRecOn (motive := fun h : Group => (h.rdEntry regs depth e).expected.getLsbD i = false) l (Group.leaveEntry regs depth lane) h fun _ hx _ _ => Group.leaveEntry_not_expected hx ..

theorem leaveEntries_group (regs depth lane : Nat) (g : Group) (l : List Nat) :
    leaveEntries regs depth lane g l = { g with v := (leaveEntries regs depth lane g l).v } :=
  List.foldlRecOn (motive := fun h : Group => h = { g with v := h.v }) l (Group.leaveEntry regs depth lane) rfl fun h hx e _ =>
    congrArg (fun k : Group => { k with v := (h.leaveEntry regs depth lane e).v }) hx

theorem leaveEntries_innerOf (regs depth lane : Nat) (g : Group) (l : List Nat) (i : Nat) : (leaveEntries regs depth lane g l).innerOf i = g.innerOf i := by
  rw [leaveEntries_group]; rfl

theorem leaveEntries_rdV (regs depth lane : Nat) (g : Group) {l : List Nat} {r i : Nat} (hi : i < 32) (h : ∀ e ∈ l, entryReg regs depth e ≠ r) :
    (leaveEntries regs depth lane g l).rdV r i = g.rdV r i :=
  List.foldlRecOn (motive := fun k : Group => k.rdV r i = g.rdV r i) l (Group.leaveEntry regs depth lane) rfl fun _ hx e he => (Group.rdV_wrEntry_other _ _ _ _ hi (h e he)).trans hx

/-- Indices of a chain are those that a parent field or a lane's innermost entry can name. -/
theorem Group.chainOf_lt (g : Group) (regs depth fuel : Nat) {e : Nat} (he : e ≤ 128) {a : Nat} (ha : a ∈ g.chainOf regs depth fuel e) : a < 128 := by
  induction fuel generalizing e with
  | zero => cases ha
  | succ fuel ih =>
    unfold Group.chainOf at ha
    split_ifs at ha with h0
    · cases ha
    · rcases List.mem_cons.1 ha with rfl | ha
      · omega
      · exact ih (g.parentOf_le regs depth (e - 1)) ha

theorem Group.chainOf_congr {g h : Group} (hv : g.v = h.v) (regs depth fuel e : Nat) : g.chainOf regs depth fuel e = h.chainOf regs depth fuel e := by
  induction fuel generalizing e with
  | zero => rfl
  | succ fuel ih => simp only [Group.chainOf, Group.rdEntry_congr hv, ih]

/-- The chain of a lane's entries, innermost first. -/
def State.chain (s : State) (i : Nat) : List Nat := s.g.chainOf s.tm.regs s.tm.depth 64 (s.g.innerOf i)

/-- Lane i leaves its n innermost entries. -/
def State.breakLane (s : State) (n : Nat) (h : Group) (i : Nat) : Group :=
  (leaveEntries s.tm.regs s.tm.depth i h ((s.chain i).take n)).setInner i (s.g.parentOf s.tm.regs s.tm.depth (((s.chain i).drop (n - 1)).headD 0))

/-- The lanes t leave their n innermost entries. -/
def State.breakLanes (s : State) (t : LaneMask) (n : Nat) : State := s.modG fun g => g.each t (s.breakLane n)

theorem State.direct_ok {s u : State} {pc : DWord} (h : s.checkTarget pc = .ok u) (k : State → Out) : s.direct pc k = k u := by
  unfold State.direct
  rw [h]

theorem State.exec_brk {s u : State} {x : BraArgs} (h : s.Ready [] []) (hu : s.endChain.checkTarget (braTarget s.cur.pc x) = .ok u)
    (hn : ∀ i, (u.trueLanes x.guard).getLsbD i = true → x.depth.toNat ≤ (u.chain i).length) :
    exec (.brk x) s = .next
      ((((u.breakLanes (u.trueLanes x.guard) x.depth.toNat).jump (u.trueLanes x.guard) fun _ => braTarget s.cur.pc x).finish false).releaseEntries) := by
  have hx : exec (.brk x) s = execBrk x s := rfl
  have hbad : (maskOf fun i => (u.trueLanes x.guard).getLsbD i && decide ((u.chain i).length < x.depth.toNat)) = 0 := by
    refine BitVec.eq_of_getLsbD_eq fun i _ => ?_
    rw [maskOf_bit, show BitVec.getLsbD (0 : LaneMask) i = false from BitVec.getLsbD_zero]
    by_cases hi : (u.trueLanes x.guard).getLsbD i = true
    · simp [Nat.not_lt.2 (hn i hi)]
    · simp [hi]
  rw [hx, execBrk]
  simp only [s.enter_ok _ _ _ h, State.direct_ok hu]
  exact if_neg (not_not_intro hbad)

theorem State.breakLane_innerOf (s : State) (n : Nat) (h : Group) (i j : Nat) :
    (s.breakLane n h i).innerOf j = if i = j then s.g.parentOf s.tm.regs s.tm.depth (((s.chain i).drop (n - 1)).headD 0) else h.innerOf j := by
  rw [State.breakLane, Group.innerOf_setInner, leaveEntries_innerOf]

theorem State.breakLane_group (s : State) (n : Nat) (h : Group) (i : Nat) :
    s.breakLane n h i = { h with v := (s.breakLane n h i).v, inner := (s.breakLane n h i).inner } :=
  congrArg (fun k : Group => { k with inner := (s.breakLane n h i).inner }) (leaveEntries_group s.tm.regs s.tm.depth i h ((s.chain i).take n))

theorem State.breakLanes_aside (s : State) (t : LaneMask) (n : Nat) : s.Aside (s.breakLanes t n) := .setGrp s _

theorem State.breakLanes_g (s : State) (t : LaneMask) (n : Nat) : (s.breakLanes t n).g = s.g.each t (s.breakLane n) := State.g_setGrp s _

theorem State.breakLanes_innerOf (s : State) (t : LaneMask) (n i : Nat) :
    (s.breakLanes t n).g.innerOf i = if t.getLsbD i then s.g.parentOf s.tm.regs s.tm.depth (((s.chain i).drop (n - 1)).headD 0) else s.g.innerOf i := by
  rw [State.breakLanes_g]
  exact Group.each_lane Group.innerOf t (s.breakLane n) (fun i _ => s.g.parentOf s.tm.regs s.tm.depth (((s.chain i).drop (n - 1)).headD 0)) (s.breakLane_innerOf n) s.g i

/-- The entries that a lane leaves do not expect it (R31). -/
theorem State.breakLanes_not_expected (s : State) {t : LaneMask} {n i e : Nat} (hi : t.getLsbD i = true) (he : e ∈ (s.chain i).take n) :
    ((s.breakLanes t n).g.rdEntry s.tm.regs s.tm.depth e).expected.getLsbD i = false := by
  rw [State.breakLanes_g]
  exact foldl_reaches (f := s.breakLane n) (P := fun k => (k.rdEntry s.tm.regs s.tm.depth e).expected.getLsbD i = false) (mem_lanesOf.2 hi)
    (fun k => leaveEntries_removes s.tm.regs s.tm.depth i k he) (fun _ j hk => leaveEntries_not_expected hk j _) s.g

theorem State.breakLanes_rdV (s : State) (t : LaneMask) (n : Nat) {r i : Nat} (h32 : i < 32) (h : ∀ j, ∀ e ∈ s.chain j, entryReg s.tm.regs s.tm.depth e ≠ r) :
    (s.breakLanes t n).g.rdV r i = s.g.rdV r i := by
  rw [State.breakLanes_g]
  exact Group.each_keeps (fun k => k.rdV r i) t (s.breakLane n) (fun k j => leaveEntries_rdV _ _ _ k h32 fun e he => h j e (List.mem_of_mem_take he)) s.g

theorem State.breakLanes_group (s : State) (t : LaneMask) (n : Nat) :
    (s.breakLanes t n).g = { s.g with v := (s.breakLanes t n).g.v, inner := (s.breakLanes t n).g.inner } := by
  have hk := Group.each_keeps (fun k => { k with v := [], inner := [] }) t (s.breakLane n)
    (fun k i => congrArg (fun x : Group => { x with v := [], inner := [] }) (s.breakLane_group n k i)) s.g
  rw [← State.breakLanes_g] at hk
  exact congrArg (fun x : Group => { x with v := (s.breakLanes t n).g.v, inner := (s.breakLanes t n).g.inner }) hk

theorem State.jump_aside (s : State) (t : LaneMask) (target : Nat → DWord) : s.Aside (s.jump t target) := (s.skipLanes_aside t).trans (.setGrp _ _)

/-- Of its group, a jump changes the program counters alone (R299). -/
theorem State.jump_g (s : State) (t : LaneMask) (target : Nat → DWord) :
    (∀ i, (s.jump t target).g.pcOf i = if t.getLsbD i then target i else if s.cur.mask.getLsbD i && !t.getLsbD i then nextPc s.cur.pc else s.g.pcOf i) ∧
    (s.jump t target).g = { s.g with pc := (s.jump t target).g.pc } := by
  have hg : (s.jump t target).g = (s.skipLanes t).g.each t fun h i => h.setPc i (target i) := State.g_setGrp _ _
  refine ⟨fun i => ?_, ?_⟩
  · rw [hg, Group.pcOf_each_setPc, State.skipLanes_g, Group.pcOf_each_setPc, getLsbD_and_not]
  · have hk := Group.each_setPc_eq (s.skipLanes t).g t target
    rw [← hg, State.skipLanes_g, Group.each_setPc_eq] at hk
    exact hk

/-- A BRK n HAS ISSUED: each true-guard lane runs at the target inside the parent of its n-th entry, and none of the n entries that it has left expects it; the other lanes of the path have passed; registers that hold no entry stay (R31). -/
structure State.Broke (s u t : State) (x : BraArgs) : Prop where
  beside : u.Beside t
  kept : u.grp = s.endChain.grp
  leaving : ∀ i, (s.trueLanes x.guard).getLsbD i = true → t.g.waitOf i = .run ∧ t.g.pcOf i = braTarget s.cur.pc x ∧
    t.g.innerOf i = s.parentOf ((s.chain i).getD (x.depth.toNat - 1) 0) ∧
    ∀ e ∈ (s.chain i).take x.depth.toNat, ¬ (t.g.rdEntry s.tm.regs s.tm.depth e).expected.getLsbD i = true
  passing : ∀ i, s.cur.mask.getLsbD i = true → ¬ (s.trueLanes x.guard).getLsbD i = true →
    t.g.waitOf i = .run ∧ t.g.pcOf i = nextPc s.cur.pc ∧ t.g.innerOf i = s.g.innerOf i
  vectors : ∀ r i, i < 32 → (∀ e < 128, entryReg s.tm.regs s.tm.depth e ≠ r) → t.g.rdV r i = s.g.rdV r i
  group : t.g = { s.g.commitChain s.cur.mask with v := t.g.v, wait := t.g.wait, inner := t.g.inner, pc := t.g.pc, retired := t.g.retired }

/-- BRK does what R31 says in a team whose depth the 7-bit index of an entry spans: the second half of O22 with the bound that it lacks, which every launch keeps (R28). -/
theorem State.brk_results_of_depth_le {s u : State} {x : BraArgs} (hs : s.OnPath) (h : s.Ready [] []) (hu : s.endChain.checkTarget (braTarget s.cur.pc x) = .ok u)
    (hinner : ∀ i, s.g.innerOf i ≤ 128) (hn : ∀ i, (s.trueLanes x.guard).getLsbD i = true → x.depth.toNat ≤ (s.chain i).length) (hd : s.tm.depth ≤ 128) :
    ∃ t, exec (.brk x) s = .next t ∧ s.Broke u t x := by
  have hk := State.checkTarget_kept hu
  have hcur : u.cur = s.cur := hk.cur.trans s.endChain_cur
  have hg : u.g = s.g.commitChain s.cur.mask := hk.g.trans s.endChain_g
  have htm : u.tm = s.tm := hk.tm.trans (by rw [State.endChain_eq]; rfl)
  have htrue : u.trueLanes x.guard = s.trueLanes x.guard := (hk.trueLanes _).trans (s.trueLanes_endChain _)
  have hv : u.g.v = s.g.v := by rw [hg, Group.commitChain_eq]
  have hchain (i : Nat) : u.chain i = s.chain i := by
    unfold State.chain
    rw [htm, Group.chainOf_congr hv, hg, Group.innerOf_commitChain]
  have hpar (e : Nat) : u.g.parentOf u.tm.regs u.tm.depth e = s.parentOf e := by
    unfold Group.parentOf State.parentOf
    rw [htm, Group.rdEntry_congr hv]
  refine ⟨_, State.exec_brk h hu fun i hi => hchain i ▸ hn i (htrue ▸ hi), ?_⟩
  rw [htrue]
  set m := s.trueLanes x.guard
  set n := x.depth.toNat
  have hb := u.breakLanes_group m n
  have hbi := u.breakLanes_innerOf m n
  have hbcur : (u.breakLanes m n).cur = s.cur := (u.breakLanes_aside m n).cur.trans hcur
  obtain ⟨hp, hj⟩ := (u.breakLanes m n).jump_g m fun _ => braTarget s.cur.pc x
  obtain ⟨hbeside, r⟩ := State.finish_releaseEntries ((u.breakLanes_aside m n).trans (State.jump_aside (u.breakLanes m n) m fun _ => braTarget s.cur.pc x))
  set s1 := (u.breakLanes m n).jump m fun _ => braTarget s.cur.pc x
  set t := (s1.finish false).releaseEntries
  rw [htm] at r
  rw [hbcur] at hp
  have hw (i : Nat) : s1.g.waitOf i = s.g.waitOf i := by
    rw [hj, hb, hg, ← Group.waitOf_commitChain s.g s.cur.mask]; rfl
  have hi (i : Nat) : s1.g.innerOf i = if m.getLsbD i then s.parentOf (((s.chain i).drop (n - 1)).headD 0) else s.g.innerOf i := by
    rw [← hpar, ← hchain, ← Group.innerOf_commitChain s.g s.cur.mask, ← hg, ← hbi, hj]; rfl
  -- a lane of the path runs, so that no release moves it
  have runs {i : Nat} (hm : s.cur.mask.getLsbD i = true) : t.g.waitOf i = .run ∧ t.g.pcOf i = s1.g.pcOf i ∧ t.g.innerOf i = s1.g.innerOf i := by
    have hwait : s1.g.waitOf i = .run := (hw i).trans (hs.2 i hm).1
    obtain ⟨h1, h2, h3⟩ := r.keeps_lane (i := i) fun e h => by rw [hwait] at h; cases h
    exact ⟨h1.trans hwait, h2, h3⟩
  refine ⟨hbeside, hk.grp, fun i hi' => ?_, fun i hm hi' => ?_, fun q i h32 hq => ?_, ?_⟩
  · obtain ⟨h1, h2, h3⟩ := runs (s.mask_of_trueLanes hs hi')
    refine ⟨h1, h2.trans (by rw [hp, if_pos hi']), h3.trans ?_, fun e he => ?_⟩
    · rw [hi, if_pos hi', List.getD_eq_getElem?_getD, ← List.head?_drop, List.headD_eq_head?_getD]
    · refine r.not_expected (e := e) ?_
      have := u.breakLanes_not_expected hi' (n := n) ((hchain i).symm ▸ he)
      rw [htm] at this
      rw [Group.rdEntry_congr (h := (u.breakLanes m n).g) (by rw [hj]), this]
      exact Bool.false_ne_true
  · obtain ⟨h1, h2, h3⟩ := runs hm
    exact ⟨h1, h2.trans (by simp [hp, hm, hi', m]), h3.trans (by rw [hi, if_neg hi'])⟩
  · have hchains (j e : Nat) (he : e ∈ u.chain j) : entryReg u.tm.regs u.tm.depth e ≠ q := by
      rw [htm]
      exact hq e (Group.chainOf_lt s.g s.tm.regs s.tm.depth 64 (hinner j) (show e ∈ s.chain j from hchain j ▸ he))
    calc t.g.rdV q i = s1.g.rdV q i := r.vectors q i h32 fun e he => hq e ((List.mem_range.1 he).trans_le hd)
      _ = (u.breakLanes m n).g.rdV q i := by rw [hj]; rfl
      _ = u.g.rdV q i := u.breakLanes_rdV m n h32 hchains
      _ = s.g.rdV q i := by rw [hg, Group.rdV_commitChain]
  · have hr := r.group
    rw [hj, hb, hg] at hr
    exact congrArg (fun k : Group => { k with retired := t.g.retired }) hr

end Sys2Proof.Machine
end

section
/-! SUPPORT. O22 fails on a team whose depth exceeds 128, and only there: `State.rjoin_results` is its RJOIN half and `State.brk_results_of_depth_le` its BRK half up to that depth. -/

namespace Sys2Proof.Machine

/-- What holds of the default and of every entry holds of every key. -/
theorem tabGet_all {α : Type} {P : α → Prop} {d : α} {t : Tab α} (hd : P d) (ht : ∀ e ∈ t, P e.2) (i : Nat) : P (tabGet d t i) := by
  induction t with
  | nil => exact hd
  | cons e t ih =>
    simp only [tabGet]
    split_ifs
    · exact ht e List.mem_cons_self
    · exact ih fun x hx => ht x (List.mem_cons_of_mem _ hx)

/-- `BRK 1` to the slot that issues. -/
def breakOne : BraArgs := ⟨pt, 0, 0, 0, 1⟩

/-- The RJOIN half applied: lane 0 is the first to come to its entry's RJOIN. -/
theorem witness_rjoin_results : ∃ t, exec (.rjoin ⟨pt⟩) firstOne = .next t ∧ firstOne.Rjoined t pt :=
  firstOne.rjoin_results ⟨pt⟩ (on_path (by decide +kernel)) (on_ready (by decide +kernel))

/-- The BRK half applied: every lane leaves entry 0 of a team of depth 16. -/
theorem witness_brk_results : ∃ u t, exec (.brk breakOne) inEntry = .next t ∧ inEntry.Broke u t breakOne := by
  obtain ⟨u, hu⟩ : ∃ u, inEntry.endChain.checkTarget (braTarget inEntry.cur.pc breakOne) = .ok u := on_target (by decide +kernel)
  exact ⟨u, State.brk_results_of_depth_le (on_path (by decide +kernel)) (on_ready (by decide +kernel)) hu
    (tabGet_all (P := (· ≤ 128)) (by decide) (by decide +kernel)) (on_lanes (by decide +kernel)) (by decide +kernel)⟩

/-- A team of depth 129, whose entry 128 lies in v2047. Lane 0 waits at the RJOIN of entry 128, which expects it alone; lane 1, inside entry 0, issues. -/
def deepTeam : State :=
  let s : State := { bench with teams := tabPut bench.teams 0 { bench.tm with depth := 129 } }
  let t : State := s.modG fun g =>
    ({ g with inner := [(1, 1)], wait := [(0, .rjoin 128)] }.wrEntry 2048 129 0 ⟨127, 0, 2⟩).wrEntry 2048 129 128 ⟨127, 0, 1⟩
  { t with cur := { t.cur with mask := 2 } }

/-- The expected mask of entry 128 before and after the BRK: its release frees it. -/
theorem deepTeam_entry128 : deepTeam.g.rdV 2047 0 = 1 ∧ goes (exec (.brk breakOne) deepTeam) (fun t => t.g.rdV 2047 0 = 0) = true := by decide +kernel

/-- v2047 holds none of the entries 0 to 127. -/
theorem deepTeam_entryReg : ∀ e < 128, entryReg deepTeam.tm.regs deepTeam.tm.depth e ≠ 2047 := by decide +kernel

/-- Refutes O22: the BRK clause lets only the registers of entries 0 to 127 change, but nothing in it bounds the team's depth, as a launch does by 64 (R28). In a team of depth 129 the release that ends a BRK frees a complete entry 128, whose register v2047 the clause says to stay. -/
theorem not_reconvergenceJoin : ¬ Obligations.ReconvergenceJoin := by
  unfold Obligations.ReconvergenceJoin
  rintro ⟨-, brk⟩
  obtain ⟨u, hu⟩ : ∃ u, deepTeam.endChain.checkTarget (braTarget deepTeam.cur.pc breakOne) = .ok u := on_target (by decide +kernel)
  obtain ⟨t, ht, -, -, -, -, frame, -⟩ := brk breakOne deepTeam u (on_path (by decide +kernel)) (on_ready (by decide +kernel)) (by decide) hu
    (tabGet_all (P := (· ≤ 128)) (by decide) (by decide +kernel)) (on_lanes (by decide +kernel))
  have stays : t.g.rdV 2047 0 = deepTeam.g.rdV 2047 0 := frame 2047 0 (by decide) deepTeam_entryReg
  obtain ⟨before, after⟩ := deepTeam_entry128
  have freed : t.g.rdV 2047 0 = 0 := by simpa [goes, ht] using after
  rw [freed, before] at stays
  exact absurd stays (by decide)

end Sys2Proof.Machine
end

section
/-! SUPPORT. O7, integer arithmetic (R332, R333): what `intOp` and `intOpI` answer, and the nine exact results in the spec's terms. What `VDone` says of the latch l0 after a 32-bit result is the model's choice of log 82. -/

namespace Sys2Proof.Machine

/-- Integer sources read as before a chain's end. -/
@[simp] theorem intArgs_endChain (s : State) (x : VArgs) (i : Nat) : intArgs s.endChain x i = intArgs s x i := by
  simp only [intArgs, State.rdSrc_endChain]

@[simp] theorem intArgsI_endChain (s : State) (x : VImm) (i : Nat) : intArgsI s.endChain x i = intArgsI s x i := by
  simp only [intArgsI, State.rdSrc_endChain]

/-- AN INTEGER INSTRUCTION WITH THE EXACT RESULT z (R333): whenever its slot may issue, each true-guard lane takes z of its sources under the write-back rule. -/
theorem State.intOp_results {s : State} {i : Instr} {p : VSpec} {x : VArgs} {z : Int → Int → Int → Int} (h : exec i s = intOp p x z s) :
    s.Results i (p.form x (.ofTy x.ty) true) fun l => intOut x.ty x.sat (z (intArgs s x l).1 (intArgs s x l).2.1 (intArgs s x l).2.2) := by
  intro ready
  rw [h]
  exact s.vecOp_out (p.form x (.ofTy x.ty) true) (fun t l => intOut x.ty x.sat (z (intArgs t x l).1 (intArgs t x l).2.1 (intArgs t x l).2.2)) ready
    fun l => by rw [intArgs_endChain]

/-- The same of an I-form, whose B is the widened immediate (R54). -/
theorem State.intOpI_results {s : State} {i : Instr} {p : VSpec} {x : VImm} {z : Int → Int → Int} (h : exec i s = intOpI p x z s) :
    s.Results i (p.formI x (.ofTy x.ty)) fun l => intOut x.ty x.sat (z (intArgsI s x l).1 (intArgsI s x l).2) := by
  intro ready
  rw [h]
  exact s.vecOp_out (p.formI x (.ofTy x.ty)) (fun t l => intOut x.ty x.sat (z (intArgsI t x l).1 (intArgsI t x l).2)) ready
    fun l => by rw [intArgsI_endChain]

/-- The magnitude by cases, as R332 writes |a|. -/
theorem natAbs_eq_ite (a : Int) : (a.natAbs : Int) = if a < 0 then -a else a := by
  split_ifs with h
  · exact Int.ofNat_natAbs_of_nonpos h.le
  · exact Int.natAbs_of_nonneg (not_lt.1 h)

theorem intOp_congr {p : VSpec} {x : VArgs} {z z' : Int → Int → Int → Int} {s : State} (h : ∀ a b c, z a b c = z' a b c) : intOp p x z s = intOp p x z' s := by
  rw [show z = z' from funext fun a => funext fun b => funext fun c => h a b c]

theorem intOpI_congr {p : VSpec} {x : VImm} {z z' : Int → Int → Int} {s : State} (h : ∀ a b, z a b = z' a b) : intOpI p x z s = intOpI p x z' s := by
  rw [show z = z' from funext fun a => funext fun b => h a b]

section Rows
/-! The rows of R332: each instruction is the shared operation with its exact result z. -/
variable (x : VArgs) (y : VImm) (s : State)

theorem exec_iadd : exec (.iadd x) s = intOp .intArith x (fun a b _ => a + b) s := rfl
theorem exec_isub : exec (.isub x) s = intOp .intArith x (fun a b _ => a - b) s := rfl
theorem exec_imul : exec (.imul x) s = intOp .intArith x (fun a b _ => a * b) s := rfl
theorem exec_imulh : exec (.imulh x) s = intOp .intNoSat x (fun a b _ => a * b / (2 ^ x.ty.bits : Nat)) s := rfl
theorem exec_imad : exec (.imad x) s = intOp .intMad x (fun a b c => a * b + c) s := rfl
theorem exec_ineg : exec (.ineg x) s = intOp .intUnary x (fun a _ _ => -a) s := rfl
theorem exec_iaddI : exec (.iaddI y) s = intOpI .intArith y (fun a b => a + b) s := rfl
theorem exec_isubI : exec (.isubI y) s = intOpI .intArith y (fun a b => a - b) s := rfl
theorem exec_imulI : exec (.imulI y) s = intOpI .intArith y (fun a b => a * b) s := rfl

theorem exec_imin : exec (.imin x) s = intOp .intNoSat x (fun a b _ => if a < b then a else b) s := by
  rw [show exec (.imin x) s = execImin x s from rfl]
  exact intOp_congr fun a b _ => min_def_lt a b

theorem exec_imax : exec (.imax x) s = intOp .intNoSat x (fun a b _ => if a < b then b else a) s := by
  rw [show exec (.imax x) s = execImax x s from rfl]
  exact intOp_congr fun a b _ => max_def_lt a b

theorem exec_iabs : exec (.iabs x) s = intOp .intUnary x (fun a _ _ => if a < 0 then -a else a) s := by
  rw [show exec (.iabs x) s = execIabs x s from rfl]
  exact intOp_congr fun a _ _ => natAbs_eq_ite a

theorem exec_iminI : exec (.iminI y) s = intOpI .intNoSat y (fun a b => if a < b then a else b) s := by
  rw [show exec (.iminI y) s = execIminI y s from rfl]
  exact intOpI_congr min_def_lt

theorem exec_imaxI : exec (.imaxI y) s = intOpI .intNoSat y (fun a b => if a < b then b else a) s := by
  rw [show exec (.imaxI y) s = execImaxI y s from rfl]
  exact intOpI_congr max_def_lt

end Rows

/-- The rule applied: IADD.s32 v2, v4, v6 issues in every lane. -/
theorem witness_intOp_results : ∃ t, exec (.iadd (vx .s32)) bench = .next t ∧ bench.VDone t (VSpec.intArith.form (vx .s32) .word true) fun l =>
    intOut .s32 false ((intArgs bench (vx .s32) l).1 + (intArgs bench (vx .s32) l).2.1) :=
  State.intOp_results (z := fun a b _ => a + b) (exec_iadd _ _) (witness_vector_forms (.intArith, .s32) (by simp)).1

/-- The I-form's rule applied: IADD.s32 v2, v4, 7. -/
theorem witness_intOpI_results : ∃ t, exec (.iaddI (vi .s32 7)) bench = .next t ∧ bench.VDone t (VSpec.intArith.formI (vi .s32 7) .word) fun l =>
    intOut .s32 false ((intArgsI bench (vi .s32 7) l).1 + (intArgsI bench (vi .s32 7) l).2) :=
  State.intOpI_results (z := fun a b => a + b) (exec_iaddI _ _) (witness_vector_forms (.intArith, .s32) (by simp)).2.2

/-- Settles O7: every row of R332 is `intOp` or `intOpI` of its exact result, and `State.vecOp_done` says what such a slot leaves. Its clause on l0 after a 32-bit result is log 82's choice. -/
theorem integerResults : Obligations.IntegerResults := by
  unfold Obligations.IntegerResults
  simp only [List.forall_mem_cons, List.not_mem_nil, false_imp_iff, implies_true, and_true]
  refine ⟨⟨?iadd, ?isub, ?imul, ?imulh, ?imad, ?imin, ?imax, ?iabs, ?ineg⟩, ?iaddI, ?isubI, ?imulI, ?iminI, ?imaxI⟩
  -- each result is elaborated before it meets the goal, whose lambda does not determine z
  case iadd => exact fun x s => (State.intOp_results (exec_iadd x s) :)
  case isub => exact fun x s => (State.intOp_results (exec_isub x s) :)
  case imul => exact fun x s => (State.intOp_results (exec_imul x s) :)
  case imulh => exact fun x s => (State.intOp_results (exec_imulh x s) :)
  case imad => exact fun x s => (State.intOp_results (exec_imad x s) :)
  case imin => exact fun x s => (State.intOp_results (exec_imin x s) :)
  case imax => exact fun x s => (State.intOp_results (exec_imax x s) :)
  case iabs => exact fun x s => (State.intOp_results (exec_iabs x s) :)
  case ineg => exact fun x s => (State.intOp_results (exec_ineg x s) :)
  case iaddI => exact fun x s => (State.intOpI_results (exec_iaddI x s) :)
  case isubI => exact fun x s => (State.intOpI_results (exec_isubI x s) :)
  case imulI => exact fun x s => (State.intOpI_results (exec_imulI x s) :)
  case iminI => exact fun x s => (State.intOpI_results (exec_iminI x s) :)
  case imaxI => exact fun x s => (State.intOpI_results (exec_imaxI x s) :)

end Sys2Proof.Machine
end
